-- ==== Sys2Proof/Word.lean ====
section
/-!
DEFINITION. Sys2Proof/Word.lean: the word types and the shape of a sparse table.
Registers are 32 bits wide and little-endian (R15); every sparse store of the machine (a register file, the
granary, a local store) is a list of key and value pairs in one canonical form (Machine/Ops.lean has its operations).
-/
namespace Sys2Proof

/-- A register word (R15), a scalar register (R108), an FP32 bit pattern (R158). -/
abbrev Word := BitVec 32

/-- A byte of host memory, the granary or a local store. -/
abbrev Byte := BitVec 8

/-- A 64-byte record: a descriptor (R55), an event record (R440), a stored block (R187). -/
abbrev Rec64 := BitVec 512

/-- A sparse table: keys strictly rising, no value equal to the table's default. -/
abbrev Tbl (α : Type) := List (Nat × α)

/-- Sparse bytes by address. -/
abbrev Mem := Tbl Byte

end Sys2Proof
end

