-- ==== Sys2Proof/Config.lean ====
section
/-!
DEFINITION. Sys2Proof/Config.lean: the free values (no body, so nothing can be proved of their values) and the
functions the manual takes from elsewhere. Each is named in the assumption log.
-/
namespace Sys2Proof.Config

/-- FREE VALUE (log 2). A 32-bit value the manual leaves undefined, one for each index of State.fresh. -/
opaque freeWord : Nat → Word

/-- FREE VALUE (log 2). A byte of a store whose contents the manual leaves undefined (R154, R269, R339, R348, R466):
the index of the undefining event, then the address. -/
opaque freeByte : Nat → Nat → Byte

/-- FREE VALUE (log 10). BOOT_NONCE, from the on-die entropy source (R476). -/
opaque bootNonce : Nat → BitVec 256

/-- FREE VALUE (log 11). The set of the L1 cache that a 128-byte line takes; R116 names 256 sets a way and no function. -/
opaque l1Set : Nat → Fin 256

/-- FREE VALUE (log 12). Which entry leaves a full walk cache or ATC (R275, R276): the index of the event. -/
opaque cacheVictim : Nat → Nat

/-- FREE VALUE (log 9). PWR_LEAK of the part's leakage table in mW: the P-state, the domain (R410, R432, R472). -/
opaque leakage : Nat → Nat → BitVec 16

/-- UNINTERPRETED (log 13). SHA-512, fixed outside the manual. -/
opaque sha512 : List Byte → BitVec 512

/-- UNINTERPRETED (log 13). Ed25519 verification under RFC 8032: public key, message, signature. -/
opaque ed25519Verify : BitVec 256 → List Byte → BitVec 512 → Bool

/-- UNINTERPRETED (log 13). Ed25519 signing under RFC 8032: seed, message. -/
opaque ed25519Sign : BitVec 256 → List Byte → BitVec 512

/-- UNINTERPRETED (log 13). The public key of an Ed25519 seed. -/
opaque ed25519Public : BitVec 256 → BitVec 256

/-- UNINTERPRETED (log 13). The seed the PUF gives with the record's helper data (R471). -/
opaque pufSeed : Nat → BitVec 256

/-- UNINTERPRETED (log 14). The boot ROM image whose digest is measurement 1 (R482). -/
opaque bootRom : List Byte

/-- FREE VALUE (log 33). The PCI Vendor ID of the physical function, which R496 names and the manual does not state. -/
opaque vendorId : BitVec 16

/-- FREE VALUE (log 33). CTExponent, DataTransferSize and MaxSPDMmsgSize of the SPDM CAPABILITIES response (R481). -/
opaque spdmLimits : Nat → BitVec 32

end Sys2Proof.Config
end

