-- ==== Sys2Proof/Machine/Base.lean ====
section
/-!
DEFINITION. Sys2Proof/Machine/Base.lean: sparse tables, byte memories and bit helpers, on which every other file rests.
-/
namespace Sys2Proof

/-! ## Sparse tables (keys strictly rising) -/

/-- The entry at a key. -/
def Tbl.find {α : Type} : Tbl α → Nat → Option α
  | [], _ => none
  | (j, v) :: t, k => if j = k then some v else Tbl.find t k

/-- The entry at a key, or the table's default. -/
def Tbl.get {α : Type} (t : Tbl α) (k : Nat) (d : α) : α := (Tbl.find t k).getD d

/-- Every entry below a key. -/
def Tbl.below {α : Type} (t : Tbl α) (k : Nat) : Tbl α := t.filter (fun e => e.1 < k)

/-- Every entry at or above a key. -/
def Tbl.above {α : Type} (t : Tbl α) (k : Nat) : Tbl α := t.filter (fun e => k ≤ e.1)

/-- The table without a key. -/
def Tbl.erase {α : Type} (t : Tbl α) (k : Nat) : Tbl α := Tbl.below t k ++ Tbl.above t (k + 1)

/-- The table with an entry put at a key. -/
def Tbl.put {α : Type} (t : Tbl α) (k : Nat) (v : α) : Tbl α := Tbl.below t k ++ (k, v) :: Tbl.above t (k + 1)

/-- Put in canonical form: the default value is not listed. -/
def Tbl.set {α : Type} [DecidableEq α] (t : Tbl α) (k : Nat) (v d : α) : Tbl α :=
  if v = d then Tbl.erase t k else Tbl.put t k v

/-- The table without the keys of [a, a + n). -/
def Tbl.cut {α : Type} (t : Tbl α) (a n : Nat) : Tbl α := Tbl.below t a ++ Tbl.above t (a + n)

/-- The entries of [a, a + n), renumbered from 0. -/
def Tbl.slice {α : Type} (t : Tbl α) (a n : Nat) : Tbl α :=
  (t.filter (fun e => a ≤ e.1 && e.1 < a + n)).map (fun e => (e.1 - a, e.2))

/-- A table whose keys start at 0, moved up to start at a. -/
def Tbl.shift {α : Type} (t : Tbl α) (a : Nat) : Tbl α := t.map (fun e => (e.1 + a, e.2))

/-- The keys of [a, a + n) replaced by those of u, whose keys start at 0. -/
def Tbl.paste {α : Type} (t : Tbl α) (a n : Nat) (u : Tbl α) : Tbl α :=
  Tbl.below t a ++ Tbl.shift (u.filter (fun e => e.1 < n)) a ++ Tbl.above t (a + n)

/-- The canonical form: keys strictly rising. -/
def Tbl.Sorted {α : Type} (t : Tbl α) : Prop := List.Pairwise (fun a b => a.1 < b.1) t

/-! ## Byte memories (an unlisted byte is 0) -/

/-- A byte. -/
def Mem.byte (m : Mem) (a : Nat) : Byte := Tbl.get m a 0

/-- A byte stored. -/
def Mem.setByte (m : Mem) (a : Nat) (b : Byte) : Mem := Tbl.set m a b 0

/-- The listed form of a run of bytes from address a. -/
def Mem.ofBytes : Nat → List Byte → Mem
  | _, [] => []
  | a, b :: bs => if b = 0 then Mem.ofBytes (a + 1) bs else (a, b) :: Mem.ofBytes (a + 1) bs

/-- A run of bytes stored. -/
def Mem.write (m : Mem) (a : Nat) (bs : List Byte) : Mem :=
  Tbl.below m a ++ Mem.ofBytes a bs ++ Tbl.above m (a + bs.length)

/-- A run of bytes read. -/
def Mem.read (m : Mem) (a n : Nat) : List Byte := (List.range n).map (fun i => Mem.byte m (a + i))

/-- The canonical form of a byte memory: addresses strictly rising and no byte 0 listed. -/
def Mem.wf : Mem → Bool
  | [] => true
  | [e] => e.2 != 0
  | e :: f :: t => e.2 != 0 && decide (e.1 < f.1) && Mem.wf (f :: t)

/-! ## Numbers and bytes -/

/-- Little-endian value of bytes (R15). -/
def leNat : List Byte → Nat
  | [] => 0
  | b :: bs => b.toNat + 256 * leNat bs

/-- n little-endian bytes of a number. -/
def natLe : Nat → Nat → List Byte
  | 0, _ => []
  | n + 1, x => BitVec.ofNat 8 x :: natLe n (x / 256)

/-- The bytes of a bit vector, byte 0 first. -/
def bytesOf {w : Nat} (n : Nat) (x : BitVec w) : List Byte := natLe n x.toNat

/-- Bits hi down to lo of a number. -/
def bits (x hi lo : Nat) : Nat := (x / 2 ^ lo) % 2 ^ (hi + 1 - lo)

/-- One bit of a number. -/
def bitOf (x i : Nat) : Bool := (x / 2 ^ i) % 2 = 1

/-- A Bool as a bit. -/
def b2n (b : Bool) : Nat := if b then 1 else 0

/-- A field placed at a bit. -/
def fld (v lo : Nat) : Nat := v * 2 ^ lo

/-- A number's low n bits. -/
def lowBits (x n : Nat) : Nat := x % 2 ^ n

/-- Bits hi to lo of x replaced by v. -/
def putBits (x hi lo v : Nat) : Nat :=
  x - fld (bits x hi lo) lo + fld (v % 2 ^ (hi + 1 - lo)) lo

/-- Count of ones among the low n bits. -/
def ones (x : Nat) : Nat → Nat
  | 0 => 0
  | n + 1 => ones x n + (if bitOf x n then 1 else 0)

/-- The set bits below n, ascending. -/
def setBits (x n : Nat) : List Nat := (List.range n).filter (fun i => bitOf x i)

/-- A 16-, 32- or 64-bit two's complement value as an integer. -/
def sx (n x : Nat) : Int := if bitOf x (n - 1) then (x : Int) - (2 ^ n : Nat) else x

/-- An integer wrapped into n bits. -/
def wrapInt (n : Nat) (i : Int) : Nat := (i % ((2 ^ n : Nat) : Int)).toNat

/-- Division rounded up. -/
def ceilDiv (a b : Nat) : Nat := (a + b - 1) / b

/-- Serial-number order of 32-bit values (R13, RFC 1982): a is newer than b. Two values 2^31 apart are not newer. -/
def newer (a b : Word) : Bool :=
  let d := (a - b).toNat
  0 < d && d < 2 ^ 31

/-- Saturating addition at the all-ones value of a width (R9). -/
def satAdd (w x n : Nat) : Nat := min (2 ^ w - 1) (x + n)

/-- A record of 64 bytes from its bytes. -/
def recOf (bs : List Byte) : Rec64 := BitVec.ofNat 512 (leNat bs)

/-- Little-endian field of a bit vector: n bytes from byte i. -/
def fieldB {w : Nat} (x : BitVec w) (i n : Nat) : Nat := bits x.toNat (8 * (i + n) - 1) (8 * i)

/-- Bits hi to lo of a bit vector. -/
def fieldb {w : Nat} (x : BitVec w) (hi lo : Nat) : Nat := bits x.toNat hi lo

/-- The sum of byte-placed fields (byte offset, value) as one record. -/
def packB : List (Nat × Nat) → Nat
  | [] => 0
  | (o, v) :: t => v * 256 ^ o + packB t

/-- The last element of a list of numbers below a bound satisfying a test, if any. -/
def lastWhere (p : Nat → Bool) (n : Nat) : Option Nat := (List.range n).foldl (fun r i => if p i then some i else r) none

/-- The first number below a bound satisfying a test, if any. -/
def firstWhere (p : Nat → Bool) (n : Nat) : Option Nat := (List.range n).find? p

/-- Insertion of a Nat into a rising list without repeats. -/
def insertNat (x : Nat) : List Nat → List Nat
  | [] => [x]
  | y :: t => if x < y then x :: y :: t else if x = y then y :: t else y :: insertNat x t

/-- Iteration. -/
def iter {α : Type} (f : α → α) : Nat → α → α
  | 0, a => a
  | n + 1, a => iter f n (f a)

end Sys2Proof
end

