-- ==== Sys2Proof/Syntax.lean ====
section
/-!
DEFINITION. Sys2Proof/Syntax.lean: the commands. One constructor of Instr for each row of spec/opcode_table.json, in its
order. The table gives its rows no fields, so the operands are the model's, each taken from the rule the row names.
Unit numbers are Fin types (R17), so no command can name a unit the part does not have.
-/
namespace Sys2Proof

/-- A submission queue, 0 to 4,095 (R47). -/
abbrev QId := Fin 4096
/-- A context, 0 to 255 (R88). -/
abbrev CtxId := Fin 256
/-- A contract class, 0 to 15 (R69). -/
abbrev ClassId := Fin 16
/-- A tag of the in-flight table (R63). -/
abbrev Tag := Fin 16384
/-- A physical core number, row·36 + column (R17). -/
abbrev CoreId := Fin 1296
/-- A cluster (R17). -/
abbrev ClusterId := Fin 72
/-- A half of the grid, H0 or H1 (R17). -/
abbrev HalfId := Fin 2
/-- A granary channel group (R17). -/
abbrev GroupId := Fin 4
/-- A fabric port (R17). -/
abbrev PortId := Fin 18

/-- An instruction word of a stream (R104). -/
abbrev IWord := BitVec 64

/-- Bits that upsets have flipped in one 64-byte block since it was last read (R187, R284): the block's number among those
the command reads, the data bits and the check bits. -/
structure Upset where
  block : Nat
  data : Rec64
  check : BitVec 72
  deriving DecidableEq, Repr

/-- What struck one run of one multiply of a BLOCK (R223): the key block, the multiply (scores by K panel, then values by V panel), the
run (0 the first, 1 its first redo), and a place and value as TILE_CHECKSUM_COMPARE has them. -/
structure AttUpset where
  block : Nat
  mma : Nat
  run : Nat
  place : Nat
  value : Word
  deriving DecidableEq, Repr

/-- Where an instruction issues: a core and one of its sequencers F 0, B 1, U 2 (R94, R107); and what strikes the core while it runs: the
bits flipped in the local-store blocks a STORE reads (R120, R284), and what struck the multiplies of a BLOCK (R223). -/
structure At where
  core : CoreId
  seq : Fin 3
  hits : List Upset := []
  runs : List AttUpset := []
  deriving DecidableEq, Repr

/-- How far a bundle's fetch and check have come (R91): its bytes are in and are being verified, or the outcome. The layout of a bundle
is its maker's, so the verdict comes with the command; a good bundle carries the version field of its signed header. -/
inductive BundleVerdict where
  | fetched
  | hostError
  | badFormat
  | badSignature
  | good (version : Word)
  deriving DecidableEq, Repr

/-- By which path a command reaches a register (R33, R402): PCIe or the MCTP management port. -/
inductive Via where
  | pcie
  | mctp
  deriving DecidableEq, Repr

/-- A quadrant's smallest critical-path margin against the factory targets (R420): below the low one, between them, above the
high one. The targets are the part's own. -/
inductive Margin where
  | low
  | inside
  | high
  deriving DecidableEq, Repr

/-- What the boot ROM finds in the package-record flash (R463, R472): the newest copy of the record verifies, only the older one does, the flash
holds no record, none that verifies. -/
inductive RecordCheck where
  | good
  | older
  | absent
  | bad
  deriving DecidableEq, Repr

/-- A copy that the boot can use. -/
def RecordCheck.usable (r : RecordCheck) : Bool := r = .good || r = .older

/-- What a boot meets (R462, R463, R465, R491): the record, whether the PUF reconstructs the key, whether the PLLs lock, TRAIN_SEL and
MGMT_ADDR. -/
structure Boot where
  record : RecordCheck
  puf : Bool
  pll : Bool
  strap : Fin 4
  addr : Fin 8
  deriving DecidableEq, Repr

/-- A fabric packet (R310): its 32-byte header and its payload units of 64 bytes. -/
structure Packet where
  hdr : BitVec 256
  data : List Rec64
  deriving DecidableEq, Repr

/-- A flit as it comes out of the FEC decoder (R304, R305): its bytes, and the symbols, 0 to 543, that arrived in error in the codeword
that begins in this flit, where one does. -/
structure Flit where
  bytes : List Byte
  errors : List Nat
  deriving DecidableEq, Repr

/-- A lane sync block as a lane received it (R305), and the UI at which it began. -/
structure LaneSync where
  block : BitVec 64
  ui : Nat
  deriving DecidableEq, Repr

/-- What a training attempt of a port found (R305, R322 to R326): whether the equalisation locked, the lanes that came up, the sync block
of each lane, 0 to 7, and the address, role and partition the peer sent. -/
structure TrainResult where
  locked : Bool
  lanes : Byte
  sync : List LaneSync
  addr : BitVec 18
  role : BitVec 5
  part : Byte
  deriving DecidableEq, Repr

/-- The commands of the block. -/
inductive Instr where
  /-- DOORBELL (R52). A 32-bit write to a queue's doorbell page in BAR2 of the physical or a virtual function hands the device a new producer index. -/
  | doorbell (vf : Fin 16) (off : BitVec 24) (width : Nat) (val : Word)
  /-- BAR0_INVALID_ACCESS (R15). A BAR0 access of another width or at an unaligned offset reads zero or is ignored, and completes normally. -/
  | bar0InvalidAccess (wr : Bool) (off : Word) (width : Nat) (val : Word)
  /-- REGISTER_WRITE (R16). A write to a register that has no row of its own is applied under its access code; a G2 field is ignored and counted. -/
  | registerWrite (off : Word) (val : Word)
  /-- COUNTER_CLEAR (R11). A write to a block's COUNTER_CLEAR register clears the named counters and their SAT bits. -/
  | counterClear (off : Word) (val : Word)
  /-- DESCRIPTOR_ARRIVAL (R60). A descriptor read from host memory arrives and is accepted, held or completed at once, and the queue status block is written. -/
  | descriptorArrival (q : QId)
  /-- HELD_REEVALUATION (R62). Budget freed by a completion causes the held queues of the class to be evaluated again in round-robin order. -/
  | heldReevaluation (c : ClassId)
  /-- DISPATCH (R65). The firmware dispatches the accepted descriptor with the earliest deadline. -/
  | dispatch
  /-- DESCRIPTOR_COMPLETE (R68). Finished work frees its tag and budget, and its completion record is written with T_COMPLETE. -/
  | descriptorComplete (tag : Tag)
  /-- COST_EXCEEDED (R71). A descriptor's dispatched time reaches COST and it stops, continues without a deadline, or aborts as a collective. -/
  | costExceeded (tag : Tag)
  /-- DEADLINE_PASSED (R77). LT passes an accepted descriptor's deadline without completion, and a PROMISE_BROKEN is posted. -/
  | deadlinePassed (tag : Tag)
  /-- PREEMPTION (R72). The firmware pre-empts a context and its cores save the context image at the next tile boundary. -/
  | preemption (c : CtxId)
  /-- PREEMPTION_TIMEOUT (R73). No tile boundary arrives within HQS_BLOCK_MAX of a pre-emption request, so the streams stop at an instruction boundary. -/
  | preemptionTimeout (c : CtxId)
  /-- RESTORE (R126). The firmware restores a pre-empted context from its save image. -/
  | restore (c : CtxId)
  /-- NOP (R58). The queue command NOP completes OK with its completion time in RESULT. -/
  | nop (tag : Tag)
  /-- RESUME_CONTEXT (R59). The queue command RESUME_CONTEXT restarts a parked context if its token matches the current park. -/
  | resumeContext (tag : Tag)
  /-- ABORT_PARKED (R59). The queue command ABORT_PARKED completes the faulted descriptor with FAULT_ABORTED if its token matches. -/
  | abortParked (tag : Tag)
  /-- ENABLE (R54). HQS_Q_CMD ENABLE enables a DISABLED or STOPPED queue on an enabled class. -/
  | enable (q : QId)
  /-- QUEUE_STOP (R54). HQS_Q_CMD STOP discards held descriptors and stops taking doorbells. -/
  | queueStop (q : QId)
  /-- RESET_INDICES (R54). HQS_Q_CMD RESET_INDICES sets the indices of a STOPPED queue to 0. -/
  | resetIndices (q : QId)
  /-- ACTIVATE (R85). HQS_CTX_CMD ACTIVATE binds a FREE or STOPPED context after the overlap, root and save-region checks. -/
  | activate (c : CtxId)
  /-- CONTEXT_STOP (R86). HQS_CTX_CMD STOP discards held descriptors, aborts a faulted one and makes the context STOPPING. -/
  | contextStop (c : CtxId)
  /-- RELEASE (R86). HQS_CTX_CMD RELEASE discards held descriptors, unbinds a STOPPED context and frees its pins and fallow entries. -/
  | release (c : CtxId)
  /-- HQS_CLASS_BOUND (R69). A write of a class BOUND defines, changes or disables the class, subject to the admission tests. -/
  | hqsClassBound (c : ClassId) (val : Word)
  /-- HQS_CLASS_BUDGET (R69). A write of a class BUDGET is tested with its BOUND, or stored while the class is disabled. -/
  | hqsClassBudget (c : ClassId) (val : Word)
  /-- HQS_BLOCK_MAX (R70). A write of the non-pre-emptible maximum is taken only when in range, idle and consistent with every class. -/
  | hqsBlockMax (val : Word)
  /-- FE_WRITE (R89). A write to a firmware-emulated register is placed in the 64-entry mailbox, or dropped if the mailbox is full. -/
  | feWrite (off : Word) (val : Word)
  /-- MAILBOX_SERVICE (R502). The control partition serves the oldest mailbox entry, accepting or refusing the set-up write. -/
  | mailboxService
  /-- HQS_DEV_EVQ_HI (R84). Writing the device event ring base high word sets the ring up and resumes writes to it. -/
  | hqsDevEvqHi (val : Word)
  /-- WAITING_RECORD_WRITE (R84). Event records waiting for a full ring are written in order once the head word shows free slots. -/
  | waitingRecordWrite (ring : Option CtxId)
  /-- COALESCING_TIMER (R81). COAL_US expires after the first uninterrupted completion record and the queue's MSI-X vector fires. -/
  | coalescingTimer (q : QId)
  /-- EVENT_INTERRUPT_INTERVAL (R443). The 2 µs interval of an event ring ends and the deferred MSI-X message is sent. -/
  | eventInterruptInterval (ring : Option CtxId)
  /-- STATUS_BLOCK_WRITE (R83). The periodic write of an active queue's status block, at most once per µs. -/
  | statusBlockWrite (q : QId)
  /-- LOAD (R91). FMW_LOAD_CMD LOAD starts the fetch and verification of a firmware bundle. -/
  | load
  /-- UPDATE (R92). FMW_LOAD_CMD UPDATE starts a live firmware update. -/
  | update
  /-- BUNDLE_FETCH_DONE (R91). The bundle fetch ends and the header and signature are checked, giving RUNNING, UPDATE_WAITING or a rejection. -/
  | bundleFetchDone (v : BundleVerdict)
  /-- UPDATE_PAUSE_START (R93). Every undispatched descriptor has 2,000 µs of slack, and the hand-off pause begins. -/
  | updatePauseStart
  /-- UPDATE_DEFER_EXPIRY (R92). FMW_UPD_DEFER_MAX expires and the update is abandoned with state 9. -/
  | updateDeferExpiry
  /-- NEW_IMAGE_READY (R93). The new firmware image reports ready within 1,500 µs and the state returns to RUNNING. -/
  | newImageReady
  /-- UPDATE_ROLLBACK (R93). The new image is not ready in time and the old image resumes from the hand-off block. -/
  | updateRollback
  /-- LAUNCH (R100). Opcode LAUNCH reads and checks the bundle header and core table before any core starts. -/
  | launch (tag : Tag)
  /-- SCALAR_ADD (R105). SCALAR ADD writes SA + SB. -/
  | scalarAdd (at_ : At) (w : IWord)
  /-- SCALAR_SUB (R105). SCALAR SUB writes SA − SB. -/
  | scalarSub (at_ : At) (w : IWord)
  /-- SCALAR_AND (R105). SCALAR AND writes the bitwise AND. -/
  | scalarAnd (at_ : At) (w : IWord)
  /-- SCALAR_OR (R105). SCALAR OR writes the bitwise OR. -/
  | scalarOr (at_ : At) (w : IWord)
  /-- SCALAR_XOR (R105). SCALAR XOR writes the bitwise XOR. -/
  | scalarXor (at_ : At) (w : IWord)
  /-- SHL (R105). SCALAR SHL shifts left by bits 4:0 of SB. -/
  | shl (at_ : At) (w : IWord)
  /-- SHR (R105). SCALAR SHR shifts right logically by bits 4:0 of SB. -/
  | shr (at_ : At) (w : IWord)
  /-- SCALAR_MUL (R105). SCALAR MUL writes the low 32 bits of the product. -/
  | scalarMul (at_ : At) (w : IWord)
  /-- ADDI (R105). SCALAR ADDI writes SA + IMM. -/
  | addi (at_ : At) (w : IWord)
  /-- MOVI (R105). SCALAR MOVI writes IMM. -/
  | movi (at_ : At) (w : IWord)
  /-- LD_ARG (R105). SCALAR LD_ARG reads an argument word at byte offset IMM. -/
  | ldArg (at_ : At) (w : IWord)
  /-- CORE_ID (R105). SCALAR CORE_ID writes the physical core number. -/
  | coreId (at_ : At) (w : IWord)
  /-- BRANCH_ALWAYS (R105). BRANCH with COND 0 always branches to TARGET. -/
  | branchAlways (at_ : At) (w : IWord)
  /-- BRANCH_IF_ZERO (R105). BRANCH with COND 1 branches if SA is 0. -/
  | branchIfZero (at_ : At) (w : IWord)
  /-- BRANCH_IF_NONZERO (R105). BRANCH with COND 2 branches if SA is not 0. -/
  | branchIfNonzero (at_ : At) (w : IWord)
  /-- BRANCH_IF_NEGATIVE (R105). BRANCH with COND 3 branches if SA is negative, signed. -/
  | branchIfNegative (at_ : At) (w : IWord)
  /-- DEC (R105). BRANCH DEC decrements SA and branches if SA is not 0. -/
  | dec (at_ : At) (w : IWord)
  /-- WAIT (R111). TOKEN WAIT takes COUNT from a token, or blocks the stage context and switches to another stage. -/
  | wait (at_ : At) (w : IWord)
  /-- WAIT_INV (R111). TOKEN WAIT_INV is a WAIT that also invalidates the L1 ways when granted. -/
  | waitInv (at_ : At) (w : IWord)
  /-- SIGNAL (R112). TOKEN SIGNAL adds COUNT to a token once the earlier results are visible, or parks on overflow. -/
  | signal (at_ : At) (w : IWord)
  /-- TOKEN_READ (R111). TOKEN READ copies a token's value into SD without blocking. -/
  | tokenRead (at_ : At) (w : IWord)
  /-- FENCE_WR (R118). FENCE WR waits until the stage context's earlier stores are performed at the LLC. -/
  | fenceWr (at_ : At) (w : IWord)
  /-- FENCE_INV (R118). FENCE INV invalidates the core's L1 cache ways in 8 cycles. -/
  | fenceInv (at_ : At) (w : IWord)
  /-- FENCE_FULL (R118). FENCE FULL performs WR and then INV. -/
  | fenceFull (at_ : At) (w : IWord)
  /-- TRAP (R120). The TRAP instruction raises PROGRAM_TRAP and parks the context. -/
  | trap (at_ : At) (w : IWord)
  /-- END (R107). END records EXIT, ends the stage context and switches to the next READY stage. -/
  | endStream (at_ : At) (w : IWord)
  /-- ACCESS_LOAD (R244). ACCESS LOAD copies LEN64·64 bytes from an IOVA to the local store through the L1 cache. -/
  | accessLoad (at_ : At) (w : IWord) (ups : List Upset)
  /-- STORE (R244). ACCESS STORE copies local-store data to an IOVA, written through. -/
  | store (at_ : At) (w : IWord)
  /-- LOAD_S (R244). ACCESS LOAD_S reads 4 bytes into a scalar register. -/
  | loadS (at_ : At) (w : IWord)
  /-- STORE_S (R244). ACCESS STORE_S writes 4 bytes of a scalar register as a narrow write. -/
  | storeS (at_ : At) (w : IWord)
  /-- LOAD_NA (R244). ACCESS LOAD_NA loads without allocating in the L1 cache. -/
  | loadNa (at_ : At) (w : IWord)
  /-- MMA (R134). FURROW MMA adds the product of the A and B panels over KSTEPS into a slot. -/
  | mma (at_ : At) (w : IWord)
  /-- MMA_INIT (R134). FURROW MMA_INIT replaces the slot with the first step's sum and then accumulates. -/
  | mmaInit (at_ : At) (w : IWord)
  /-- ZERO (R134). FURROW ZERO sets a slot to +0.0 in one cycle. -/
  | zero (at_ : At) (w : IWord)
  /-- LOAD_ACC (R134). FURROW LOAD_ACC sets a slot from 1 KiB of the local store. -/
  | loadAcc (at_ : At) (w : IWord)
  /-- TILE_CHECKSUM_COMPARE (R144). The checksum of an MMA is compared at its comparison cycle, and a mismatch is recomputed or retires the core. -/
  | tileChecksumCompare (core : CoreId) (arr : Fin 2) (ups : List (Nat × Word))
  /-- HARROW_ADD (R193). HARROW ADD adds VA and VB lane-wise. -/
  | harrowAdd (at_ : At) (w : IWord)
  /-- HARROW_SUB (R193). HARROW SUB subtracts VB from VA lane-wise. -/
  | harrowSub (at_ : At) (w : IWord)
  /-- HARROW_MUL (R193). HARROW MUL multiplies VA and VB lane-wise. -/
  | harrowMul (at_ : At) (w : IWord)
  /-- FMA (R193). HARROW FMA computes VA·VB + VC with one rounding. -/
  | fma (at_ : At) (w : IWord)
  /-- MAX (R193). HARROW MAX gives the lane-wise maximum. -/
  | max (at_ : At) (w : IWord)
  /-- MIN (R193). HARROW MIN gives the lane-wise minimum. -/
  | min (at_ : At) (w : IWord)
  /-- ABS (R193). HARROW ABS clears the sign bit. -/
  | abs (at_ : At) (w : IWord)
  /-- NEG (R193). HARROW NEG flips the sign bit. -/
  | neg (at_ : At) (w : IWord)
  /-- MOV (R191). HARROW MOV copies VA. -/
  | mov (at_ : At) (w : IWord)
  /-- CMPLT (R193). HARROW CMPLT writes a mask of VA < VB. -/
  | cmplt (at_ : At) (w : IWord)
  /-- CMPLE (R193). HARROW CMPLE writes a mask of VA ≤ VB. -/
  | cmple (at_ : At) (w : IWord)
  /-- CMPEQ (R193). HARROW CMPEQ writes a mask of VA = VB. -/
  | cmpeq (at_ : At) (w : IWord)
  /-- EXP (R194). HARROW EXP computes e^VA rounded once. -/
  | exp (at_ : At) (w : IWord)
  /-- EXP2 (R194). HARROW EXP2 computes 2^VA rounded once. -/
  | exp2 (at_ : At) (w : IWord)
  /-- LN (R194). HARROW LN computes ln VA rounded once. -/
  | ln (at_ : At) (w : IWord)
  /-- RCP (R194). HARROW RCP computes 1/VA rounded once. -/
  | rcp (at_ : At) (w : IWord)
  /-- RSQRT (R194). HARROW RSQRT computes 1/√VA rounded once. -/
  | rsqrt (at_ : At) (w : IWord)
  /-- SCAN_ADD (R200). HARROW SCAN_ADD computes an inclusive additive scan on the fixed network. -/
  | scanAdd (at_ : At) (w : IWord)
  /-- SCAN_MAX (R200). HARROW SCAN_MAX computes an inclusive maximum scan. -/
  | scanMax (at_ : At) (w : IWord)
  /-- SEGSCAN_ADD (R199). HARROW SEGSCAN_ADD computes a segmented additive scan. -/
  | segscanAdd (at_ : At) (w : IWord)
  /-- SEGSCAN_MAX (R199). HARROW SEGSCAN_MAX computes a segmented maximum scan. -/
  | segscanMax (at_ : At) (w : IWord)
  /-- RED_ADD (R201). HARROW RED_ADD tree-reduces VA by addition into every lane. -/
  | redAdd (at_ : At) (w : IWord)
  /-- RED_MAX (R201). HARROW RED_MAX tree-reduces VA by maximum. -/
  | redMax (at_ : At) (w : IWord)
  /-- RED_MIN (R201). HARROW RED_MIN tree-reduces VA by minimum. -/
  | redMin (at_ : At) (w : IWord)
  /-- SEGRED_ADD (R201). HARROW SEGRED_ADD gives each lane its segment's sum. -/
  | segredAdd (at_ : At) (w : IWord)
  /-- SEGRED_MAX (R201). HARROW SEGRED_MAX gives each lane its segment's maximum. -/
  | segredMax (at_ : At) (w : IWord)
  /-- MAND (R191). HARROW MAND ANDs two mask registers. -/
  | mand (at_ : At) (w : IWord)
  /-- MOR (R191). HARROW MOR ORs two mask registers. -/
  | mor (at_ : At) (w : IWord)
  /-- MXOR (R191). HARROW MXOR XORs two mask registers. -/
  | mxor (at_ : At) (w : IWord)
  /-- MNOT (R191). HARROW MNOT inverts a mask register. -/
  | mnot (at_ : At) (w : IWord)
  /-- MSET (R191). HARROW MSET sets a mask from two scalar registers. -/
  | mset (at_ : At) (w : IWord)
  /-- MPERIOD (R191). HARROW MPERIOD sets every n-th mask bit. -/
  | mperiod (at_ : At) (w : IWord)
  /-- ACC (R196). HARROW ACC reads a quarter of an accumulator tile in place. -/
  | acc (at_ : At) (w : IWord)
  /-- TLD (R191). HARROW TLD loads a tile-buffer row into a vector register. -/
  | tld (at_ : At) (w : IWord)
  /-- TST (R191). HARROW TST stores a vector register into a tile-buffer row. -/
  | tst (at_ : At) (w : IWord)
  /-- LD (R191). HARROW LD loads 256 B of the local store into a vector register. -/
  | ld (at_ : At) (w : IWord)
  /-- ST (R191). HARROW ST stores a vector register to 256 B of the local store. -/
  | st (at_ : At) (w : IWord)
  /-- TFILL (R191). HARROW TFILL fills a tile buffer from 4 KiB of the local store. -/
  | tfill (at_ : At) (w : IWord)
  /-- TSPILL (R191). HARROW TSPILL writes a tile buffer to 4 KiB of the local store. -/
  | tspill (at_ : At) (w : IWord)
  /-- CVT (R202). HARROW CVT converts a tile buffer to a packed narrow format with scales in the local store. -/
  | cvt (at_ : At) (w : IWord)
  /-- CVTIN (R202). HARROW CVTIN decodes packed narrow elements into a tile buffer. -/
  | cvtin (at_ : At) (w : IWord)
  /-- BEGIN (R213). ATTN BEGIN opens a state set and zeroes its output slots. -/
  | begin (at_ : At) (w : IWord)
  /-- BLOCK (R213). ATTN BLOCK processes NB key blocks with the online softmax. -/
  | block (at_ : At) (w : IWord)
  /-- FINAL (R214). ATTN FINAL normalises the rows, writes the LSE line and closes the set. -/
  | finalAcc (at_ : At) (w : IWord)
  /-- PARTIAL (R218). ATTN PARTIAL writes the unnormalised state as a partial record. -/
  | partialAcc (at_ : At) (w : IWord)
  /-- MERGE (R219). ATTN MERGE folds partial records into an open set. -/
  | merge (at_ : At) (w : IWord)
  /-- ENQUEUE (R150). DRILL ENQUEUE puts a transfer record on the cluster's Drill queue. -/
  | enqueue (at_ : At) (w : IWord)
  /-- DRILL_TRANSFER_START (R152). The Drill starts the next queued transfer once the previous one has completed. -/
  | drillTransferStart (cl : ClusterId)
  /-- DRILL_TRANSFER_COMPLETE (R153). A transfer's last unit completes and its token is signalled. -/
  | drillTransferComplete (cl : ClusterId)
  /-- DRILL (R151). Opcode DRILL enqueues its transfer record on TARGET_CORE's cluster Drill. -/
  | drill (tag : Tag)
  /-- RANGE_PIN (R249). RANGE PIN checks the sets, then pins and fills a range. -/
  | rangePin (at_ : At) (w : IWord)
  /-- RANGE_UNPIN (R250). RANGE UNPIN releases the context's pin entries inside the range. -/
  | rangeUnpin (at_ : At) (w : IWord)
  /-- RANGE_FALLOW (R252). RANGE FALLOW enters a range in the Fallow Range Table. -/
  | rangeFallow (at_ : At) (w : IWord)
  /-- RANGE_RESOW (R254). RANGE RESOW removes the context's overlapping fallow entries. -/
  | rangeResow (at_ : At) (w : IWord)
  /-- RANGE_WRITEBACK (R247). RANGE WRITEBACK writes back the dirty lines of a range. -/
  | rangeWriteback (at_ : At) (w : IWord)
  /-- RANGE_INVALIDATE (R247). RANGE INVALIDATE writes back and invalidates the lines of a range. -/
  | rangeInvalidate (at_ : At) (w : IWord)
  /-- PIN (R249). Opcode PIN pins a range as the RANGE operation does. -/
  | pin (tag : Tag)
  /-- UNPIN (R250). Opcode UNPIN releases pin entries. -/
  | unpin (tag : Tag)
  /-- FALLOW (R252). Opcode FALLOW declares a range fallow. -/
  | fallow (tag : Tag)
  /-- RESOW (R254). Opcode RESOW removes fallow entries. -/
  | resow (tag : Tag)
  /-- WRITEBACK (R247). Opcode WRITEBACK writes back the dirty lines of a range. -/
  | writeback (tag : Tag)
  /-- INVALIDATE (R247). Opcode INVALIDATE writes back and invalidates the lines of a range. -/
  | invalidate (tag : Tag)
  /-- PRESSURE_WINDOW (R251). A 100 µs window ends and the half's pin-pressure run is updated. -/
  | pressureWindow (h : HalfId)
  /-- LLC_PIN_LIMIT (R248). A write sets the half's pin allowance percentage, or is ignored above 75. -/
  | llcPinLimit (h : HalfId) (val : Word)
  /-- KV_CREATE (R225). Opcode KV_CREATE writes a key-value region header and zeroes its data. -/
  | kvCreate (tag : Tag)
  /-- KV_APPEND (R226). Opcode KV_APPEND appends keys and values to a region and advances LEN. -/
  | kvAppend (tag : Tag)
  /-- PAGE_TOUCH (R293). Opcode PAGE_TOUCH translates every page in a range. -/
  | pageTouch (tag : Tag)
  /-- SCRUB_RANGE (R293). Opcode SCRUB_RANGE reads and corrects a granary range. -/
  | scrubRange (tag : Tag)
  /-- SR_ENTER (R269). GRN_GROUP_CMD SR_ENTER puts a channel group into self-refresh. -/
  | srEnter (g : GroupId)
  /-- SR_EXIT (R269). GRN_GROUP_CMD SR_EXIT takes a group out of self-refresh. -/
  | srExit (g : GroupId)
  /-- REMAP (R269). GRN_GROUP_CMD REMAP rebuilds the group's map from its non-retired channels. -/
  | remap (g : GroupId)
  /-- UNC_WINDOW_RESTART (R268). A WINDOW_S window ends and each channel's uncorrectable tally restarts. -/
  | uncWindowRestart
  /-- GLEAN_BLOCK_READ (R290). A Glean engine reads and classifies its next block or set. -/
  | gleanBlockRead (e : Fin 6) (ups : List Upset)
  /-- GROUP_TRAINING_DONE (R466). A granary group's training ends, and channels failing three attempts are marked DEFECT. -/
  | groupTrainingDone (g : GroupId) (passed : List Nat)
  /-- ZERO_FILL_DONE (R467). A group's zero fill ends and the group leaves TRAINING. -/
  | zeroFillDone (g : GroupId)
  /-- XLT_INVAL_CMD (R275). XLT_INVAL_CMD GO starts dropping the cached walk results of a range. -/
  | xltInvalCmd
  /-- XLT_INVAL_COMPLETE (R275). The invalidation has dropped every result and drained their accesses, and BUSY clears. -/
  | xltInvalComplete
  /-- ATS_INVALIDATE_REQUEST (R276). An ATS Invalidate Request drops matching ATC entries and is answered within 100 µs. -/
  | atsInvalidateRequest (pasid : BitVec 20) (page : Nat) (pages : Nat)
  /-- PRI_RESPONSE (R277). A PRI response retries the translation or faults with PRI_FAILED. -/
  | priResponse (c : CtxId) (page : Nat) (code : BitVec 4)
  /-- PRI_TIMEOUT (R277). XLT_PRI_WAIT expires without a response and the access faults. -/
  | priTimeout (c : CtxId) (page : Nat)
  /-- PORT_ENABLE (R322). Writing EN 1 to a port starts training after the role and licence checks. -/
  | portEnable (p : PortId)
  /-- PORT_DISABLE (R322). Writing EN 0 disables a port and hands its queued packets on. -/
  | portDisable (p : PortId)
  /-- RETRAIN (R322). FAB_PORT_CTL RETRAIN retrains an UP port now. -/
  | retrain (p : PortId)
  /-- TRAINING_ATTEMPT_DONE (R322). A training or retrain attempt ends, and the port goes UP, DOWN or RETIRED. -/
  | trainingAttemptDone (p : PortId) (res : TrainResult)
  /-- FLIT_RECEIVED (R308). A received flit is checked, delivered once or NAKed. -/
  | flitReceived (p : PortId) (flit : Flit)
  /-- LANE_WINDOW_RESTART (R325). A 10 s window ends and the lane tallies restart. -/
  | laneWindowRestart
  /-- ACK_TIMER (R309). 100 ns passes with unreported flits or credits and a LINK record with ACK is sent. -/
  | ackTimer (p : PortId)
  /-- ACK (R309). A received LINK record with ACK frees acknowledged flits from the replay buffer and returns credits. -/
  | ack (p : PortId) (pkt : Packet)
  /-- NAK (R308). A received NAK replays from the named FSEQ, or retrains at RETRY_LIMIT. -/
  | nak (p : PortId) (pkt : Packet)
  /-- QUIESCE (R322). A received QUIESCE puts the port in QUIESCED. -/
  | quiesce (p : PortId) (pkt : Packet)
  /-- REJOIN (R322). A received REJOIN returns a QUIESCED port to UP with full credits. -/
  | rejoin (p : PortId) (pkt : Packet)
  /-- LANE_RETIRE (R325). A received LANE_RETIRE mask makes the port retrain without the retired lanes. -/
  | laneRetire (p : PortId) (pkt : Packet)
  /-- QUIESCE_TIMEOUT (R322). QUIESCE_MS elapses in QUIESCED and the port goes DOWN. -/
  | quiesceTimeout (p : PortId)
  /-- PACKET_FORWARD (R316). A transit packet is routed in dimension order to its next port, or answered or dropped if unroutable. -/
  | packetForward (p : PortId) (pkt : Packet)
  /-- READ_RESP (R313). A received READ_RESP delivers data to its tag or reports its status. -/
  | readResp (p : PortId) (pkt : Packet)
  /-- RESP (R313). A received RESP completes a WRITE, or re-issues it after TARGET_RESET. -/
  | resp (p : PortId) (pkt : Packet)
  /-- RESPONSE_TIMEOUT (R319). A tag's response does not arrive within its timeout and the transaction completes UNREACHABLE. -/
  | responseTimeout (ftag : BitVec 16)
  /-- REDUCE (R343). A received COLL REDUCE packet is consumed, held early or discarded as stale. -/
  | reduce (p : PortId) (pkt : Packet)
  /-- COPY (R343). A received COLL COPY packet places final bits or permute segments. -/
  | copy (p : PortId) (pkt : Packet)
  /-- ABORT (R348). A received COLL ABORT aborts the matching collective with PEER_ABORT. -/
  | abort (p : PortId) (pkt : Packet)
  /-- PEER_TIMEOUT (R347). COL_PEER_TIMEOUT elapses with no packet consumed or sent, and the collective aborts. -/
  | peerTimeout (slot : Fin 16)
  /-- ALL_REDUCE (R339). Opcode ALL_REDUCE runs a reduce-scatter and then an all-gather. -/
  | allReduce (tag : Tag)
  /-- REDUCE_SCATTER (R339). Opcode REDUCE_SCATTER reduces phase by phase into the owned range. -/
  | reduceScatter (tag : Tag)
  /-- ALL_GATHER (R339). Opcode ALL_GATHER copies each owned range to every member. -/
  | allGather (tag : Tag)
  /-- PERMUTE (R344). Opcode PERMUTE sends the segments of its table and places the incoming ones. -/
  | permute (tag : Tag)
  /-- COL_CTX_JOB (R342). A write of a context's JOB is refused if another context holds the JOB. -/
  | colCtxJob (c : CtxId) (val : Word)
  /-- STEP_OPEN (R365). Opcode STEP_OPEN opens step n on the shards of its range. -/
  | stepOpen (tag : Tag)
  /-- RS_UPDATE (R366). Opcode RS_UPDATE reduce-scatters gradients into Hopper arrivals after the dispatch checks. -/
  | rsUpdate (tag : Tag)
  /-- ARRIVAL (R367). A formed or received HOPPER ARRIVAL of 256 sums is converted, checked and summed. -/
  | arrival (p : PortId) (pkt : Packet)
  /-- HOPPER_DELIVERY (R368). An arrival is delivered to a free Hopper entry and HOP_TOKEN is signalled. -/
  | hopperDelivery (core : CoreId)
  /-- HPOP (R372). UPDATE HPOP moves the oldest arrival into a tile buffer. -/
  | hpop (at_ : At) (w : IWord)
  /-- STAGE (R372). UPDATE STAGE writes 256 values to a shard's staged slot. -/
  | stage (at_ : At) (w : IWord)
  /-- LOAD_OLD (R372). UPDATE LOAD_OLD loads 256 current values as FP32. -/
  | loadOld (at_ : At) (w : IWord)
  /-- SLOT_ADDR (R372). UPDATE SLOT_ADDR writes the IOVA of a named slot. -/
  | slotAddr (at_ : At) (w : IWord)
  /-- SEAL (R375). Opcode SEAL folds, sums and writes back the staged shards and marks them SEALED. -/
  | seal (tag : Tag)
  /-- WINNOW (R377). Opcode WINNOW reduces flags and sums of squares toward the root. -/
  | winnow (tag : Tag)
  /-- WIN_UP (R377). A received WIN_UP is folded, and at the root the decision is made and broadcast. -/
  | winUp (p : PortId) (pkt : Packet)
  /-- WIN_DOWN (R377). A received WIN_DOWN writes the member's step record DECIDED and completes its WINNOW. -/
  | winDown (p : PortId) (pkt : Packet)
  /-- COMMIT (R380). Opcode COMMIT applies the recorded decision to each shard, sweeping if CLIP. -/
  | commit (tag : Tag)
  /-- WINNOW_RECOVER (R379). Opcode WINNOW_RECOVER adopts the root's decision or returns UNDECIDED. -/
  | winnowRecover (tag : Tag)
  /-- FETCH (R387). Opcode FETCH refreshes replicas from their owners. -/
  | fetch (tag : Tag)
  /-- AUDIT (R388). Opcode AUDIT re-folds shards and marks corruption. -/
  | audit (tag : Tag)
  /-- STOOK_SAVE (R391). Opcode STOOK_SAVE writes shard images into the partner's buddy region. -/
  | stookSave (tag : Tag)
  /-- STOOK_RESTORE (R392). Opcode STOOK_RESTORE restores shards from a complete generation. -/
  | stookRestore (tag : Tag)
  /-- JOURNAL_ADVANCE (R394). Opcode JOURNAL_ADVANCE agrees across the group on completion of a re-shard phase. -/
  | journalAdvance (tag : Tag)
  /-- JOURNAL_RESOLVE (R395). Opcode JOURNAL_RESOLVE adopts the root's DONE or rolls back. -/
  | journalResolve (tag : Tag)
  /-- JRN_UP (R394). A received JRN_UP is folded toward the root, which advances DONE and broadcasts. -/
  | jrnUp (p : PortId) (pkt : Packet)
  /-- JRN_DOWN (R394). A received JRN_DOWN writes DONE and completes JOURNAL_ADVANCE. -/
  | jrnDown (p : PortId) (pkt : Packet)
  /-- SHARD_HDR (R397). A received SHARD_HDR request is answered with the owner's shard header. -/
  | shardHdr (p : PortId) (pkt : Packet)
  /-- SHARD_DATA (R386). A received SHARD_DATA request returns bytes of the current image or REFUSED. -/
  | shardData (p : PortId) (pkt : Packet)
  /-- SHARD_VERIFY (R388). A received SHARD_VERIFY re-folds the owner's shard. -/
  | shardVerify (p : PortId) (pkt : Packet)
  /-- STEP_REC (R397). A received STEP_REC request returns the step record. -/
  | stepRec (p : PortId) (pkt : Packet)
  /-- JOURNAL_HDR (R397). A received JOURNAL_HDR request returns the journal header. -/
  | journalHdr (p : PortId) (pkt : Packet)
  /-- STOOK_READ (R389). A received STOOK_READ returns buddy-region data, or REFUSED. -/
  | stookRead (p : PortId) (pkt : Packet)
  /-- STOOK_WRITE (R389). A received STOOK_WRITE writes the buddy region and answers after the granary write. -/
  | stookWrite (p : PortId) (pkt : Packet)
  /-- UPD_CTX (R399). A write binds the update engine to a context, and is refused while that context is active. -/
  | updCtx (val : Word)
  /-- UPD_STOOK_CFG (R389). Writing EN 1 drops the buddy region's LLC lines and puts the region in service. -/
  | updStookCfg (off : Word) (val : Word)
  /-- P_STATE_COMMAND (R405). A write to PWR_STATE_CMD runs a P-state transition. -/
  | pStateCommand (via : Via) (val : Word)
  /-- DOMAIN_POWER_ON (R408). PWR_DOM_CMD with ON 1 powers the listed domains on in order, with ramp-rate waits. -/
  | domainPowerOn (via : Via) (val : Word)
  /-- DOMAIN_POWER_OFF (R30). PWR_DOM_CMD with ON 0 drains and powers the listed domains off in order. -/
  | domainPowerOff (via : Via) (val : Word)
  /-- DOMAIN_DRAIN_TIMEOUT (R31). A domain's queues fail to drain within 100 µs and the command fails with DOMAIN_BUSY. -/
  | domainDrainTimeout (d : Nat)
  /-- PWR_CAP (R413). A setting of the stack cap is checked and applies from the next period. -/
  | pwrCap (via : Via) (val : Word)
  /-- PWR_RAMP (R413). A setting of the ramp limits is checked and applies from the next period. -/
  | pwrRamp (via : Via) (val : Word)
  /-- PWR_FLOOR (R413). A setting of the power floor is checked and applies from the next period. -/
  | pwrFloor (via : Via) (val : Word)
  /-- PWR_EST_COMMIT (R410). A write makes the staged estimator weights active and ends guarded mode. -/
  | pwrEstCommit (via : Via) (val : Word)
  /-- PWR_GUARD_CLEAR (R418). A write ends guarded mode at the next window. -/
  | pwrGuardClear (via : Via) (val : Word)
  /-- CONTROL_PERIOD (R411). A 2 µs control period ends and the cap, ramp gating and floor fill are recomputed. -/
  | controlPeriod (counts : List Nat) (idle : Nat)
  /-- THROTTLE_CLEAR (R414). 100 µs after the last throttling period the throttle indicator clears. -/
  | throttleClear
  /-- MEASUREMENT_WINDOW (R416). A 1 ms window compares the estimate with the measured power and runs the guarded controller. -/
  | measurementWindow (ivr : List (List Nat)) (input : Nat)
  /-- VOLTAGE_TRIM (R420). Every 10 s each quadrant's core-rail trim is adjusted from its margin. -/
  | voltageTrim (margins : List Margin)
  /-- TRIM_SAVE (R420). The trim is saved to the package record after a 24 h interval. -/
  | trimSave
  /-- SENSOR_ROUND (R421). The 1 ms housekeeping round reads every sensor and runs the neighbour model, holds, gating and trip. -/
  | sensorRound (samples : List (Option Int)) (traffic : List (Nat × Nat))
  /-- PWR_TRIP_CLEAR (R429). A write clears TRIPPED when every temperature is at or below 95 °C. -/
  | pwrTripClear (via : Via) (val : Word)
  /-- PWR_SUSPECT_CLEAR (R423). A write clears a layer-half's SUSPECT state. -/
  | pwrSuspectClear (via : Via) (val : Word)
  /-- THERMTRIP (R493). The analogue comparator asserts THERMTRIP_N at 125 °C. -/
  | thermtrip
  /-- CORE_RESET (R457). RST_CMD level 1 resets one core and ends its work. -/
  | coreReset (via : Via) (n : Nat)
  /-- CLUSTER_RESET (R457). RST_CMD level 2 resets one cluster. -/
  | clusterReset (via : Via) (n : Nat)
  /-- QUADRANT_RESET (R457). RST_CMD level 3 resets the clusters of one quadrant. -/
  | quadrantReset (via : Via) (n : Nat)
  /-- COMPUTE_RESET (R457). RST_CMD level 4 resets all 72 clusters. -/
  | computeReset (via : Via)
  /-- DEVICE_RESET (R456). RST_CMD level 5 resets the logic die except the always-on domain, after aborts and the fabric drain. -/
  | deviceReset (via : Via)
  /-- DRAIN_WINDOW_END (R459). Transit buffers empty or RST_DRAIN_US elapses, and QUIESCE is sent on every UP port. -/
  | drainWindowEnd
  /-- CONTROL_PARTITION_RESTART (R464). After a device reset the re-fetched control partition is checked and started. -/
  | controlPartitionRestart (v : BundleVerdict)
  /-- QUIET_INTERVAL_END (R461). One FAB_RESP_TIMEOUT after the first REJOIN the device may issue its own fabric transactions again. -/
  | quietIntervalEnd (p : PortId)
  /-- COLD_RESET (R453). RST_CMD level 6 over MCTP resets everything. -/
  | coldReset (via : Via)
  /-- PERST_N (R453). Assertion of the fundamental reset signal starts a cold reset. -/
  | perstN (level : Bool)
  /-- POWER_ON (R462). Release of cold reset runs the boot ROM through its stages. -/
  | powerOn (b : Boot)
  /-- RAIL_LOSS (R489). A rail below range for more than 10 µs holds the device in cold reset. -/
  | railLoss (aon : Bool)
  /-- REFCLK_LOSS (R40). Loss of REFCLK stops every domain but the always-on domain. -/
  | refclkLoss
  /-- PHYSICAL_FUNCTION_FLR (R453). A Function Level Reset of the physical function runs a device reset. -/
  | physicalFunctionFlr
  /-- FUNCTION_LEVEL_RESET (R454). A Function Level Reset of a virtual function stops and releases its contexts. -/
  | functionLevelReset (vf : Fin 16)
  /-- RST_SELFTEST_CMD (R468). A write starts the start-up self test or is refused. -/
  | rstSelftestCmd (via : Via) (val : Word)
  /-- SELF_TEST_END (R468). The self test ends and writes its results as one floor-plan update. -/
  | selfTestEnd (cores : List (Nat × Nat)) (pairs : List (Nat × Nat × Nat × Nat))
  /-- WRITE_REGS (R478). Gate kind WRITE_REGS writes G2 fields, all entries or none. -/
  | writeRegs (via : Via) (req : List Byte)
  /-- INSTALL_LICENCE (R478). Gate kind INSTALL_LICENCE installs a licence in the lowest free slot. -/
  | installLicence (via : Via) (req : List Byte)
  /-- REMOVE_LICENCE (R478). Gate kind REMOVE_LICENCE frees the slot of the named licence. -/
  | removeLicence (via : Via) (req : List Byte)
  /-- ENROLL_KEY (R478). Gate kind ENROLL_KEY fills or replaces a key slot. -/
  | enrollKey (via : Via) (req : List Byte)
  /-- REVOKE_KEY (R478). Gate kind REVOKE_KEY empties a key slot, keeping at least two. -/
  | revokeKey (via : Via) (req : List Byte)
  /-- CLEAR_RETIREMENT (R478). Gate kind CLEAR_RETIREMENT clears the named in-service retirement lists. -/
  | clearRetirement (via : Via) (req : List Byte)
  /-- CLAIM (R478). Gate kind CLAIM over MCTP enrols the owner's first two keys. -/
  | claim (via : Via) (req : List Byte)
  /-- GET_VERSION (R481). The SPDM request GET_VERSION is answered. -/
  | getVersion (req : List Byte)
  /-- GET_CAPABILITIES (R481). The SPDM request GET_CAPABILITIES is answered. -/
  | getCapabilities (req : List Byte)
  /-- NEGOTIATE_ALGORITHMS (R481). The SPDM request NEGOTIATE_ALGORITHMS selects Ed25519 and SHA-512. -/
  | negotiateAlgorithms (req : List Byte)
  /-- GET_DIGESTS (R481). The SPDM request GET_DIGESTS is answered. -/
  | getDigests (req : List Byte)
  /-- GET_CERTIFICATE (R481). The SPDM request GET_CERTIFICATE returns the slot 0 chain. -/
  | getCertificate (req : List Byte)
  /-- CHALLENGE (R481). The SPDM request CHALLENGE is signed with the device key. -/
  | challenge (req : List Byte)
  /-- GET_MEASUREMENTS (R482). The SPDM request GET_MEASUREMENTS returns the four measurement digests. -/
  | getMeasurements (req : List Byte)
  /-- UNSUPPORTED_REQUEST (R481). Any other SPDM request is answered with ERROR UnsupportedRequest. -/
  | unsupportedRequest (req : List Byte)
  /-- REG_READ (R497). The MCTP command REG_READ returns register words with its own shadows. -/
  | regRead (msg : List Byte)
  /-- REG_WRITE (R497). The MCTP command REG_WRITE writes a PWR or RST register, or is denied. -/
  | regWrite (msg : List Byte)
  /-- GATE_REQUEST (R497). The MCTP command GATE_REQUEST submits a gate request and returns its outcome. -/
  | gateRequest (msg : List Byte)
  /-- LOW_WORD_READ (R12). A PCIe read of a 64-bit value's low word captures that value's high word into its shadow. -/
  | lowWordRead (off : Word)
  /-- ILLEGAL_INSTRUCTION (R120). An instruction of a reserved class or reserved OP, COND, KIND or HINT encoding raises ILLEGAL_INSTRUCTION and parks the context. -/
  | illegalInstruction (at_ : At) (w : IWord)
  /-- ATS_COMPLETION (R277). An ATS translation completion arrives and either fills the ATC or, granting no access, sends a PRI Page Request or faults with ATS_DENIED. -/
  | atsCompletion (c : CtxId) (page : Nat) (target : Nat) (rd wr : Bool)
  /-- DRILL_TRANSLATION_FAULT (R154). A running Drill transfer meets a translation fault on SRC, SCALE_SRC or DST, stops at PROGRESS and parks the context. -/
  | drillTranslationFault (cl : ClusterId)
  /-- FRAMING_LOST (R305). Eight consecutive uncorrectable codewords make the receiver take its framing as lost and put the port in RETRAINING. -/
  | framingLost (p : PortId)
  /-- BAD_PACKET (R311). A received packet whose TYPE, VC or reserved bits break the table is discarded and counted in BAD_PACKET, and the link stays up. -/
  | badPacket (p : PortId) (pkt : Packet)
  /-- GATE_REQ_CMD (R479). A write to GATE_REQ_CMD fetches a gate request from host memory and evaluates it, applying or refusing it. -/
  | gateReqCmd (val : Word)
  /-- BAD_COMMAND (R496). A vendor-defined MCTP message with another VENDOR_ID or a reserved COMMAND is answered with STATUS BAD_COMMAND. -/
  | badCommand (msg : List Byte)
  /-- SET_ENDPOINT_ID (R498). An MCTP endpoint assigns the device's endpoint ID and becomes the destination of its EVENT messages. -/
  | setEndpointId (eid : Byte)
  /-- EVENT_MESSAGE_READ (R498). The I3C bus owner reads a held EVENT message, which frees one of the 64 places for unread messages. -/
  | eventMessageRead
  deriving DecidableEq, Repr

end Sys2Proof
end

