-- ==== Sys2Proof/Machine/State.lean ====
section
/-!
DEFINITION. Sys2Proof/Machine/State.lean: everything the specification gives the part, as plain data. One sub-structure a
subsystem, so that a frame is said as the equality of the subsystems a command does not touch. INVENTORY.md lists every
field with its rule and reset value.
-/
namespace Sys2Proof.Machine

/-! ## Counters and the outside world -/

/-- A 64-byte block as it travels or lies in a cache line: its bytes and its poison bit (R285). -/
structure Blk where
  bytes : List Byte
  poison : Bool
  deriving DecidableEq, Repr

/-- A counter and its sticky SAT bit (R9, R10). -/
structure Ctr where
  val : Nat
  sat : Bool
  deriving DecidableEq, Repr

/-- The host's answer to an ATS request for a 4 KiB page (R276). -/
structure HostPage where
  target : Nat
  rd : Bool
  wr : Bool
  deriving DecidableEq, Repr

/-- What lies outside the part and what the part sent there: host memory, the host's translations, the messages sent. -/
structure Env where
  /-- Host memory by host physical address (R47); unlisted bytes read 0 (log 8). -/
  host : Mem
  /-- The host's ATS answers that differ from identity with read and write, by PASID·2^52 + page (log 8). -/
  pages : Tbl HostPage
  /-- Whether the host has enabled ATS (R276). -/
  ats : Bool
  /-- Host pages that answer Unsupported Request or Completer Abort (R278). -/
  dead : List Nat
  /-- The MSI-X vectors sent, newest last (R81, R443). -/
  msix : List Nat
  /-- The value the last BAR0 or MCTP register read returned (R12, R15). -/
  busRead : Nat
  /-- MCTP responses and EVENT messages the part sent, newest last (R496 to R498). -/
  mctp : List (List Byte)
  /-- SPDM responses, newest last (R481). -/
  spdm : List (List Byte)
  /-- ATS Invalidate Completions sent, newest last: PASID, page, pages (R276). -/
  invals : List (BitVec 20 × Nat × Nat)
  /-- I3C In-Band Interrupts sent (R498). -/
  ibis : Nat
  deriving DecidableEq, Repr

/-! ## The control plane (02) -/

/-- HQS_Q_STATE (R88). -/
inductive QState where
  | disabled | enabled | stopping | stopped | error
  deriving DecidableEq, Repr

/-- HQS_CTX_STATE (R86). -/
inductive CState where
  | free | active | parked | preempted | parkedPreempted | stopping | stopped
  deriving DecidableEq, Repr

/-- A descriptor read but not accepted (R60): its ring index, its 64 bytes, and the reason it was last held for (0 before its first
evaluation). -/
structure Held where
  idx : Word
  desc : Rec64
  wasHeld : Bool
  why : Nat
  deriving DecidableEq, Repr

/-- What a completion record says besides its queue's indices (R80). -/
structure Rcd where
  idx : Word
  desc : Rec64
  status : Nat
  result : Word
  broken : Bool
  wasHeld : Bool
  preempted : Bool
  cls : Nat
  latency : Nat
  deriving DecidableEq, Repr

/-- A submission queue (R47 to R54, R88). -/
structure Queue where
  state : QState
  /-- The FE registers by their HQS offset, where they differ from the reset value (R88). -/
  regs : Tbl Word
  /-- The committed 64-bit bases by the offset of their high word (R15). -/
  wide : Tbl Nat
  /-- Bases, size, context, class and vector in force since the last ENABLE (R502). -/
  sq : Nat
  cq : Nat
  st : Nat
  log2 : Nat
  ctx : CtxId
  cls : ClassId
  vec : Nat
  /-- The latest producer index received (R52). -/
  prod : Word
  /-- The next index to be read from the ring (R51). -/
  nextRead : Word
  /-- SQ_HEAD (R83) and DONE_PREFIX (R80). -/
  head : Word
  done : Word
  held : List Held
  /-- HOLD_REASON and HOLD_INDEX (R60, R83). -/
  reason : Nat
  holdIdx : Word
  /-- ACCEPTED of the status block (R83). -/
  accepted : Nat
  /-- Indices completed beyond DONE_PREFIX. -/
  ahead : List Nat
  /-- Structures a translation fault has stopped (R279). -/
  sqBad : Bool
  cqBad : Bool
  stBad : Bool
  /-- Records accumulated towards an interrupt and the LT of the first (R81). -/
  coalN : Nat
  coalStart : Option Nat
  /-- COAL_US as it stood at the last record (R502). -/
  coalUs : Nat
  /-- LT of the last status block written (R83). -/
  stLt : Option Nat
  /-- Records of descriptors that were never accepted, oldest first, whose page the host is being asked for (R277). -/
  waits : List Rcd
  deriving DecidableEq, Repr

/-- An event ring (R84, R440 to R443). -/
structure Ring where
  isSet : Bool
  base : Nat
  log2 : Nat
  vec : Nat
  headAddr : Nat
  /-- The head word as last read (R84). -/
  headSeen : Word
  /-- The index of the next record to be written. -/
  widx : Word
  /-- Records posted since the ring was set up; SEQ is this count modulo 2^32 (R441). -/
  posted : Nat
  /-- One more than the count at the last record written; 0 before the first. LOST is a difference of the two (R440). -/
  written : Nat
  /-- Records waiting in the device with their counts, oldest first, at most 16 (R84). -/
  waiting : List (Nat × Rec64)
  stopped : Bool
  lastMsg : Option Nat
  msgDue : Bool
  deriving DecidableEq, Repr

/-- A park of a context (R86, R120, R280). -/
structure Park where
  token : Word
  /-- The tag of the faulted descriptor. -/
  tag : Option Tag
  /-- The trap cause (R120). -/
  cause : Nat
  /-- The resume record (R280). -/
  record : BitVec 2048
  /-- The cluster of a Drill fault. -/
  drill : Option ClusterId
  /-- The core of the resume record's slot, and whether the record still waits to be written there (R127). -/
  core : Option Nat
  unsaved : Bool
  deriving DecidableEq, Repr

/-- A context (R85, R86). -/
structure Ctx where
  state : CState
  regs : Tbl Word
  wide : Tbl Nat
  /-- Binding in force since the last ACTIVATE (R85). -/
  pasid : BitVec 20
  vf : Fin 16
  exclusive : Bool
  mask : BitVec 72
  save : Nat
  ring : Ring
  /-- The token of the last park; 0 before the first (R281). -/
  token : Word
  park : Option Park
  /-- Descriptors discarded and aborted, for CONTEXT_STOPPED (R445). -/
  discarded : Nat
  aborted : Nat
  /-- The pre-emption request outstanding (R72, R73): its LT. -/
  preemptReq : Option Nat
  /-- A pre-emption has been withheld and SAVE_UNREACHABLE posted (R127). -/
  withheld : Bool
  /-- A save image of the context is to be restored (R126). -/
  saved : Bool
  /-- LAUNCHes to complete with UNIT_RETIRED at the next restore (R438). -/
  retiredSaved : List Tag
  /-- The blocking WAITs of the saved stages, which a restore decodes again at their PC (R126): core, stage, WAIT. -/
  wants : List (Nat × Nat × Bool × Nat × Nat × Bool)
  /-- The LAUNCHes that issued saved Drill transfers, which the image does not name: cluster, transfer number, LAUNCH (R154, R156). -/
  hauls : List (Nat × Nat × Tag)
  /-- The saved state sets that have seen no block since their BEGIN, which the image does not tell: core, set (R213). -/
  firsts : List (Nat × Nat)
  /-- COL_CTX_JOB as the last ACTIVATE took it, when VALID (R342, R355). -/
  job : Option Nat
  deriving DecidableEq, Repr

/-- Where a descriptor stands (R60 to R71). -/
inductive Phase where
  /-- Accepted; a LAUNCH whose bundle is not checked yet. -/
  | accepted
  /-- A LAUNCH that passed R100. -/
  | checked
  | dispatched
  /-- Work finished with a status and RESULT; its record is not written yet. -/
  | finished (status : Nat) (result : Word)
  deriving DecidableEq, Repr

/-- A core entry of a bundle (R98, R99): the core, LOCAL_WAYS, and for each stream F, B, U its IOVA, length and the entry offsets
of its stages. -/
structure Entry where
  core : Nat
  ways : Nat
  streams : List (Nat × Nat × List Nat)
  deriving DecidableEq, Repr

/-- An accepted, uncompleted descriptor (R63). -/
structure Work where
  q : QId
  idx : Word
  desc : Rec64
  ctx : CtxId
  cls : ClassId
  /-- LT of acceptance and of the start of the bound; none while a peer input is awaited (R63, R64). -/
  acceptedLt : Nat
  boundLt : Option Nat
  /-- Tags of earlier collectives of an EXCLUSIVE context whose last peer input is awaited, its own among them (R64). -/
  waitsOn : List Nat
  bound : Nat
  /-- Dispatched time in LT ticks, and the LT it was last dispatched at (R71). -/
  spent : Nat
  since : Option Nat
  phase : Phase
  wasHeld : Bool
  preempted : Bool
  broken : Bool
  /-- The deadline no longer binds (R71). -/
  noDeadline : Bool
  /-- COST has been reached and the work stops at its next boundary (R71). -/
  stopping : Bool
  /-- The first qualifying cause, its DETAIL and its LT (R76, R446). -/
  cause : Nat
  detail : Nat
  causeLt : Nat
  /-- An access reached a gated or absent unit (R27). -/
  unreachable : Bool
  /-- An access reached a retired granary channel (R436). -/
  marked : Bool
  /-- The clusters in which this work has consumed poison; 255 for a headland engine (R286). -/
  poison : List Nat
  /-- Licences in force when accepted: bits of LICENCE_CHANGED (R6). -/
  lic : Nat
  /-- The OR of EXIT values so far (R103). -/
  exits : Word
  /-- A LAUNCH's core entries and argument block (R98, R102). -/
  entries : List Entry
  args : List Byte
  /-- The next step of work done a step at a time (range restarts, shard units, Drill units). -/
  progress : Nat
  deriving DecidableEq, Repr

/-- An FE write in the mailbox with the selection it was made under (R89, R502). -/
structure Mail where
  off : Word
  val : Word
  q : QId
  ctx : CtxId
  deriving DecidableEq, Repr

/-- FMW_LOAD_STATUS (R91). -/
inductive LoadState where
  | idle | fetching | verifying | running | rejectSignature | rejectFormat | updateWaiting | updatePaused
  | rolledBack | deferExpired | rejectFetch
  deriving DecidableEq, Repr

/-- The control plane: queues, contexts, work in flight, mailbox and firmware. -/
structure Hqs where
  queues : Tbl Queue
  ctxs : Tbl Ctx
  devRing : Ring
  infl : Tbl Work
  /-- The queue that last received budget, by class (R62). -/
  lastQ : Tbl Nat
  lastClass : Nat
  checkFail : Bool
  mail : List Mail
  load : LoadState
  ctrlRun : Bool
  mgmtRun : Bool
  /-- A fetch in progress is a LOAD (false) or an UPDATE (true). -/
  updating : Bool
  lastOff : Nat
  lastRes : Nat
  version : Word
  newVersion : Word
  pauseUs : Nat
  /-- LT at which the update began to wait and at which the pause began (R92, R93). -/
  waitLt : Nat
  pauseLt : Nat
  /-- The bundle that runs: address and length (R464). -/
  bundleAddr : Nat
  bundleLen : Nat
  /-- Those of a fetch in progress, and the digest of the bundle that runs (R482). -/
  fetchAddr : Nat
  fetchLen : Nat
  digest : BitVec 512
  /-- The PROMISE_BROKEN that the next firmware start posts, oldest first: count and level of each (R79). -/
  owed : List (Nat × Nat)
  deriving DecidableEq, Repr

/-! ## Memory: granary, translation, stacked cache (08, 09) -/

/-- Bytes with their check bits: the check bits are held as the difference from those the data would have (R187, R284), by
block of 64 bytes; an unlisted block has no error. -/
structure Store where
  data : Mem
  chk : Tbl (BitVec 72)
  deriving DecidableEq, Repr

/-- A resident logical line (R234): number, half, slice, set, first way, sectors valid and dirty, encoding, pin. -/
structure Line where
  num : Nat
  half : Nat
  slice : Nat
  set : Nat
  way : Nat
  /-- It occupies both ways of its pair (R234). -/
  two : Bool
  valid : Nat
  dirty : Nat
  enc : Nat
  pin : Bool
  /-- The blocks of its ways: RAW, blocks 0 to 3 of the line; encoded, blocks 0 and 1 of the one way's content (R239). -/
  st : Store
  deriving DecidableEq, Repr

/-- A pin or fallow entry (R263): base and length in logical lines; flag is LOST of a pin and TRAP of a fallow entry. -/
structure RangeEntry where
  base : Nat
  lines : Nat
  ctx : CtxId
  flag : Bool
  deriving DecidableEq, Repr

/-- A retirement list entry (R263). -/
structure RetEntry where
  slice : Nat
  set : Nat
  pair : Nat
  source : Nat
  seq : Word
  deriving DecidableEq, Repr

/-- What the stacked cache keeps for a half (R248 to R260). -/
structure LlcHalf where
  pins : Tbl RangeEntry
  fallow : Tbl RangeEntry
  /-- Corrected ways, oldest first: set key, way and LT (R258). -/
  watch : List (Nat × Nat × Nat)
  ret : List RetEntry
  retSeq : Word
  /-- The pressure window (R251). -/
  winReq : Nat
  winMiss : Nat
  run : Nat
  raised : Bool
  ratio : Nat
  deriving DecidableEq, Repr

/-- GRN_GROUP_STATE (R295). -/
inductive GState where
  | off | training | active | selfRefresh | degraded
  deriving DecidableEq, Repr

/-- A granary channel group (R267, R269, R466). -/
structure Group where
  state : GState
  /-- The channels of the map, ascending. -/
  map : List Nat
  /-- Trained in this cold session (R466). -/
  trained : Bool
  /-- The packages are held in self-refresh (R466). -/
  selfRef : Bool
  /-- An SR_ENTER waits for the group's queued requests to finish (R269). -/
  srDue : Bool
  /-- The zero fill of R467 is running. -/
  filling : Bool
  /-- Nonzero: the contents are undefined, read through the free bytes of this index (R269, R466). -/
  epoch : Nat
  deriving DecidableEq, Repr

/-- A granary channel (R268, R272). -/
structure Chan where
  tally : Nat
  temp : Nat
  hold : Bool
  held : Nat
  deriving DecidableEq, Repr

/-- A Glean engine (R289 to R292). -/
structure Glean where
  pos : Nat
  start : Nat
  last : Nat
  /-- It has begun a lap since power-on (R292). -/
  run : Bool
  /-- Addresses of corrections deferred by a write hold, at most 64 (R290). -/
  deferred : List Nat
  deriving DecidableEq, Repr

/-- A cached walk result (R275): the context, the level of its leaf, the IOVA page number at that level, the leaf. -/
structure Walk where
  ctx : CtxId
  level : Nat
  page : Nat
  leaf : Nat
  deriving DecidableEq, Repr

/-- A cached ATS translation of a 4 KiB page (R276). -/
structure AtcEntry where
  pasid : BitVec 20
  page : Nat
  tr : HostPage
  deriving DecidableEq, Repr

/-- Who waits for a page request (R277). -/
inductive Issuer where
  | drill (c : ClusterId)
  | queue (q : QId) (structure_ : Nat)
  | ring (c : CtxId) (structure_ : Nat)
  | work (tag : Tag)
  deriving DecidableEq, Repr

/-- A page request outstanding (R277): context, page, issuer, whether it wants to write, LT, the first byte of the page that the access
names (R280), and whether the access still waits for it (R283). -/
structure PageReq where
  ctx : CtxId
  page : Nat
  who : Issuer
  wr : Bool
  lt : Nat
  iova : Nat
  alive : Bool
  deriving DecidableEq, Repr

/-- The memory side of the part. -/
structure Mm where
  /-- The granary by DPA. A byte is held as the difference from what its group's undefined contents give (log 2). -/
  gran : Store
  groups : Tbl Group
  chans : Tbl Chan
  glean : Tbl Glean
  lines : List Line
  /-- Recency of a set: tree pseudo-LRU over 8 pairs in bits 6:0, the less recent way of pair p in bit 7 + p (R240). -/
  lru : Tbl Nat
  halves : Tbl LlcHalf
  /-- Layer-halves under write hold, bit 2·(k − 1) + h (R257), and the writes each has held in this hold. -/
  hold : Nat
  holdN : Tbl Nat
  walks : List Walk
  clWalks : Tbl (List Walk)
  atc : List AtcEntry
  pri : List PageReq
  /-- An invalidation in progress (R275): context, all, IOVA base, units. -/
  inval : Option (CtxId × Bool × Nat × Nat)
  /-- Writes to a held layer-half, and write-backs to a held channel, that have been counted and wait at their issuer: (issuer key,
  address). Keys from 2^32 are write-backs (R257, R272). -/
  heldWr : List (Nat × Nat)
  /-- Blocks that wait in the queue of a channel under write hold, oldest first (R272). -/
  queued : List (Nat × Blk)
  /-- The outstanding logical-line misses that wait: half and line (R242). -/
  missOut : List (Nat × Nat)
  /-- The tags and states of a set as 4 blocks, block 4·set + j, held as the difference from what the set's lines give (R258, R284). -/
  tags : Store
  deriving DecidableEq, Repr

/-! ## Cores (03 to 07) -/

/-- The state of a stage context (R107). -/
inductive SState where
  | unused | ready | active | blocked | ended
  deriving DecidableEq, Repr

/-- A stage context (R107, R108). -/
structure Stage where
  state : SState
  pc : Word
  /-- S0 to S31; unlisted 0. -/
  regs : Tbl Word
  /-- HINT of the blocking WAIT, and its LT (R125). -/
  hint : Nat
  blockLt : Nat
  /-- The blocking WAIT: cluster scope, token, COUNT, WAIT_INV (R111). -/
  want : Option (Bool × Nat × Nat × Bool)
  exit : Word
  /-- Why an ACTIVE stage stalls in place, as an idle cause, and since when (R122). -/
  stall : Option (Nat × Nat)
  /-- The stream's IOVA and its length (R98). -/
  base : Nat
  len : Nat
  deriving DecidableEq, Repr

/-- An operation an array holds (R142): its array, its words as issued, its stage, the slot's prior values (R146). -/
structure FurrowOp where
  arr : Nat
  word : IWord
  offA : Nat
  offB : Nat
  stage : Nat
  shadow : Tbl Word
  deriving DecidableEq, Repr

/-- An attention state set (R206): per row m and l, BEGUN, and the COMPAT, DV16 and OSLOT of its BEGIN (R211). -/
structure ASet where
  begun : Bool
  compat : Bool
  dv16 : Nat
  oslot : Nat
  m : Tbl Word
  l : Tbl Word
  /-- No key block has been processed since BEGIN (R213). -/
  first : Bool
  deriving DecidableEq, Repr

/-- An arrival in a Hopper (R368). -/
structure Arrival where
  shard : Nat
  elem : Nat
  coll : Nat
  data : List Blk
  deriving DecidableEq, Repr

/-- A line of the L1 cache (R115, R116): the DPA of its 128 bytes, the way it lies in, its two blocks with their check bits (R284). -/
structure L1Line where
  line : Nat
  way : Nat
  st : Store
  deriving DecidableEq, Repr

/-- A compute core. -/
structure Core where
  /-- The context of the last resident program, and the LAUNCH now resident. -/
  ctx : Option CtxId
  tag : Option Tag
  ways : Nat
  /-- Stage contexts by 8·sequencer + stage. -/
  stages : Tbl Stage
  /-- Core tokens (R109). -/
  tok : Tbl Nat
  /-- The local store (R115) and, for its poisoned blocks, the DPA each came from (R286). -/
  ls : Store
  orig : Tbl Nat
  l1 : List L1Line
  /-- The tree pseudo-LRU bits of an L1 set over its 8 ways (R116). -/
  l1lru : Tbl Nat
  /-- Blocks of 1 KiB in the instruction buffers, by sequencer (R94, R103), newest last. -/
  ibuf : Tbl (List Nat)
  /-- Accumulators (R131) by (8·array + slot)·256 + 16·i + j. -/
  acc : Tbl Word
  /-- Vector registers by 64·v + l, masks M1 to M7, tile buffers by 1024·b + 64·r + l (R188). -/
  v : Tbl Word
  m : Tbl Nat
  t : Tbl Word
  /-- Operations the arrays hold, oldest first (R142). -/
  fops : List FurrowOp
  /-- Arrays that are recomputing, bit by array (R146). -/
  redo : Nat
  /-- LTs of the last two mismatches, newest first (R147), and the last mismatch's registers (R157). -/
  mism : List Nat
  lastLt : Nat
  lastWord : Word
  lastCols : Word
  sets : Tbl ASet
  hopper : List Arrival
  /-- A LAUNCH has come since the core's last reset, power-on or retirement; until then arrivals are discarded (R374). -/
  hopOpen : Bool
  /-- CL_CORE_TRAP and CL_CORE_THROTTLED_PEER (R128). -/
  trap : Word
  peer : Word
  /-- Sequencers stopped for a save, bit by sequencer (R126). -/
  halted : Nat
  /-- Stopped at an instruction boundary under R73. -/
  forced : Bool
  /-- The core has written or read a save image since the last tick (R121). -/
  imaged : Bool
  /-- Operations that the arrays, the Harrow and the attention path have accepted since the last tick (R121). -/
  busy : Nat
  /-- The parts of the Harrow that have taken an operation since the last tick: bit 0 special functions, 1 reductions, 2 conversions
  (R205); bit 3 the attention path (R231). -/
  harBusy : Nat
  deriving DecidableEq, Repr

/-- A transfer in a Drill's queue (R152, R156). -/
structure DXfer where
  rcd : Rec64
  id : Word
  /-- The descriptor's tag, or the issuing core and stage. -/
  tag : Option Tag
  core : Nat
  stage : Nat
  ctx : CtxId
  progress : Nat
  /-- It holds a fault resume point (R154). -/
  faulted : Bool
  started : Bool
  /-- The LAUNCH that issued it, while that has not ended. -/
  launch : Option Tag
  /-- It leaves at its next unit boundary, without a signal: the status its descriptor then gets (R154). -/
  stop : Option Nat
  deriving DecidableEq, Repr

/-- A cluster's own state (R96, R109, R148 to R157). -/
structure Cluster where
  ctx : Option CtxId
  /-- Cluster tokens (R109). -/
  tok : Tbl Nat
  drill : List DXfer
  nextNum : Word
  paused : Bool
  deriving DecidableEq, Repr

/-- The compute grid. -/
structure Grid where
  cores : Tbl Core
  clusters : Tbl Cluster
  deriving DecidableEq, Repr

/-! ## The fabric (10) -/

/-- The state of a port (R322). -/
inductive LState where
  | disabled | training | up | retraining | quiesced | down | retired
  deriving DecidableEq, Repr

/-- A flit kept for replay (R308): its FSEQ, its payload, and the packets that end in it. -/
structure Kept where
  seq : Nat
  payload : List Byte
  pkts : List Packet
  deriving DecidableEq, Repr

/-- A port (R297 to R328). -/
structure Port where
  en : Bool
  /-- REACH is LR, and ROLE of P17 (R298, R303). -/
  lr : Bool
  role : Nat
  state : LState
  /-- Lanes not retired at this end, lanes the peer has not retired, and active lanes: how many and which (R325). -/
  lanes : Nat
  peerLanes : Nat
  width : Nat
  active : Nat
  /-- Failed attempts in a row, and the LT at which the training, retrain or quiesce began (R322). -/
  attempts : Nat
  since : Nat
  /-- What the peer sent since EN: address, role. What this end sent in its last training: address, role, PART (R323). -/
  peer : Option (Nat × Nat)
  said : Option (Nat × Nat × Nat)
  /-- The message bits that no codeword carries yet: their value and their number (R305). -/
  msg : Nat
  msgLen : Nat
  /-- Flits received since the count restarted, whether the codeword begun last is uncorrectable, and the uncorrectable codewords in a
  row (R305, R308). -/
  rxFlits : Nat
  rxBad : Bool
  badRun : Nat
  /-- FSEQ of the next flit to be sent and of the next expected (R307). -/
  txSeq : Nat
  rxSeq : Nat
  replay : List Kept
  /-- The FSEQ last NAKed by the peer and how often in a row; the NAKs sent in a row; replay awaited (R308, R309). -/
  nakSeq : Nat
  nakRun : Nat
  nakSent : Nat
  waiting : Bool
  /-- Flits received since the last ACK was sent; the LT since which a flit or credit is unreported (R309). -/
  unrep : Nat
  unrepLt : Option Nat
  /-- Credits held for each queue and of the shared pool; credits to be returned (R314). -/
  cred : List Nat
  shared : Nat
  back : List Nat
  backShared : Nat
  /-- LINK records and packets that wait to be sent, oldest first. -/
  links : List Packet
  tx : List Packet
  /-- Packets received and not yet taken, and the bytes of one received in part. -/
  rx : List Packet
  part : List Byte
  /-- Corrected symbols of each lane in this window; a lane has been retired in it (R325). -/
  tally : Tbl Nat
  laneDone : Bool
  /-- The port sends REJOIN when it has trained (R461). -/
  rejoin : Bool
  /-- Half a CLK_FAB cycle of credit stall left over (log 3). -/
  half : Bool
  deriving DecidableEq, Repr

/-- A run of bits that a lane sent, the first in bit 0 (R304, R305). -/
structure LaneRun where
  port : Nat
  lane : Nat
  len : Nat
  bits : Nat
  deriving DecidableEq, Repr

/-- A transaction whose response is awaited (R319): its packet, the descriptor it serves, its LT, the re-issues after TARGET_RESET
(R460). -/
structure Xact where
  pkt : Packet
  work : Nat
  lt : Nat
  tries : Nat
  deriving DecidableEq, Repr

/-- The fabric. -/
structure Fab where
  ports : Tbl Port
  /-- Outstanding transactions by tag. -/
  tags : Tbl Xact
  /-- The next FLOW_SEQ of a flow sent, by (DST, VC, FLOW); the expected one of a flow received, by (SRC, VC, FLOW) (R320). -/
  txFlow : Tbl Word
  rxFlow : Tbl Word
  /-- FAB_CFG_STATUS. -/
  cfgPort : Nat
  cfgResult : Nat
  /-- The end of the interval of R461 in which no transaction is issued: none before the first REJOIN, 0 once it is over. -/
  quiet : Option Nat
  /-- Flits sent, by port, newest last, and the bits that left on the lanes for them. -/
  wire : List (Nat × List Byte)
  laneOut : List LaneRun
  /-- Own packets that came back unrouted, transactions that ended with a status, and ports that retired a lane or themselves,
  which the engines have still to take up within the command. -/
  returned : List Packet
  ended : List (Nat × Nat × Packet)
  lost : List Nat
  /-- An own collective packet has left its port, so that a slot that waits for that may go on (R345). -/
  handed : Bool
  deriving DecidableEq, Repr

/-! ## Collectives (11) -/

/-- A contribution that waits for its turn in a fold: who it came from, its element index, its values and its poisoned units. -/
structure Part where
  who : Nat
  addr : Nat
  vals : List Word
  bad : List Bool
  deriving DecidableEq, Repr

/-- An arrival formed in the engine that waits for its core's Hopper (R368). -/
structure Formed where
  core : Nat
  arr : Arrival
  deriving DecidableEq, Repr

/-- A collective slot (R333, R345 to R350). -/
structure Slot where
  tag : Tag
  ctx : CtxId
  job : Nat
  id : Nat
  /-- The phase being run, as a position in the list of phases. -/
  k : Nat
  /-- Elements (or 64-byte units of a permute) this member has still to receive in the phase. -/
  need : Nat
  parts : List Part
  /-- Packets of later phases. -/
  later : List Packet
  /-- This member's running FLAGS and sum of a Winnow or journal reduction (R377, R394). -/
  flags : Nat
  sum : Word
  /-- Byte ranges of DST that a permute has placed (R344). -/
  placed : List (Nat × Nat)
  /-- The last peer input has arrived (R345), and the work is over. -/
  lastIn : Bool
  isOver : Bool
  /-- LT of the last packet consumed or sent (R347). -/
  act : Nat
  /-- Peers whose last packet was throttled, and the ticks waited on each (R350). -/
  thr : List Nat
  thrTicks : Tbl Nat
  /-- The cause of R347; 0 while not aborting. -/
  cause : Nat
  /-- ABORT has been sent for an own packet that could not go out after the last peer input (R347). -/
  warned : Bool
  deriving DecidableEq, Repr

/-- The collective engines. -/
structure Col where
  slots : Tbl Slot
  /-- The early-arrival store and the abort markers: (JOB, COLL_ID, SRC, cause) (R343). -/
  early : List Packet
  markers : List (Nat × Nat × Nat × Nat)
  earlyTold : Bool
  /-- The newest COLL_ID armed for a JOB since it was set. -/
  armed : Tbl Nat
  /-- COL_CFG_STATUS and COL_LAST_THROTTLED_PEER. -/
  cfgCtx : Nat
  cfgResult : Nat
  lastThr : Option Nat
  deriving DecidableEq, Repr

/-! ## The update engine (12) -/

/-- A descriptor on a shard unit (R361): the record it acts on, how far its steps have come, what it has gathered. -/
structure Job where
  unit : Nat
  /-- Records done. -/
  i : Nat
  /-- The step within a record, and the offset reached. -/
  step : Nat
  pos : Nat
  tries : Nat
  hdr : List Byte
  buf : List Byte
  outcome : Nat
  count : Nat
  /-- The transaction awaited. -/
  wait : Option Nat
  /-- What a transaction of the job came to: status and data. -/
  got : Option (Nat × List Byte)
  /-- The running fold, the bytes gathered, and whether a poisoned unit was among them. -/
  fold : Nat
  data : List Byte
  bad : Bool
  /-- Its transaction could not be issued at the bound of R319, or in the interval of R461. -/
  refused : Bool
  deriving DecidableEq, Repr

/-- A parameter group's health (R383). -/
structure Grp where
  flushed : Nat
  nonzero : Nat
  quiet : Nat
  raised : Bool
  deriving DecidableEq, Repr

/-- The update engine. -/
structure Upd where
  /-- Jobs by tag. -/
  jobs : Tbl Job
  groups : Tbl Grp
  formed : List Formed
  /-- HOPPER_DISCARD posted: (collective tag, core) (R374). -/
  told : List (Nat × Nat)
  /-- The device-reset row of R396 is still to be applied to the shard table. -/
  due : Bool
  /-- UPD_CFG_STATUS. -/
  cfgOff : Nat
  cfgResult : Nat
  /-- Half a CLK_FAB cycle of a full Hopper's hold left over (log 3). -/
  half : Bool
  /-- The DPA of the first poisoned block consumed for the peer's request being served (R286). -/
  ate : Option Nat
  deriving DecidableEq, Repr

/-! ## Floor plan, retirement, management messages (01, 14, 17) -/

/-- What a copy of the package record's service section holds besides keys and licences (R472): its generation number, the retirement list
(R44, R260: kind 1 core, 2 lane, 3 port, 4 channel, 5 way pair; unit; lane or set; cause or pair), the voltage trims (R420), the keys of the
training settings (R465). -/
structure RecordCopy where
  gen : Word
  list : List (Nat × Nat × Nat × Nat)
  trims : Tbl Int
  modes : List Nat
  deriving DecidableEq, Repr

/-- The floor plan and the record of retirements (R41 to R44, R435). -/
structure Floor where
  /-- GLB_FP_CORE entries; an unlisted core reads 0 (GOOD). -/
  cores : Tbl Word
  seq : Word
  valid : Bool
  good : Nat
  defect : Nat
  retired : Nat
  /-- Two-bit port and channel states; unlisted 0 GOOD. -/
  ports : Tbl Nat
  chans : Tbl Nat
  /-- FLT_LAST_RETIRE and its LT. -/
  last : Word
  lastLt : Nat
  /-- The newest copy of the service section, and the one it took the place of (R472). -/
  cur : RecordCopy
  older : RecordCopy
  /-- In-service retirements of this session that could not be written there (R44). -/
  kept : List (Nat × Nat × Nat × Nat)
  /-- The factory section's defect map, core and cause, and its LLC retirement list: half, slice, set, pair (R43, R260, R472). -/
  factory : List (Nat × Nat)
  factoryWays : List (Nat × Nat × Nat × Nat)
  /-- FLASH_WP_N as the board drives it (R491, R494). -/
  wpn : Bool
  /-- The stored record is absent or failed verification, and no gate request has written one since (R463). -/
  noRecord : Bool
  /-- Channels that failed training, to be reported DEFECT in the next update (R466). -/
  due : List Nat
  deriving DecidableEq, Repr

/-- EVENT messages on the management port (R444, R498). -/
structure Mctp where
  /-- The endpoint that last assigned the endpoint ID, and that ID. -/
  owner : Option Byte
  /-- EVENT messages the bus owner has not read, oldest first, at most 64. -/
  unread : List Rec64
  posted : Nat
  sent : Nat
  /-- The clock monitor has reported a loss of REFCLK to the management port (R40). -/
  clockLost : Bool
  /-- MGMT_ADDR as sampled: the port's static address is 0x50 above it (R491, R492). -/
  addr : Nat
  deriving DecidableEq, Repr

/-- A power transition in progress (R402): a P-state change (kind 1, or 4 for the envelope's) or a domain command (2 on, 3 off). -/
structure Trans where
  kind : Nat
  /-- The P-state it goes to. -/
  target : Nat
  /-- The domains listed, the position reached, and the domain switched on last (R408). -/
  doms : List Nat
  pos : Nat
  last : Option Nat
  /-- The switch of the listed domain at pos is under way (R31, R35), since when, and the LT at which it or the P-state change ends. -/
  armed : Bool
  since : Nat
  due : Nat
  /-- When CLK_CORE stops for a P-state change, and when it runs again at the new frequency (R405). -/
  stop : Nat
  relock : Nat
  /-- The command came over MCTP (R33). -/
  mgmt : Bool
  deriving DecidableEq, Repr

/-- The cap, ramp and floor controller and the estimator (R409 to R418). Powers are in nW. -/
structure Ctl where
  /-- PWR_CAP, RAMP_UP_LIMIT, RAMP_DOWN_LIMIT and PWR_FLOOR in force in this period, in W and W/ms (R402). -/
  cap : Nat
  up : Nat
  down : Nat
  floor : Nat
  /-- REF; none before the first period (R411). -/
  ref : Option Nat
  g : Nat
  f : Nat
  /-- The position of the next cycle in the 64-cycle frame (R412). -/
  frame : Nat
  short : Bool
  /-- The last period's shortfall and FMAX. -/
  shortNw : Nat
  fmaxNw : Nat
  /-- E of the last period. -/
  est : Nat
  /-- Weights in use, and those committed for the next period (R410). -/
  active : List Nat
  next : Option (List Nat)
  lastPeriod : Option Nat
  /-- Of this window: periods, ΣE, ΣD/E and ΣF/E in parts of 10^12, ΣFMAX, periods that fell short. -/
  winN : Nat
  winE : Nat
  winD : Nat
  winF : Nat
  winFmax : Nat
  winShort : Nat
  lastWin : Option Nat
  /-- Ē and M of the last window, and the package input in W (R415). -/
  estW : Nat
  meas : Nat
  input : Nat
  guarded : Bool
  /-- The write that ends guarded mode at the next window: 1 weights, 2 clear (R418). -/
  leave : Nat
  /-- PWR_EST_COMMIT has been written in this window (R416). -/
  committed : Bool
  run : Nat
  dir : Nat
  ratio : Nat
  /-- FLOOR_SHORT is armed (R412). -/
  armed : Bool
  /-- The last IVR sample of each domain, 1/16 W (R415). -/
  domPower : Tbl Nat
  deriving DecidableEq, Repr

/-- The sensor round and what follows from it (R421 to R430). Temperatures are in millionths of a degree. -/
structure Therm where
  lastRound : Option Nat
  /-- The readings as sampled: 1/8 °C, mV (R421). -/
  read : Tbl Int
  eff : Tbl Int
  model : Tbl Int
  failed : List Nat
  /-- SUSPECT, bit 2·(k − 1) + h, and the rounds in a row with Δ > 6.0 °C of each layer-half (R423). -/
  suspect : Nat
  rounds : Tbl Nat
  /-- The thermal fraction of each source: logic sensors 0 to 95, layer-halves 96 + bit (R426). -/
  frac : Tbl Nat
  tripped : Bool
  tripCh : Nat
  tripTemp : Int
  /-- THERMTRIP_N is asserted (R493). -/
  thermtrip : Bool
  deriving DecidableEq, Repr

/-- Voltage trims by quadrant in 1.25 mV units, quadrants whose TRIM_LIMIT has been posted, and the
LTs of the last adjustment and save (R420). -/
structure Trim where
  now : Tbl Int
  atLimit : List Nat
  lt : Nat
  saveLt : Nat
  deriving DecidableEq, Repr

/-- Power states, capping and temperature (13). -/
structure Pwr where
  /-- The P-state in force, and the last accepted (R404, R432). -/
  pstate : Nat
  cmd : Nat
  trans : Option Trans
  /-- RESULT and FAILED_INDEX (R403). -/
  result : Nat
  failed : Nat
  /-- The throttle indicator and the LT of the last throttling period (R414). -/
  throttle : Bool
  thrLt : Nat
  ctl : Ctl
  th : Therm
  trim : Trim
  deriving DecidableEq, Repr

/-- A device reset in progress (R456, R459, R464): its origin, whether its drain window is over and the control partition is awaited,
the LT at which it was accepted. -/
structure Resetting where
  origin : Nat
  drained : Bool
  since : Nat
  deriving DecidableEq, Repr

/-- Reset, boot, training and self test (15). -/
structure Rst where
  run : Option Resetting
  /-- A reset of level 1 to 4 that waits for a power transition: level and target (R455). -/
  wait : Option (Nat × Nat)
  /-- RST_STATUS LEVEL, RESULT, ORIGIN; RST_DONE_LT; RST_ENDED (R470). -/
  level : Nat
  result : Nat
  origin : Nat
  doneLt : Nat
  ended : Nat
  /-- RST_BOOT_STATUS: STAGE 0 while the part is held in cold reset (R462, R463). -/
  stage : Nat
  error : Nat
  recordOk : Bool
  /-- TRAIN_SEL as sampled (R465). -/
  strap : Nat
  /-- RST_SELFTEST_STATUS and the LT the test started at (R468). -/
  test : Nat
  testResult : Nat
  testMs : Nat
  testLt : Nat
  /-- LT at which each group's training began (R466). -/
  groupLt : Tbl Nat
  /-- RST_TRAIN_RESULT by unit: ports 0 to 17, groups 18 to 21. -/
  train : Tbl Word
  /-- Keys of the settings held for this cold session (R465). -/
  session : List Nat
  /-- The rails are in range, REFCLK runs, PERST_N is deasserted (R40, R487 to R493). -/
  rails : Bool
  refclk : Bool
  perst : Bool
  deriving DecidableEq, Repr

/-- Everything of the part but its identity and licences. -/
structure Dev where
  /-- The index of the next free value (the model's own, log 2). -/
  fresh : Nat
  /-- LT in ticks of 10 ns (R39). -/
  lt : Nat
  /-- Registers that hold what was written, by BAR0 offset; unlisted ones hold their reset value (Regs.lean). -/
  regs : Tbl Word
  /-- Committed 64-bit values by the BAR0 offset of their high word (R15). -/
  wide : Tbl Nat
  /-- Counters by the BAR0 offset of their low word (R9 to R11). -/
  ctr : Tbl Ctr
  /-- Shadows of high words by the BAR0 offset of the low word, for PCIe and for MCTP (R12). -/
  shP : Tbl Word
  shM : Tbl Word
  /-- Powered domains, bit n for domain n; domain 96 is always on (R28). -/
  dom : Nat
  env : Env
  hq : Hqs
  mm : Mm
  fl : Floor
  mc : Mctp
  pw : Pwr
  rs : Rst
  gr : Grid
  fab : Fab
  col : Col
  upd : Upd
  deriving DecidableEq, Repr

/-! ## Identity, licences, gate (16) -/

/-- Identity, licences, keys, the gate and the SPDM responder. -/
structure Sec where
  /-- Features in force: bit 0 TRAIN, 1 F64, 2 FABRIC-L, 3 ATTN (R474). -/
  lic : Nat
  /-- Licence slots 0 to 3, each the 160 bytes of its licence (R473), and gate key slots 0 to 7 (R475). -/
  slots : Tbl (List Byte)
  keys : Tbl (BitVec 256)
  /-- Those of the newest copy of the package record's service section, which a record that fails at boot keeps until a gate request
  writes one (R44, R463, R472). -/
  flashSlots : Tbl (List Byte)
  flashKeys : Tbl (BitVec 256)
  /-- The generation a gate request last wrote, and what the copy before it held (R472). -/
  wroteGen : Word
  olderSlots : Tbl (List Byte)
  olderKeys : Tbl (BitVec 256)
  /-- GATE_SEQ (R476). -/
  seq : Word
  /-- BOOT_NONCE, and how many have been generated: the index of its free value (R476, log 10). -/
  nonce : BitVec 256
  nonces : Nat
  /-- The identity was reconstructed, and the device key (R471). -/
  identity : Bool
  deviceKey : BitVec 256
  /-- Of the factory section: the helper data's index, the vendor licence key, the certificate chain of slot 0 (R472, log 9). -/
  helper : Nat
  vendorKey : BitVec 256
  chain : List Byte
  /-- GATE_STATUS bits 23:0 without BUSY, and GATE_LAST_SEQ (R483). -/
  status : Nat
  lastSeq : Word
  /-- SPDM: GET_VERSION and NEGOTIATE_ALGORITHMS have been answered since reset (R481). -/
  versioned : Bool
  negotiated : Bool
  /-- SPDM messages so far that its signatures cover (log 33): up to NEGOTIATE_ALGORITHMS, digests and certificates, measurements. -/
  vca : List Byte
  certs : List Byte
  measured : List Byte
  deriving DecidableEq, Repr

/-! ## The whole -/

/-- Faults: there is none. The manual gives every command of this part an effect, so no command stops the machine (safe). -/
inductive Fault where
  deriving DecidableEq, Repr

/-- Refusals. -/
inductive Refusal where
  /-- Raised by Dispatch.lean for a command whose meaning is not written yet, by its mnemonic: safe. -/
  | notModelled (mnemonic : String)
  deriving DecidableEq, Repr

/-- The machine: the commands that wait, first in first out, and the part. -/
structure State where
  pending : List Instr
  sec : Sec
  dev : Dev
  deriving DecidableEq, Repr

/-- A copy of the service section as a part is shipped: nothing retired, no trims, settings of every group at rate 0 (R465; log 9). -/
def RecordCopy.shipped : RecordCopy := ⟨0, [], [], (List.range 4).map (fun g => 8 * (18 + g))⟩

/-- PWR_EST_WEIGHT at cold reset, in 0.25 pJ (R410). -/
def weights0 : List Nat := [880, 800, 760, 600, 560, 800, 180, 480, 48, 120, 560, 360, 4800, 2400, 240, 600]

/-- Power control at cold reset (R432). -/
def Pwr.cold : Pwr :=
  ⟨0, 0, none, 0, 0, false, 0,
   ⟨900, 100, 100, 0, none, 0, 0, 0, false, 0, 0, 0, weights0, none, none, 0, 0, 0, 0, 0, 0, none, 0, 0, 0, false, 0, false, 0, 0, 0, true, []⟩,
   ⟨none, [], [], [], [], 0, [], [], false, 0, 0, false⟩, ⟨[], [], 0, 0⟩⟩

/-- The part as a cold reset leaves it while it is held in reset (R453, R463); log 9 gives the package record of a part as
shipped, log 4 the pins and rails. -/
def State.reset : State :=
  { pending := []
    sec := ⟨0, [], [], [], [], 0, [], [], 0, 0, 0, false, 0, 0, 0, [], 0, 0, false, false, [], [], []⟩
    dev := {
      fresh := 1, lt := 0, regs := [], wide := [], ctr := [], shP := [], shM := [], dom := 2 ^ 94
      env := ⟨[], [], false, [], [], 0, [], [], [], 0⟩
      hq := { queues := [], ctxs := [], devRing := ⟨false, 0, 6, 0, 0, 0, 0, 0, 0, [], false, none, false⟩, infl := [], lastQ := []
              lastClass := 0, checkFail := false, mail := [], load := .idle, ctrlRun := false, mgmtRun := false, updating := false
              lastOff := 0, lastRes := 0, version := 0, newVersion := 0, pauseUs := 0, waitLt := 0, pauseLt := 0, bundleAddr := 0
              bundleLen := 0
              fetchAddr := 0, fetchLen := 0, digest := 0, owed := [(0xFFFFFFFF, 6)] }
      mm := { gran := ⟨[], []⟩, groups := [], chans := [], glean := [], lines := [], lru := [], halves := [], hold := 0, holdN := []
              walks := [], clWalks := [], atc := [], pri := [], inval := none, heldWr := [], queued := [], missOut := [], tags := ⟨[], []⟩ }
      fl := { cores := [], seq := 0, valid := false, good := 0, defect := 0, retired := 0, ports := [], chans := [], last := 0
              lastLt := 0, cur := RecordCopy.shipped, older := RecordCopy.shipped, kept := [], factory := [], factoryWays := [], wpn := true, noRecord := false, due := [] }
      mc := ⟨none, [], 0, 0, false, 0⟩
      pw := Pwr.cold
      rs := ⟨none, none, 6, 0, 1, 0, 0, 0, 0, false, 0, 0, 0, 0, 0, [], [], [], true, true, true⟩
      gr := ⟨[], []⟩
      fab := ⟨[], [], [], [], 0, 0, none, [], [], [], [], [], false⟩
      col := ⟨[], [], [], false, [], 0, 0, none⟩
      upd := ⟨[], [], [], [], false, 0, 0, false, none⟩ } }

end Sys2Proof.Machine
end

