-- ==== Sys2Proof/Machine/Flags.lean ====
section
/-!
DEFINITION. Sys2Proof/Machine/Flags.lean: the register store, counters with their sticky SAT bits (R9 to R12, R448 to R450)
and shadows. A block has no arithmetic flags; the flags of this part are the SAT bits.
-/
namespace Sys2Proof.Machine

/-! ## Registers that hold what was written -/

/-- Reset values other than 0 of the registers that hold what was written, by BAR0 offset (the Reset columns). -/
def resetVal (off : Nat) : Word :=
  if off = 0x10010 then 0x32                                     -- HQS_BLOCK_MAX
  else if off = 0x10034 || off = 0x60004 || off = 0xA0010 || off = 0xC0008 || off = 0xE0008 || off = 0x160034
    || off = 0x80010 || off = 0x140008 || off = 0x120038 || off = 0x40058 || off = 0x100068 then 1   -- the SAT_EN registers
  else if off = 0x13008 then 6                                   -- HQS_DEV_EVQ_CFG
  else if off = 0x20114 then 0x3E8                               -- FMW_UPD_DEFER_MAX
  else if off = 0xA0014 then 0x100                               -- LLC_PRESS_CFG
  else if off = 0xA0100 || off = 0xA0200 then 0x32               -- LLC_PIN_LIMIT
  else if off = 0xC000C then 0x0E100010                          -- GRN_RET_CFG
  else if off = 0xC0800 || off = 0xC0840 then 0x00100002         -- GLEAN_CTL of the LLC engines
  else if off = 0xC0880 || off = 0xC08C0 || off = 0xC0900 || off = 0xC0940 then 0x00400002
  else if off = 0x80014 then 0x2710                              -- FAB_RESP_TIMEOUT
  else if off = 0x80018 then 0x08000000                          -- FAB_LANE_LIMIT
  else if off = 0x8001C then 0x03E80408                          -- FAB_RETRY_CFG
  else if off = 0x140004 then 0x7D0                              -- COL_PEER_TIMEOUT
  else if off = 0x14000C then 0x3E8                              -- COL_NOTE_US
  else if off = 0x12001C then 0x7F800000                         -- UPD_ABSURD
  else if off = 0x120020 then 0x01000CCD                         -- UPD_HEALTH_CFG
  else if off = 0xE0004 then 0x64                                -- XLT_PRI_WAIT
  else if off = 0x40030 then 0x384                               -- PWR_CAP
  else if off = 0x40034 then 0x00640064                          -- PWR_RAMP
  else if off = 0x4003C then 0x07D003B6                          -- PWR_ENV_MAX
  else if off = 0x4006C then 0xB4                                -- PWR_PLATE_T
  else if 0x40400 ≤ off && off < 0x40440 then BitVec.ofNat 32 (weights0.getD ((off - 0x40400) / 4) 0)   -- PWR_EST_WEIGHT
  else if off = 0x160024 then 0x14                               -- RST_DRAIN_US
  else if off = 0x160028 then 0x03E80003                         -- RST_TR_CFG
  else if 0x8100C ≤ off && off ≤ 0x8210C && off % 0x100 = 0xC then 0x22222222   -- FAB_PORT_RESERVE
  else if 0x400000 ≤ off && off < 0x880000 && off % 0x10000 = 0x10 then 1   -- CL_SAT_EN
  else 0

/-- The value a held register has. -/
def Dev.reg (d : Dev) (off : Nat) : Word := Tbl.get d.regs off (resetVal off)

/-- A held register written. -/
def Dev.setReg (d : Dev) (off : Nat) (v : Word) : Dev := { d with regs := Tbl.set d.regs off v (resetVal off) }

/-- The committed 64-bit value of a pair, named by its high word's offset (R15). -/
def Dev.wide64 (d : Dev) (off : Nat) : Nat := Tbl.get d.wide off 0

/-- A pair committed. -/
def Dev.setWide (d : Dev) (off v : Nat) : Dev := { d with wide := Tbl.set d.wide off v 0 }

/-! ## Counter sets -/

/-- The counters that share a SAT register: their offsets and widths in order of the SAT bit, the SAT register, the clear
register and the SAT_EN register, all as BAR0 offsets. -/
structure CtrSet where
  sat : Nat
  clear : Nat
  en : Option Nat
  ctrs : List (Nat × Nat)

/-- HQS counters (R88). -/
def hqsSet : CtrSet := ⟨0x10030, 0x10038, some 0x10034, [(0x10020, 32), (0x10024, 32), (0x10028, 32), (0x1002C, 32)]⟩
/-- FMW has no SAT_EN register and always reports (R10, R90). -/
def fmwSet : CtrSet := ⟨0x2000C, 0x20010, none, [(0x20008, 32)]⟩
/-- FLT counters (R451). -/
def fltSet : CtrSet :=
  ⟨0x60180, 0x60184, some 0x60004, (List.range 14).map (fun s => (0x60100 + 4 * s, 32)) ++ [(0x60138, 32), (0x6013C, 32), (0x60140, 32)]⟩
/-- LLC counters of a half (R262). -/
def llcSet (h : Nat) : CtrSet :=
  ⟨0xA012C + 0x100 * h, 0xA0128 + 0x100 * h, some 0xA0010,
   [(0xA1000 + 0x100 * h, 64), (0xA1008 + 0x100 * h, 64), (0xA1010 + 0x100 * h, 64)] ++
   (List.range 9).map (fun i => (0xA1018 + 0x100 * h + 4 * i, 32))⟩
/-- GRN counters of a channel (R295). -/
def grnSet (n : Nat) : CtrSet :=
  ⟨0xC0110 + 0x20 * n, 0xC0114 + 0x20 * n, some 0xC0008, (List.range 4).map (fun i => (0xC0100 + 0x20 * n + 4 * i, 32))⟩
/-- Counters of a Glean engine (R295). -/
def gleanSet (e : Nat) : CtrSet :=
  ⟨0xC0824 + 0x40 * e, 0xC0828 + 0x40 * e, some 0xC0008, (List.range 3).map (fun i => (0xC0818 + 0x40 * e + 4 * i, 32))⟩
/-- XLT counters (R296). -/
def xltSet : CtrSet := ⟨0xE0114, 0xE0118, some 0xE0008, (List.range 5).map (fun i => (0xE0100 + 4 * i, 32))⟩
/-- PWR counters (R432). -/
def pwrSet : CtrSet :=
  ⟨0x40120, 0x40124, some 0x40058, [(0x40100, 32), (0x40104, 32), (0x40108, 64), (0x40110, 64), (0x40118, 32), (0x4011C, 32)]⟩
/-- GATE counters (R483). -/
def gateSet : CtrSet := ⟨0x10010C, 0x100110, some 0x100068, [(0x100100, 32), (0x100104, 32), (0x100108, 32)]⟩
/-- RST counters (R470). -/
def rstSet : CtrSet :=
  ⟨0x160070, 0x160074, some 0x160034, (List.range 6).map (fun i => (0x160040 + 4 * i, 32)) ++ [(0x160058, 32), (0x16005C, 32), (0x160060, 32)]⟩

/-- The counter at an offset. -/
def Dev.ctrAt (d : Dev) (off : Nat) : Ctr := Tbl.get d.ctr off ⟨0, false⟩

/-- A counter advanced; SAT is set as it reaches all ones (R9, R10). -/
def Ctr.add (c : Ctr) (w n : Nat) : Ctr :=
  let v := satAdd w c.val n
  ⟨v, c.sat || (v = 2 ^ w - 1)⟩

/-- Counter i of a set advanced by n, and whether its SAT went from 0 to 1. -/
def Dev.rawBump (d : Dev) (cs : CtrSet) (i n : Nat) : Dev × Bool :=
  match cs.ctrs[i]? with
  | none => (d, false)
  | some (off, w) =>
    let c := d.ctrAt off
    let c' := c.add w n
    ({ d with ctr := Tbl.set d.ctr off c' ⟨0, false⟩ }, c'.sat && !c.sat)

/-- Whether a set's block reports saturation (R10). -/
def Dev.satEn (d : Dev) (cs : CtrSet) : Bool :=
  match cs.en with
  | none => true
  | some off => bitOf (d.reg off).toNat 0

/-- The SAT register of a set as read. -/
def Dev.satWord (d : Dev) (cs : CtrSet) : Nat :=
  ((List.range cs.ctrs.length).map (fun i =>
    match cs.ctrs[i]? with
    | none => 0
    | some (off, _) => if (d.ctrAt off).sat then 2 ^ i else 0)).sum

/-- Counter i and its SAT bit cleared (R11). -/
def Dev.clearCtr (d : Dev) (cs : CtrSet) (i : Nat) : Dev :=
  match cs.ctrs[i]? with
  | none => d
  | some (off, _) => { d with ctr := Tbl.erase d.ctr off }

/-- The counters named by the bits of a clear word cleared (R11). -/
def Dev.clearBits (d : Dev) (cs : CtrSet) (v : Nat) : Dev :=
  (setBits v cs.ctrs.length).foldl (fun d i => d.clearCtr cs i) d

/-- Every counter of a set cleared. -/
def Dev.clearSet (d : Dev) (cs : CtrSet) : Dev := d.clearBits cs (2 ^ cs.ctrs.length - 1)

/-! ## Shadows (R12) -/

/-- The shadow of the value whose low word lies at off, on a path. -/
def Dev.shadow (d : Dev) (v : Via) (off : Nat) : Word :=
  match v with
  | .pcie => Tbl.get d.shP off 0
  | .mctp => Tbl.get d.shM off 0

/-- A high word captured. -/
def Dev.capture (d : Dev) (v : Via) (off : Nat) (hi : Word) : Dev :=
  match v with
  | .pcie => { d with shP := Tbl.set d.shP off hi 0 }
  | .mctp => { d with shM := Tbl.set d.shM off hi 0 }

/-- Whether a domain is powered and runs: the always-on domain 96 always does (R28), any other stops when REFCLK stops (R40) and
never runs after a PLL failed to lock (R463). -/
def Dev.on (d : Dev) (n : Nat) : Bool := n = 96 || (bitOf d.dom n && d.rs.refclk && d.rs.error != 4)

/-- A domain is being powered off: it runs, so that what is under way drains, and it takes nothing new (R31, R32). -/
def Dev.closing (d : Dev) (n : Nat) : Bool :=
  match d.pw.trans with
  | none => false
  | some t => t.kind = 3 && t.armed && t.doms[t.pos]? = some n

/-- A domain takes new work and new requests. -/
def Dev.admits (d : Dev) (n : Nat) : Bool := d.on n && !d.closing n

/-- PCIe reaches the part: it has booted, its PLLs locked, and the host interface runs (R33, R40, R462, R463). -/
def Dev.pcieUp (d : Dev) : Bool := 6 ≤ d.rs.stage && d.admits 94

/-- A device reset leaves only GLB, FMW and RST served (R458). -/
def servedInReset (off : Nat) : Bool := off < 0x10000 || (0x20000 ≤ off && off < 0x40000) || (0x160000 ≤ off && off < 0x180000)

/-- The FE registers, by HQS offset (R88). -/
def isFe (off : Nat) : Bool :=
  off % 4 = 0 && ((0x100 ≤ off && off < 0x180) || (0x1004 ≤ off && off ≤ 0x1024) || (0x2004 ≤ off && off ≤ 0x2030))

/-- The logic die has come out of a device reset and its control partition is awaited: FE writes wait in the mailbox (R89). -/
def Dev.awaitsFw (d : Dev) : Bool := d.rs.run.any (·.drained)

/-- An access to a BAR0 offset by a path is served (R89, R458, R462, R497). -/
def Dev.serves (d : Dev) (v : Via) (off : Nat) : Bool :=
  (match v with | .pcie => d.pcieUp | .mctp => 1 ≤ d.rs.stage)
    && (d.rs.run.isNone || servedInReset off || (d.awaitsFw && 0x10000 ≤ off && isFe (off - 0x10000)))

/-- The headland quadrant of a port (R24). -/
def hqOf (p : Nat) : Nat :=
  if p = 0 || p = 1 || p = 7 || p = 14 then 0
  else if p = 2 || p = 3 || p = 8 || p = 13 then 1
  else if p = 4 || p = 5 || p = 9 || p = 16 || p = 17 then 2
  else 3

/-- The domain a BAR0 offset lies in (R28, R483): the host interface for HQS and FMW, a port's headland quadrant, a channel's group,
housekeeping for Glean, a cluster for its window, always-on for the rest (log 30). -/
def regDomain (off : Nat) : Nat :=
  if 0x10000 ≤ off && off < 0x40000 then 94
  else if 0x81000 ≤ off && off < 0x82200 then 80 + hqOf ((off - 0x81000) / 0x100)
  else if 0xC0040 ≤ off && off < 0xC0070 then 84 + off / 4 % 4
  else if 0xC0100 ≤ off && off < 0xC0400 then 84 + (off - 0xC0100) / 0x20 / 6
  else if 0xC0800 ≤ off && off < 0xC0980 then 95
  else if 0x400000 ≤ off && off < 0x880000 then (off - 0x400000) / 0x10000
  else 96

/-- A register access reaches its register: the path is served and the domain takes requests (R31, R33, R35, R458, R497). -/
def Dev.reaches (d : Dev) (v : Via) (off : Nat) : Bool := d.serves v off && d.admits (regDomain off)

/-- A register write that reaches its register has its effect; any other is ignored. -/
def Dev.atReg (d : Dev) (v : Via) (off : Nat) (f : Dev → Dev) : Dev := if d.reaches v off then f d else d

/-- A power transition is in progress (R402). -/
def Pwr.busy (p : Pwr) : Bool := p.trans.isSome

end Sys2Proof.Machine
end

