-- ==== Sys2Proof/Machine/Ops.lean ====
section
/-!
DEFINITION. Sys2Proof/Machine/Ops.lean: the named operations over the state: the entries of the tables and their updates,
host memory, and posting an event (R84, R440 to R445, R498).
-/
namespace Sys2Proof.Machine

/-! ## Entries and their reset values -/

/-- A ring that has not been set up. -/
def Ring.empty : Ring := ⟨false, 0, 6, 0, 0, 0, 0, 0, 0, [], false, none, false⟩

/-- A queue at reset (R88). -/
def Queue.empty : Queue :=
  ⟨.disabled, [], [], 0, 0, 0, 6, 0, 0, 0, 0, 0, 0, 0, [], 0, 0, 0, [], false, false, false, 0, none, 0, none, []⟩

/-- A context at reset (R86, R88). -/
def Ctx.empty : Ctx := ⟨.free, [], [], 0, 0, false, 0, 0, Ring.empty, 0, none, 0, 0, none, false, false, [], [], [], [], none⟩

/-- A half of the stacked cache at reset (R262). -/
def LlcHalf.empty : LlcHalf := ⟨[], [], [], [], 0, 0, 0, 0, false, 0⟩

/-- A granary group at reset (R295). -/
def Group.empty : Group := ⟨.off, [], false, false, false, false, 0⟩

/-- A granary channel at reset. -/
def Chan.empty : Chan := ⟨0, 0, false, 0⟩

/-- A Glean engine at reset. -/
def Glean.empty : Glean := ⟨0, 0, 0, false, []⟩

/-- Queue q. -/
def Dev.queue (d : Dev) (q : Nat) : Queue := Tbl.get d.hq.queues q Queue.empty
/-- Queue q replaced. -/
def Dev.setQueue (d : Dev) (q : Nat) (x : Queue) : Dev :=
  { d with hq := { d.hq with queues := Tbl.set d.hq.queues q x Queue.empty } }
/-- Queue q changed. -/
def Dev.modQueue (d : Dev) (q : Nat) (f : Queue → Queue) : Dev := d.setQueue q (f (d.queue q))

/-- Context c. -/
def Dev.ctx (d : Dev) (c : Nat) : Ctx := Tbl.get d.hq.ctxs c Ctx.empty
/-- Context c replaced. -/
def Dev.setCtx (d : Dev) (c : Nat) (x : Ctx) : Dev :=
  { d with hq := { d.hq with ctxs := Tbl.set d.hq.ctxs c x Ctx.empty } }
/-- Context c changed. -/
def Dev.modCtx (d : Dev) (c : Nat) (f : Ctx → Ctx) : Dev := d.setCtx c (f (d.ctx c))

/-- The accepted descriptor of a tag. -/
def Dev.work (d : Dev) (tag : Nat) : Option Work := Tbl.find d.hq.infl tag
/-- The in-flight entry of a tag written. -/
def Dev.setWork (d : Dev) (tag : Nat) (w : Work) : Dev := { d with hq := { d.hq with infl := Tbl.put d.hq.infl tag w } }
/-- The in-flight entry of a tag changed, if there is one. -/
def Dev.modWork (d : Dev) (tag : Nat) (f : Work → Work) : Dev :=
  match d.work tag with
  | none => d
  | some w => d.setWork tag (f w)
/-- A tag freed (R63). -/
def Dev.freeWork (d : Dev) (tag : Nat) : Dev := { d with hq := { d.hq with infl := Tbl.erase d.hq.infl tag } }

/-- Half h of the stacked cache. -/
def Dev.half (d : Dev) (h : Nat) : LlcHalf := Tbl.get d.mm.halves h LlcHalf.empty
/-- Half h changed. -/
def Dev.modHalf (d : Dev) (h : Nat) (f : LlcHalf → LlcHalf) : Dev :=
  { d with mm := { d.mm with halves := Tbl.set d.mm.halves h (f (d.half h)) LlcHalf.empty } }

/-- Granary group g. -/
def Dev.group (d : Dev) (g : Nat) : Group := Tbl.get d.mm.groups g Group.empty
/-- Granary group g changed. -/
def Dev.modGroup (d : Dev) (g : Nat) (f : Group → Group) : Dev :=
  { d with mm := { d.mm with groups := Tbl.set d.mm.groups g (f (d.group g)) Group.empty } }

/-- Granary channel n. -/
def Dev.chan (d : Dev) (n : Nat) : Chan := Tbl.get d.mm.chans n Chan.empty
/-- Granary channel n changed. -/
def Dev.modChan (d : Dev) (n : Nat) (f : Chan → Chan) : Dev :=
  { d with mm := { d.mm with chans := Tbl.set d.mm.chans n (f (d.chan n)) Chan.empty } }

/-- Glean engine e. -/
def Dev.glean (d : Dev) (e : Nat) : Glean := Tbl.get d.mm.glean e Glean.empty
/-- Glean engine e changed. -/
def Dev.modGlean (d : Dev) (e : Nat) (f : Glean → Glean) : Dev :=
  { d with mm := { d.mm with glean := Tbl.set d.mm.glean e (f (d.glean e)) Glean.empty } }

/-- The next free value taken (log 2): its index, and the state after. -/
def Dev.takeFresh (d : Dev) : Nat × Dev := (d.fresh, { d with fresh := d.fresh + 1 })

/-! ## The shape of a meaning -/

/-- A meaning that changes the part and nothing else of the machine: the queue, identity, licences and keys stay. -/
def State.onDev (s : State) (f : Dev → Dev) : Host.Outcome State Fault Refusal := .next { s with dev := f s.dev }

/-! ## Host memory -/

/-- n bytes of host memory. -/
def Dev.hostRead (d : Dev) (a n : Nat) : List Byte := Mem.read d.env.host a n
/-- A little-endian word of n bytes of host memory. -/
def Dev.hostNat (d : Dev) (a n : Nat) : Nat := leNat (d.hostRead a n)
/-- Bytes written to host memory. -/
def Dev.hostWrite (d : Dev) (a : Nat) (bs : List Byte) : Dev :=
  { d with env := { d.env with host := Mem.write d.env.host a bs } }
/-- The host answers an access with Unsupported Request or Completer Abort (R278). -/
def Dev.hostDead (d : Dev) (a : Nat) : Bool := d.env.dead.contains (a / 4096)
/-- An MSI-X message sent. -/
def Dev.sendMsix (d : Dev) (v : Nat) : Dev := { d with env := { d.env with msix := d.env.msix ++ [v] } }

/-! ## Events -/

/-- The 64-byte record of R440 but for LOST and PHASE, which are set as it is written. -/
def evRecord (code : Nat) (ctx : Option CtxId) (redirected : Bool) (n lt payload : Nat) : Rec64 :=
  BitVec.ofNat 512 (packB [(0, code), (2, 2 * b2n ctx.isSome + 4 * b2n redirected),
    (3, match ctx with | none => 0 | some c => c.val), (4, n % 2 ^ 32), (8, lt % 2 ^ 64), (24, payload % 2 ^ 320)])

/-- LOST and PHASE of a record as it is written to a ring slot (R440). -/
def evFinish (rcd : Rec64) (lost : Nat) (phase : Bool) : Rec64 :=
  rcd + BitVec.ofNat 512 (packB [(2, b2n phase), (16, min lost (2 ^ 32 - 1))])

/-- PHASE of a free-running index in a ring of 2^k entries: 1 when bit k is 0 (R54, R80). -/
def phaseOf (idx : Word) (k : Nat) : Bool := !bitOf idx.toNat k

/-- Whether an event also goes out over MCTP (R444). -/
def toMctp (code : Nat) : Bool :=
  (9 ≤ code / 4096 && code / 4096 ≤ 0xD) || code = 0x2001 || code = 0x6003 || code = 0x6004 || code = 0x4002
    || code = 0x0002 || code = 0x5002

/-- The MCTP copy of an event (R444, R498): held while fewer than 64 are unread and announced by an In-Band
Interrupt, else discarded with its SEQ consumed. -/
def Dev.mctpPost (d : Dev) (code : Nat) (ctx : Option CtxId) (redirected : Bool) (payload : Nat) : Dev :=
  if toMctp code then
    let m := d.mc
    let rcd := evFinish (evRecord code ctx redirected m.posted d.lt payload) (m.posted - m.sent) true
    if m.unread.length < 64 then
      { d with
        mc := { m with unread := m.unread ++ [rcd], posted := m.posted + 1, sent := m.posted + 1 }
        env := { d.env with ibis := d.env.ibis + 1 } }
    else { d with mc := { m with posted := m.posted + 1 } }
  else d

/-- Free slots of a ring against the head word as last read (R84). -/
def Ring.room (r : Ring) : Nat := 2 ^ r.log2 - (r.widx - r.headSeen).toNat

/-- The ring after a record of count n has been written and its message is due or sent. -/
def Ring.advance (r : Ring) (n : Nat) : Ring := { r with widx := r.widx + 1, written := n + 1 }

/-- The address of the ring slot to be written next. -/
def Ring.slot (r : Ring) : Nat := r.base + (r.widx.toNat % 2 ^ r.log2) * 64

/-- MSI-X of an event ring: at most one message every 2 µs, the later one deferred to the interval's end (R443). -/
def Ring.message (r : Ring) (lt : Nat) : Ring × Bool :=
  match r.lastMsg with
  | none => ({ r with lastMsg := some lt, msgDue := false }, true)
  | some t => if lt < t + 200 then ({ r with msgDue := true }, false) else ({ r with lastMsg := some lt, msgDue := false }, true)

/-- The device event ring replaced. -/
def Dev.setDevRing (d : Dev) (r : Ring) : Dev := { d with hq := { d.hq with devRing := r } }

/-- What an attempt to write a record to a ring came to. -/
inductive Put where
  | done
  | full
  | fault (structure_ kind : Nat) (iova : Nat)

/-- A record of count n written to the device event ring, whose addresses are host addresses with no PASID (R88): the head
word is read before the last free slot is used (R84). -/
def Dev.devWrite (d : Dev) (n : Nat) (rcd : Rec64) : Dev × Put :=
  let r := d.hq.devRing
  let look := r.room ≤ 1
  if look && d.hostDead r.headAddr then (d, .fault 5 9 r.headAddr)
  else
    let r := if look then { r with headSeen := BitVec.ofNat 32 (d.hostNat r.headAddr 4) } else r
    if r.room = 0 then (d.setDevRing r, .full)
    else if d.hostDead r.slot then (d.setDevRing r, .fault 4 9 r.slot)
    else
      let d1 := d.hostWrite r.slot (bytesOf 64 (evFinish rcd (n - r.written) (phaseOf r.widx r.log2)))
      let (r', send) := (r.advance n).message d.lt
      let d2 := d1.setDevRing r'
      (if send then d2.sendMsix r.vec else d2, .done)

/-- A record that cannot be written now waits, at most 16 of them, or is discarded (R84). -/
def Ring.wait (r : Ring) (n : Nat) (rcd : Rec64) : Ring × Bool :=
  if r.waiting.length < 16 then ({ r with waiting := r.waiting ++ [(n, rcd)] }, true) else (r, false)

/-- QUEUE_XLT_FAULT's payload (R445). -/
def xltFaultPayload (unit structure_ kind iova : Nat) : Nat := packB [(0, unit), (2, structure_), (3, kind), (8, iova)]

/-- COUNTER_SATURATED's payload (R448). -/
def satPayload (cs : CtrSet) (i : Nat) : Nat :=
  match cs.ctrs[i]? with
  | none => 0
  | some (off, _) => packB [(0, off), (4, i)]

/-- An event posted on the device ring. The first argument bounds the events one posting can raise in turn: a saturated
event counter (R10) and a fault of the ring itself (R279). -/
def devPost : Nat → Nat → Option CtxId → Bool → Nat → Dev → Dev
  | 0, _, _, _, _, d => d
  | k + 1, code, ctx, redirected, payload, d =>
    let d := d.mctpPost code ctx redirected payload
    let (d, rose) := d.rawBump fltSet (code / 4096) 1
    let r := d.hq.devRing
    let n := r.posted
    let rcd := evRecord code ctx redirected n d.lt payload
    let d := d.setDevRing { r with posted := n + 1 }
    let d :=
      if r.stopped then d
      else
        let park (d : Dev) : Dev :=
          let (r', kept) := d.hq.devRing.wait n rcd
          if kept then d.setDevRing r'
          else
            let (d', rose) := d.rawBump fltSet 14 1
            if rose && d'.satEn fltSet then devPost k 1 none false (satPayload fltSet 14) d' else d'
        if !r.isSet || !d.on 94 || !r.waiting.isEmpty then park d
        else
          match d.devWrite n rcd with
          | (d', .done) => d'
          | (d', .full) => park d'
          | (d', .fault st kind iova) =>
            devPost k 0x5002 none false (xltFaultPayload 0xFFFF st kind iova)
              (d'.setDevRing { d'.hq.devRing with stopped := true })
    if rose && d.satEn fltSet then devPost k 1 none false (satPayload fltSet (code / 4096)) d else d

/-- An event of no context posted on the device ring. -/
def Dev.post (d : Dev) (code payload : Nat) : Dev := devPost 4 code none false payload d

/-- Counter i of a set advanced by n, with its COUNTER_SATURATED event (R9, R10, R448). -/
def Dev.bump (d : Dev) (cs : CtrSet) (i n : Nat) : Dev :=
  let (d, rose) := d.rawBump cs i n
  if rose && d.satEn cs then d.post 1 (satPayload cs i) else d

end Sys2Proof.Machine
end

