-- ==== Sys2Proof/Machine/Xlt.lean ====
section
/-!
DEFINITION. Sys2Proof/Machine/Xlt.lean: the granary's address map (R266, R267), translation trees and their caches (R273 to
R279), host pages through ATS and PRI (R276, R277), and events of contexts (R442), whose rings are translated.
-/
namespace Sys2Proof.Machine

/-! ## The granary's windows (R267) -/

/-- The group of a DPA. -/
def groupOf (dpa : Nat) : Nat := dpa / 2 ^ 37

/-- Bytes a group serves: 15.75 GiB a channel of its map. -/
def Group.bytes (g : Group) : Nat := g.map.length * 0x3F0000000

/-- A DPA in a hole, or outside the granary's 512 GiB (R267). -/
def Dev.hole (d : Dev) (dpa : Nat) : Bool :=
  2 ^ 39 ≤ dpa || (d.group (groupOf dpa)).bytes ≤ dpa % 2 ^ 37

/-- The channel and channel address of a DPA (R267). -/
def Dev.chanOf (d : Dev) (dpa : Nat) : Nat × Nat :=
  let g := d.group (groupOf dpa)
  let line := dpa % 2 ^ 37 / 256
  let n := g.map.length
  (g.map.getD (line % n) 0, line / n * 256 + dpa % 256)

/-- Addressable GiB × 4 of a group: 63 a channel of its map (R266). -/
def Group.cap (g : Group) : Nat := 63 * g.map.length

/-! ## Faults and results -/

/-- A translation fault (R278, R280): kind, whether a write, ACCESS bits 1 and 2, the level and the entry. -/
structure XFault where
  kind : Nat
  wr : Bool
  walk : Bool
  hostPage : Bool
  level : Nat
  entry : Nat
  deriving DecidableEq, Repr

/-- What a translation gives: a granary address with its PLACE and HOME_CORE, a host address, a fault, or a wait for a page
request (R277). -/
inductive Xl where
  | gran (dpa place home : Nat)
  | host (addr : Nat)
  | fault (f : XFault)
  | wait

/-- Which kind of agent reaches through the tree (R278): those confined to the granary, those that reach both, and the queue
front end, which reaches host memory only. -/
inductive Agent where
  | granary
  | both
  | front
  deriving DecidableEq

/-! ## The walk (R273, R274) -/

/-- Offset of XLT_CTX_CFG of a context (R296). -/
def offXltCfg (c : Nat) : Nat := 0xE1008 + 16 * c
/-- Offset of XLT_ROOT_HI of a context. -/
def offXltRoot (c : Nat) : Nat := 0xE1004 + 16 * c

/-- A leaf is malformed at a level (R274). The whole page is judged against the group's map, so that no address it maps lies
in a hole. -/
def Dev.leafBad (d : Dev) (e level : Nat) : Bool :=
  let kind := bits e 1 0
  let size := if level = 2 then 2 ^ 30 else 2 ^ 21
  if level = 3 then true
  else if kind = 2 then
    let dpa := fld (bits e 51 21) 21
    bits e 20 17 != 0 || bits e 63 52 != 0 || (level = 2 && bits e 29 21 != 0) || d.hole (dpa + size - 1) || d.hole dpa
      || bits e 5 4 = 3 || 1295 < bits e 16 6
  else bits e 63 4 != 0

/-- A walk below a table, from a level down: the leaf and its level, or a fault. -/
def Dev.walkAt (d : Dev) (iova : Nat) (wr : Bool) : Nat → Nat → Except XFault (Nat × Nat)
  | 0, _ => .error ⟨3, wr, false, false, 1, 0⟩
  | level + 1, table =>
    let lv := level + 1
    let ix := bits iova (12 + 9 * lv + 8) (12 + 9 * lv)
    let a := table + 8 * ix
    if d.hostDead a then .error ⟨9, wr, true, false, 0, 0⟩
    else
      let e := d.hostNat a 8
      match bits e 1 0 with
      | 0 => .error ⟨1, wr, false, false, lv, e⟩
      | 1 =>
        if lv = 1 || bits e 11 2 != 0 || bits e 63 52 != 0 then .error ⟨3, wr, false, false, lv, e⟩
        else d.walkAt iova wr level (fld (bits e 51 12) 12)
      | _ => if d.leafBad e lv then .error ⟨3, wr, false, false, lv, e⟩ else .ok (e, lv)

/-- The IOVA page number at a leaf's level. -/
def pageAt (iova level : Nat) : Nat := iova / 2 ^ (12 + 9 * level)

/-- A cached walk result for an address. -/
def findWalk (ws : List Walk) (c : CtxId) (iova : Nat) : Option Walk :=
  ws.find? (fun w => w.ctx = c && w.page = pageAt iova w.level)

/-- A list with an element added, one leaving when it is full; the manual names no order, so which leaves is a free value
(R275, R276, log 12). -/
def addCached {α : Type} (xs : List α) (cap pick : Nat) (x : α) : List α :=
  (if xs.length < cap then xs else xs.eraseIdx (pick % cap)) ++ [x]

/-- A walk result entered in the central cache and, for an agent of a cluster, in that cluster's (R275). -/
def Dev.cacheWalk (d : Dev) (cl : Option Nat) (w : Walk) (central : Bool) : Dev :=
  let (i, d) := d.takeFresh
  let pick := Config.cacheVictim i
  let d := if central then { d with mm := { d.mm with walks := addCached d.mm.walks 16384 pick w } } else d
  match cl with
  | none => d
  | some k =>
    { d with mm := { d.mm with clWalks := Tbl.set d.mm.clWalks k (addCached (Tbl.get d.mm.clWalks k []) 64 pick w) [] } }

/-- The leaf for an address: from the cluster's cache, the central cache, or a walk (R275). A context without a VALID root has none,
whatever the caches hold (R273). -/
def Dev.leaf (d : Dev) (c : CtxId) (cl : Option Nat) (iova : Nat) (wr : Bool) : Dev × Except XFault (Nat × Nat) :=
  if !bitOf (d.reg (offXltCfg c)).toNat 0 then (d, .error ⟨1, wr, true, false, 3, 0⟩)
  else
    let here := match cl with | none => [] | some k => Tbl.get d.mm.clWalks k []
    match findWalk here c iova with
    | some w => (d, .ok (w.leaf, w.level))
    | none =>
      match findWalk d.mm.walks c iova with
      | some w => (d.cacheWalk cl w false, .ok (w.leaf, w.level))
      | none =>
        let d := d.bump xltSet 0 1
        match d.walkAt iova wr 3 (d.wide64 (offXltRoot c)) with
        | .error f => (d, .error f)
        | .ok (e, lv) => (d.cacheWalk cl ⟨c, lv, pageAt iova lv, e⟩ true, .ok (e, lv))

/-! ## Host pages (R276, R277) -/

/-- The host's answer for a page of a PASID: identity with read and write unless the environment says otherwise (log 8). -/
def Dev.hostAnswer (d : Dev) (pasid : BitVec 20) (page : Nat) : HostPage :=
  Tbl.get d.env.pages (pasid.toNat * 2 ^ 52 + page) ⟨page, true, true⟩

/-- Whether a page answer allows an access. -/
def HostPage.allows (p : HostPage) (wr : Bool) : Bool := if wr then p.wr else p.rd

/-- Whether a page request for a page of a context is outstanding. -/
def Dev.priPending (d : Dev) (c : CtxId) (page : Nat) : Bool := d.mm.pri.any (fun p => p.ctx = c && p.page = page)

/-- The page request would be a Drill's second, the ninth of the rest, or the eighty-first of all (R277). -/
def Dev.priFull (d : Dev) (who : Issuer) : Bool :=
  80 ≤ d.mm.pri.length || (match who with
    | .drill cl => d.mm.pri.any (fun p => match p.who with | .drill k => k = cl | _ => false)
    | _ => 8 ≤ (d.mm.pri.filter (fun p => match p.who with | .drill _ => false | _ => true)).length)

/-- A page request sent, at most 80 outstanding: one for each Drill, and 8 for the firmware and the queue front end (R277). -/
def Dev.sendPri (d : Dev) (c : CtxId) (page : Nat) (who : Issuer) (wr : Bool) (iova : Nat) : Dev :=
  if d.priPending c page || d.priFull who then d
  else
    let d := d.bump xltSet 3 1
    { d with mm := { d.mm with pri := d.mm.pri ++ [⟨c, page, who, wr, d.lt, iova, true⟩] } }

/-- An access joins the page request outstanding for its page; one that a pre-emption had abandoned is waited for again where its own
issuer comes back to it (R283). -/
def Dev.joinPri (d : Dev) (c : CtxId) (page : Nat) (who : Option Issuer) : Dev :=
  { d with mm := { d.mm with pri := d.mm.pri.map (fun p =>
    if p.ctx = c && p.page = page && some p.who = who then { p with alive := true } else p) } }

/-- The device asks the host for a page through ATS and keeps an answer that grants the access in the ATC (R276). -/
def Dev.askAts (d : Dev) (pasid : BitVec 20) (page : Nat) (wr : Bool) : Dev × HostPage :=
  let d := d.bump xltSet 2 1
  let t := d.hostAnswer pasid page
  if t.allows wr then
    let (i, d) := d.takeFresh
    ({ d with mm := { d.mm with atc := addCached d.mm.atc 16384 (Config.cacheVictim i) ⟨pasid, page, t⟩ } }, t)
  else (d, t)

/-- A host page's address for an access (R276 to R278); an issuer that sends no page requests faults where another would wait. -/
def Dev.hostPage (d : Dev) (c : CtxId) (pasid : BitVec 20) (who : Option Issuer) (iova : Nat) (wr : Bool) : Dev × Xl :=
  let page := iova / 4096
  let bad (k : Nat) : Xl := .fault ⟨k, wr, false, true, 0, 0⟩
  let use (d : Dev) (t : HostPage) : Dev × Xl :=
    let a := t.target * 4096 + iova % 4096
    if d.hostDead a then (d, bad 9) else (d, .host a)
  if !d.env.ats then
    let t := d.hostAnswer pasid page
    if t.allows wr then use d t else (d, bad 9)
  else
    match d.mm.atc.find? (fun e => e.pasid = pasid && e.page = page && e.tr.allows wr) with
    | some e => use d e.tr
    | none =>
      if d.priPending c page then (d.joinPri c page who, .wait)
      else
        let (d, t) := d.askAts pasid page wr
        if t.allows wr then use d t
        else if bitOf (d.reg (offXltCfg c)).toNat 1 then
          match who with
          | none => (d, bad 6)
          | some w => (d.sendPri c page w wr iova, .wait)
        else (d, bad 6)

/-- One address translated for a context (R273 to R278): RANGE, then the walk, SPACE, PERMISSION and the host page in R278's
order. -/
def Dev.xlate (d : Dev) (c : CtxId) (cl : Option Nat) (ag : Agent) (who : Option Issuer) (iova : Nat) (wr : Bool) : Dev × Xl :=
  let failed (d : Dev) (f : XFault) : Dev × Xl := (d.bump xltSet 1 1, .fault f)
  if 2 ^ 48 ≤ iova then failed d ⟨4, wr, false, false, 0, 0⟩
  else
    match d.leaf c cl iova wr with
    | (d, .error f) => failed d f
    | (d, .ok (e, lv)) =>
      let isHost := bits e 1 0 = 3
      if (isHost && ag = .granary) || (!isHost && ag = .front) then failed d ⟨5, wr, false, false, lv, e⟩
      else if (wr && !bitOf e 3) || (!wr && !bitOf e 2) then failed d ⟨2, wr, false, false, lv, e⟩
      else if isHost then
        match d.hostPage c (d.ctx c).pasid who iova wr with
        | (d, .fault f) => failed d f
        | r => r
      else
        let size := if lv = 2 then 2 ^ 30 else 2 ^ 21
        (d, .gran (fld (bits e 51 21) 21 + iova % size) (bits e 5 4) (bits e 16 6))

/-! ## The queue front end in host memory (R278, R279) -/

/-- What a front-end access came to. -/
inductive Front (α : Type) where
  | ok (d : Dev) (x : α)
  | fault (d : Dev) (kind : Nat)
  | wait (d : Dev)

/-- n bytes read through a context's tree by the queue front end; they lie in one host page. -/
def Dev.frontRead (d : Dev) (c : CtxId) (who : Issuer) (iova n : Nat) : Front (List Byte) :=
  match d.xlate c none .front (some who) iova false with
  | (d, .host a) => .ok d (d.hostRead a n)
  | (d, .fault f) => .fault d f.kind
  | (d, _) => .wait d

/-- Bytes written through a context's tree by the queue front end; they lie in one host page. It sends a page request as its reads do,
out of the same 8 (R277, log 8). -/
def Dev.frontWrite (d : Dev) (c : CtxId) (who : Issuer) (iova : Nat) (bs : List Byte) : Front Unit :=
  match d.xlate c none .front (some who) iova true with
  | (d, .host a) => .ok (d.hostWrite a bs) ()
  | (d, .fault f) => .fault d f.kind
  | (d, _) => .wait d

/-! ## Events of contexts -/

/-- A context's ring replaced. -/
def Dev.setRing (d : Dev) (c : CtxId) (r : Ring) : Dev := d.modCtx c (fun x => { x with ring := r })

/-- A record of count n written to a context's event ring (R84, R440, R443). -/
def Dev.ctxWrite (d : Dev) (c : CtxId) (n : Nat) (rcd : Rec64) : Dev × Put :=
  let r := (d.ctx c).ring
  let write (d : Dev) (r : Ring) : Dev × Put :=
    if r.room = 0 then (d.setRing c r, .full)
    else
      match d.frontWrite c (.ring c 4) r.slot (bytesOf 64 (evFinish rcd (n - r.written) (phaseOf r.widx r.log2))) with
      | .fault d k => (d.setRing c r, .fault 4 k r.slot)
      | .wait d => (d.setRing c r, .full)
      | .ok d _ =>
        let (r', send) := (r.advance n).message d.lt
        let d := d.setRing c r'
        (if send then d.sendMsix r.vec else d, .done)
  if r.room ≤ 1 then
    match d.frontRead c (.ring c 5) r.headAddr 4 with
    | .fault d k => (d, .fault 5 k r.headAddr)
    | .wait d => (d, .full)
    | .ok d bs => write d { r with headSeen := BitVec.ofNat 32 (leNat bs) }
  else write d r

/-- Whether a context's ring is unusable (R442). -/
def Ctx.noRing (x : Ctx) : Bool := x.state = .free || x.ring.stopped || !x.ring.isSet

/-- An event of a context posted on the device ring with REDIRECTED set (R442). -/
def Dev.redirect (d : Dev) (c : CtxId) (code payload : Nat) : Dev := (devPost 4 code (some c) true payload d).bump fltSet 16 1

/-- A record that could not be written waits in the device or is discarded (R84). -/
def Dev.parkRecord (d : Dev) (c : CtxId) (n : Nat) (rcd : Rec64) : Dev :=
  let (r, kept) := (d.ctx c).ring.wait n rcd
  if kept then d.setRing c r else d.bump fltSet 14 1

/-- A context's ring stopped by a translation fault, with its QUEUE_XLT_FAULT (R279). -/
def Dev.stopRing (d : Dev) (c : CtxId) (st kind iova : Nat) : Dev :=
  (d.modCtx c (fun x => { x with ring := { x.ring with stopped := true } })).post 0x5002 (xltFaultPayload c st kind iova)

/-- An event posted on a context's ring, or on the device ring where that ring is unusable (R442). -/
def Dev.postCtx (d : Dev) (c : CtxId) (code payload : Nat) : Dev :=
  if (d.ctx c).noRing then d.redirect c code payload
  else
    let r := (d.ctx c).ring
    let n := r.posted
    let rcd := evRecord code (some c) false n d.lt payload
    let d := d.setRing c { r with posted := n + 1 }
    if !d.on 94 || !r.waiting.isEmpty then (d.parkRecord c n rcd).bump fltSet (code / 4096) 1
    else
      match d.ctxWrite c n rcd with
      | (d, .done) => d.bump fltSet (code / 4096) 1
      | (d, .full) => (d.parkRecord c n rcd).bump fltSet (code / 4096) 1
      | (d, .fault st k iova) => (d.stopRing c st k iova).redirect c code payload

end Sys2Proof.Machine
end

