-- ==== Sys2Proof/Machine/Parity.lean ====
section
/-!
DEFINITION. Sys2Proof/Machine/Parity.lean: the row and column parity block (R187, R284 to R288), stores kept with their check
bits, and the granary's channels (R266 to R268, R272, R285, R291) with the retirement of a channel (R268, R435 to R437).
-/
namespace Sys2Proof.Machine

/-! ## The parity block -/

/-- The 8 row and 64 column parities of a block: bits 7:0 and 71:8 (R187). -/
def checkOf (x : Rec64) : BitVec 72 :=
  let row (r : Nat) : Nat := (x.toNat / 2 ^ (64 * r)) % 2 ^ 64
  let rows := ((List.range 8).map (fun r => fld (ones (row r) 64 % 2) r)).sum
  let cols := (List.range 8).foldl (fun acc r => acc ^^^ row r) 0
  BitVec.ofNat 72 (rows + fld cols 8)

/-- The outcome of reading a block (R187, R285). -/
inductive Par where
  | clean
  | poisoned
  | data (row col : Nat)
  | check
  | bad
  deriving DecidableEq

/-- All 72 check bits set. -/
def allOnes72 : BitVec 72 := BitVec.ofNat 72 (2 ^ 72 - 1)

/-- The outcome from the data and the difference of the check bits, which is the pair of syndromes (R187); the poison marker
is looked for first (R285). -/
def classify (isZero : Bool) (syn : BitVec 72) : Par :=
  let sr := syn.toNat % 256
  let sc := syn.toNat / 256
  if isZero && syn = allOnes72 then .poisoned
  else
    match ones sr 8, ones sc 64 with
    | 0, 0 => .clean
    | 1, 1 => .data ((firstWhere (bitOf sr) 8).getD 0) ((firstWhere (bitOf sc) 64).getD 0)
    | 1, 0 => .check
    | 0, 1 => .check
    | _, _ => .bad

/-- 64 bytes of zero. -/
def zero64 : List Byte := List.replicate 64 0

/-- A poisoned block: zero data (R285). -/
def Blk.bad : Blk := ⟨zero64, true⟩

/-- The syndromes of a block of a store. -/
def Store.syn (s : Store) (b : Nat) : BitVec 72 := Tbl.get s.chk b 0

/-- The bytes of a block of a store. -/
def Store.block (s : Store) (b : Nat) : List Byte := Mem.read s.data (64 * b) 64

/-- The outcome of reading a block of a store. -/
def Store.par (s : Store) (b : Nat) : Par := classify ((Tbl.slice s.data (64 * b) 64).isEmpty) (s.syn b)

/-- The bytes of a block with one bit flipped. -/
def flipBit (bs : List Byte) (row col : Nat) : List Byte :=
  let i := 8 * row + col / 8
  bs.set i ((bs.getD i 0) ^^^ BitVec.ofNat 8 (2 ^ (col % 8)))

/-- A whole block written with valid check bits. -/
def Store.putBlock (s : Store) (b : Nat) (bs : List Byte) : Store :=
  ⟨Mem.write s.data (64 * b) bs, Tbl.erase s.chk b⟩

/-- The poison marker written (R285). -/
def Store.putPoison (s : Store) (b : Nat) : Store :=
  ⟨Tbl.cut s.data (64 * b) 64, Tbl.put s.chk b allOnes72⟩

/-- A block stored as it travels. -/
def Store.putBlk (s : Store) (b : Nat) (x : Blk) : Store := if x.poison then s.putPoison b else s.putBlock b x.bytes

/-- A correctable block corrected in place (R290, R291). -/
def Store.correct (s : Store) (b : Nat) (p : Par) : Store :=
  match p with
  | .data r c => s.putBlock b (flipBit (s.block b) r c)
  | .check => { s with chk := Tbl.erase s.chk b }
  | _ => s

/-- What a reader of a block receives. -/
def Store.readBlk (s : Store) (b : Nat) : Blk :=
  match s.par b with
  | .clean | .check => ⟨s.block b, false⟩
  | .data r c => ⟨flipBit (s.block b) r c, false⟩
  | .poisoned | .bad => Blk.bad

/-- Bytes at off within a block replaced. -/
def patch (bs : List Byte) (off : Nat) (new : List Byte) : List Byte := bs.take off ++ new ++ bs.drop (off + new.length)

/-- Bytes written inside one block: a whole block removes poison; a narrower write reads, merges and writes back, and leaves
a poisoned or uncorrectable block poisoned (R285, R288). -/
def Store.writeIn (s : Store) (b off : Nat) (bs : List Byte) : Store :=
  if bs.length = 64 then s.putBlock b bs
  else
    match s.par b with
    | .poisoned | .bad => s.putPoison b
    | _ => s.putBlock b (patch (s.readBlk b).bytes off bs)

/-- The pieces of a run of n bytes from address a that fall in one block each: (block, offset, start in the run, length). -/
def blockPieces (a n : Nat) : List (Nat × Nat × Nat × Nat) :=
  if n = 0 then []
  else
    (List.range ((a + n - 1) / 64 + 1 - a / 64)).map (fun i =>
      let b := a / 64 + i
      let lo := max a (64 * b)
      let hi := min (a + n) (64 * b + 64)
      (b, lo - 64 * b, lo - a, hi - lo))

/-- Bytes written at an address. -/
def Store.write (s : Store) (a : Nat) (bs : List Byte) : Store :=
  (blockPieces a bs.length).foldl (fun s p => s.writeIn p.1 p.2.1 ((bs.drop p.2.2.1).take p.2.2.2)) s

/-- Bytes read at an address, poisoned blocks as zeros, with the list of the blocks that were poisoned or uncorrectable. -/
def Store.read (s : Store) (a n : Nat) : List Byte × List Nat :=
  (blockPieces a n).foldl (fun r p =>
    let x := s.readBlk p.1
    (r.1 ++ (x.bytes.drop p.2.1).take p.2.2.2, if x.poison then r.2 ++ [p.1] else r.2)) ([], [])

/-- Upsets strike a block. -/
def Store.strike (s : Store) (b : Nat) (u : Upset) : Store :=
  let x := BitVec.ofNat 512 (leNat (s.block b)) ^^^ u.data
  ⟨Mem.write s.data (64 * b) (bytesOf 64 x), Tbl.set s.chk b (s.syn b ^^^ checkOf u.data ^^^ u.check) 0⟩

/-- A store cleared to zero. -/
def Store.zero : Store := ⟨[], []⟩

/-! ## Retirement and the floor plan (R43, R435 to R437) -/

/-- The state of a granary channel in the floor plan (R41). -/
def Dev.chanState (d : Dev) (n : Nat) : Nat := Tbl.get d.fl.chans n 0
/-- The state of a port in the floor plan. -/
def Dev.portState (d : Dev) (n : Nat) : Nat := Tbl.get d.fl.ports n 0
/-- GLB_FP_CORE of a core (R42). -/
def Dev.coreEntry (d : Dev) (n : Nat) : Word := Tbl.get d.fl.cores n 0
/-- A core is GOOD (R42). -/
def Dev.coreGood (d : Dev) (n : Nat) : Bool := bits (d.coreEntry n).toNat 1 0 = 0

/-- The service section written: the copy of the older generation becomes the newest, with the retirements that could not be recorded
before (R44, R472). -/
def Floor.write (f : Floor) (g : RecordCopy → RecordCopy) : Floor :=
  { f with older := f.cur, cur := g { f.cur with gen := f.cur.gen + 1, list := f.cur.list ++ f.kept }, kept := [] }

/-- The record takes writes: FLASH_WP_N is high, and the stored record is not one that awaits a gate request (R463, R494). -/
def Floor.writable (f : Floor) : Bool := f.wpn && !f.noRecord

/-- A retirement noted in the package record, or kept in the always-on domain while the record cannot be written (R44). -/
def Floor.note (f : Floor) (kind unit a b : Nat) : Floor :=
  if f.writable then f.write (fun c => { c with list := c.list ++ [(kind, unit, a, b)] }) else { f with kept := f.kept ++ [(kind, unit, a, b)] }

/-- The floor plan changed as one update: entries first, then GLB_FP_SEQ advances (R43). Channels that failed their training are
reported DEFECT with it (R466). -/
def Dev.fpUpdate (d : Dev) (f : Floor → Floor) : Dev :=
  let fl := f d.fl
  { d with fl := { fl with
      chans := fl.due.foldl (fun t n => if Tbl.get t n 0 = 0 then Tbl.set t n 1 0 else t) fl.chans
      due := []
      seq := fl.seq + 1 } }

/-- FLOOR_PLAN_CHANGED posted and FLT_LAST_RETIRE written (R437). -/
def Dev.fpChanged (d : Dev) (kind unit lane : Nat) : Dev :=
  let d := d.post 2 (packB [(0, d.fl.seq.toNat), (4, kind), (6, unit), (8, lane)])
  { d with fl := { d.fl with last := BitVec.ofNat 32 (kind + fld lane 4 + fld unit 16), lastLt := d.lt } }

/-- A granary channel retired (R268, R437): floor plan, group DEGRADED, CHANNEL_RETIRED, FLOOR_PLAN_CHANGED. The group's map
does not change. -/
def Dev.retireChannel (d : Dev) (n : Nat) : Dev :=
  if d.chanState n = 2 then d
  else
    let g := n / 6
    let d := d.fpUpdate (fun f => { f with chans := Tbl.set f.chans n 2 0 }.note 4 n 0 0)
    let d := d.modGroup g (fun x => if x.state = .active then { x with state := .degraded } else x)
    let left := ((d.group g).map.filter (fun c => d.chanState c != 2)).length
    let d := d.post 0x4002 (packB [(0, n), (1, g), (2, 63), (4, 63 * left)])
    d.fpChanged 4 n 0

/-! ## Blocks of the granary -/

/-- What an unwritten byte of a DPA holds: 0 after the zero fill (R467), a free byte where the contents are undefined. -/
def Dev.granDflt (d : Dev) (a : Nat) : Byte :=
  match (d.group (groupOf a)).epoch with
  | 0 => 0
  | e => Config.freeByte e a

/-- Bytes of the granary by DPA, without the parity check. -/
def Dev.granBytes (d : Dev) (a n : Nat) : List Byte :=
  (List.range n).map (fun i => Mem.byte d.mm.gran.data (a + i) ^^^ d.granDflt (a + i))

/-- The granary store replaced. -/
def Dev.setGran (d : Dev) (s : Store) : Dev := { d with mm := { d.mm with gran := s } }

/-- A block written to the granary with valid check bits, or as the poison marker. -/
def Dev.granPut (d : Dev) (b : Nat) (x : Blk) : Dev :=
  let bs := (List.range 64).map (fun i => x.bytes.getD i 0 ^^^ d.granDflt (64 * b + i))
  let s := d.mm.gran.putBlock b bs
  d.setGran (if x.poison then { s with chk := Tbl.put s.chk b allOnes72 } else s)

/-- The outcome of reading a block of the granary. -/
def Dev.granPar (d : Dev) (b : Nat) : Par :=
  classify ((d.granBytes (64 * b) 64).all (fun x => x = 0)) (d.mm.gran.syn b)

/-- A group serves requests: its domain and spine are on, it is trained and filled, and it is not in self-refresh (R35, R269,
R467). -/
def Dev.groupServes (d : Dev) (g : Nat) : Bool :=
  d.admits (84 + g) && ((d.group g).state = .active || (d.group g).state = .degraded)

/-- Requests between halves cross a bridge segment (R26). Half 2 stands for the firmware and for agents of the host interface, which meet
both halves (log 46). -/
def Dev.bridged (d : Dev) (h h' : Nat) : Bool := 2 ≤ h || h = h' || d.admits 92 || d.admits 93

/-- The UNC_LIMIT of GRN_RET_CFG (R268). -/
def Dev.uncLimit (d : Dev) : Nat := bits (d.reg 0xC000C).toNat 7 0

/-- An uncorrectable granary block counted and reported; its channel retires when the tally exceeds UNC_LIMIT (R268, R290).
A tally holds at 0xFFFF (R450). -/
def Dev.granUnc (d : Dev) (b : Nat) : Dev :=
  let (n, cadr) := d.chanOf (64 * b)
  let d := d.bump (grnSet n) 1 1
  let d := d.post 0x4001 (packB [(0, n), (8, cadr), (16, 64 * b)])
  let t := satAdd 16 (d.chan n).tally 1
  let d := d.modChan n (fun c => { c with tally := t })
  if d.uncLimit < t then d.retireChannel n else d

/-- A correctable block corrected and written back in the granary (R291). -/
def Dev.granCorrect (d : Dev) (b : Nat) (p : Par) : Dev :=
  match p with
  | .data r c => d.granPut b ⟨flipBit (d.granBytes (64 * b) 64) r c, false⟩
  | .check => d.setGran { d.mm.gran with chk := Tbl.erase d.mm.gran.chk b }
  | _ => d

/-- A correction under a write hold is kept by the Glean engine of its half or group, at most 64 of them (R257, R272, R290). -/
def Dev.deferFix (d : Dev) (e a : Nat) : Dev :=
  d.modGlean e (fun g => if g.deferred.length < 64 && !g.deferred.contains a then { g with deferred := g.deferred ++ [a] } else g)

/-- The block that waits newest in a channel's queue for an address (R272). -/
def Dev.queuedAt (d : Dev) (b : Nat) : Option Blk := (d.mm.queued.filter (fun e => e.1 = b)).getLast?.map (·.2)

/-- A block of a DPA read from its channel, with the outcome's effects; true when the channel is retired (R268, R436). A
correction in a channel under write hold is deferred, and a write that waits there is read from the queue (R272). -/
def Dev.granRead (d : Dev) (b : Nat) : Dev × Blk × Bool :=
  let (n, _) := d.chanOf (64 * b)
  let fix (p : Par) (bs : List Byte) : Dev × Blk × Bool :=
    let d := d.bump (grnSet n) 0 1
    (if (d.chan n).hold then d.deferFix (2 + n / 6) (64 * b) else d.granCorrect b p, ⟨bs, false⟩, false)
  if d.chanState n = 2 then (d.bump (grnSet n) 3 1, Blk.bad, true)
  else
    match d.queuedAt b with
    | some x => (d, x, false)
    | none =>
      let bs := d.granBytes (64 * b) 64
      match d.granPar b with
      | .clean => (d, ⟨bs, false⟩, false)
      | .poisoned => (d, Blk.bad, false)
      | .data r c => fix (.data r c) (flipBit bs r c)
      | .check => fix .check bs
      | .bad => (d.granUnc b, Blk.bad, false)

/-- A write to a channel under write hold counted (R272). -/
def Dev.heldChan (d : Dev) (n : Nat) : Dev := (d.bump (grnSet n) 2 1).modChan n (fun c => { c with held := c.held + 1 })

/-- A block written to its channel: a write to a retired channel is discarded and counted (R268), one to a channel under write hold
waits in its queue and is counted (R272). -/
def Dev.granWrite (d : Dev) (b : Nat) (x : Blk) : Dev × Bool :=
  let (n, _) := d.chanOf (64 * b)
  if d.chanState n = 2 then (d.bump (grnSet n) 3 1, true)
  else if (d.chan n).hold then
    let d := d.heldChan n
    ({ d with mm := { d.mm with queued := d.mm.queued ++ [(b, x)] } }, false)
  else (d.granPut b x, false)

/-- The writes that wait in a channel's queue performed, oldest first, as its hold ends (R272). -/
def Dev.flushQueue (d : Dev) (n : Nat) : Dev :=
  let here (e : Nat × Blk) : Bool := (d.chanOf (64 * e.1)).1 = n
  let d1 : Dev := { d with mm := { d.mm with queued := d.mm.queued.filter (fun e => !here e) } }
  (d.mm.queued.filter here).foldl (fun d e => d.granPut e.1 e.2) d1

/-- Requests outstanding at a group: what waits in its channels' queues, and the write-backs that wait for them (R271, R272). -/
def Dev.groupOut (d : Dev) (g : Nat) : Nat :=
  (d.mm.queued.filter (fun e => groupOf (64 * e.1) = g)).length
    + (d.mm.heldWr.filter (fun e => 2 ^ 32 ≤ e.1 && groupOf e.2 = g)).length

/-- A group has its 2,048 requests outstanding (R271). -/
def Dev.groupFull (d : Dev) (g : Nat) : Bool := 2048 ≤ d.groupOut g

end Sys2Proof.Machine
end

