-- ==== Sys2Proof/Machine/Llc.lean ====
section
/-!
DEFINITION. Sys2Proof/Machine/Llc.lean: the stacked cache: placement (R233, R235, R236), sectors and encodings (R238, R239),
replacement (R240), fallow checks (R252 to R254), write holds (R257), corrections and way-pair retirement (R258, R259), and the
reads and writes of a 128-byte sector that every agent's traffic comes down to.
-/
namespace Sys2Proof.Machine

/-! ## Placement -/

/-- A row that carries bridge links instead of a slice column in columns 17 and 18 (R233). -/
def bridgeRow (r : Nat) : Bool := (7 ≤ r && r ≤ 10) || (25 ≤ r && r ≤ 28)

/-- A core's half, home slice and whether the column is its neighbour's (R233). -/
def homeOf (core : Nat) : Nat × Nat × Bool :=
  let row := core / 36
  let col := core % 36
  let half := col / 18
  let shared := bridgeRow row && (col = 17 || col = 18)
  let c := (if shared then (if col = 17 then 16 else 19) else col) - 18 * half
  let b := ((List.range row).filter bridgeRow).length + (if half = 1 && bridgeRow row then 1 else 0)
  (half, 18 * row + c - b, shared)

/-- Half, slice and set of logical line L under a placement (R236). -/
def locOf (place home num : Nat) : Nat × Nat × Nat :=
  if place = 2 then
    let (h, s, _) := homeOf home
    (h, s, (num ^^^ (num / 2048)) % 2048)
  else (place, num % 640, ((num / 640) ^^^ (num / 1310720)) % 2048)

/-- The key of a set. -/
def setKey (h s x : Nat) : Nat := (h * 640 + s) * 2048 + x

/-! ## Layers, pairs, holds -/

/-- The layer of a way pair, 1 to 4 (R234). -/
def layerOf (pair : Nat) : Nat := pair / 2 + 1

/-- The bit of a layer-half in LLC_HOLD and LLC_LAYER_ON (R262), and its domain less 72 (R28). -/
def lhBit (layer h : Nat) : Nat := 2 * (layer - 1) + h

/-- A layer-half is in service: powered, and not being powered off, for which its lines have been written back and invalidated (R32). -/
def Dev.layerOn (d : Dev) (layer h : Nat) : Bool := d.admits (72 + lhBit layer h)

/-- A layer-half is under write hold (R257). -/
def Dev.layerHeld (d : Dev) (layer h : Nat) : Bool := bitOf d.mm.hold (lhBit layer h)

/-- A way pair has been retired (R259). -/
def Dev.pairRetired (d : Dev) (h s x pair : Nat) : Bool :=
  (d.half h).ret.any (fun e => e.slice = s && e.set = x && e.pair = pair)

/-- A way pair is in service. -/
def Dev.pairOn (d : Dev) (h s x pair : Nat) : Bool := d.layerOn (layerOf pair) h && !d.pairRetired h s x pair

/-- Ways in service in a half: 4 a layer (R32, R248). -/
def Dev.ways (d : Dev) (h : Nat) : Nat := 4 * ((List.range 4).filter (fun k => d.layerOn (k + 1) h)).length

/-- PIN_WAYS of a half (R248). -/
def Dev.pinWays (d : Dev) (h : Nat) : Nat := (d.ways h * bits (d.reg (0xA0100 + 0x100 * h)).toNat 6 0 / 100) / 2 * 2

/-! ## Lines -/

/-- A line lies in a set. -/
def Line.inSet (l : Line) (h s x : Nat) : Bool := l.half = h && l.slice = s && l.set = x

/-- The lines of a set. -/
def Dev.setLines (d : Dev) (h s x : Nat) : List Line := d.mm.lines.filter (fun l => l.inSet h s x)

/-- The resident line of number L in a set. -/
def Dev.findLine (d : Dev) (h s x num : Nat) : Option Line := d.mm.lines.find? (fun l => l.inSet h s x && l.num = num)

/-- Two lines are the same resident line. -/
def Line.same (l m : Line) : Bool := l.num = m.num && l.half = m.half && l.slice = m.slice && l.set = m.set

/-- A line put in the cache in place of itself. -/
def Dev.putLine (d : Dev) (l : Line) : Dev :=
  { d with mm := { d.mm with lines := d.mm.lines.filter (fun m => !m.same l) ++ [l] } }

/-- A line removed from the cache. -/
def Dev.dropLine (d : Dev) (l : Line) : Dev := { d with mm := { d.mm with lines := d.mm.lines.filter (fun m => !m.same l) } }

/-- A line's pair. -/
def Line.pair (l : Line) : Nat := l.way / 2

/-- A line occupies a way. -/
def Line.uses (l : Line) (way : Nat) : Bool := if l.two then l.way / 2 = way / 2 else l.way = way

/-- The encoding that fits a line's 256 bytes when both sectors are valid and it is not pinned (R239). -/
def encodingOf (bs : List Byte) : Nat :=
  let nzB := (bs.filter (fun b => b != 0)).length
  let nzH := ((List.range 128).filter (fun i => bs.getD (2 * i) 0 != 0 || bs.getD (2 * i + 1) 0 != 0)).length
  if nzB = 0 then 1 else if nzH ≤ 56 then 2 else if nzB ≤ 96 then 3 else 0

/-- The one way of a sparse line: a bit for each element of w bytes, then the non-zero elements in ascending order (R239). -/
def sparseWay (w : Nat) (bs : List Byte) : List Byte :=
  let el (i : Nat) : List Byte := (List.range w).map (fun k => bs.getD (w * i + k) 0)
  let on := (List.range (256 / w)).filter (fun i => (el i).any (fun b => b != 0))
  let out := natLe (32 / w) ((on.map (2 ^ ·)).sum) ++ on.flatMap el
  (out ++ List.replicate 128 0).take 128

/-- The elements of a sparse way from element i on: those of the bit map from the bytes, the others zero. -/
def sparseFill (w map : Nat) : Nat → Nat → List Byte → List Byte
  | 0, _, _ => []
  | n + 1, i, bs =>
    if bitOf map i then (bs ++ List.replicate w 0).take w ++ sparseFill w map n (i + 1) (bs.drop w)
    else List.replicate w 0 ++ sparseFill w map n (i + 1) bs

/-- The 256 bytes of a sparse line. -/
def sparseLine (w : Nat) (way : List Byte) : List Byte := sparseFill w (leNat (way.take (32 / w))) (256 / w) 0 (way.drop (32 / w))

/-- A store of the bytes of a line or way, with valid check bits. -/
def Store.ofBytes (bs : List Byte) : Store := ⟨Mem.ofBytes 0 bs, []⟩

/-- The blocks of the one way that an encoding gives a line's 256 bytes. -/
def encodeWay (e : Nat) (bs : List Byte) : Store :=
  if e = 1 then Store.zero else Store.ofBytes (sparseWay (if e = 2 then 2 else 1) bs)

/-- The four blocks of a line as its readers see them: those of its ways, or what its encoding stands for; a way with a block that is
poisoned or uncorrectable gives poison throughout. -/
def Line.plain (l : Line) : Store :=
  if l.enc = 0 then l.st
  else if l.enc = 1 then Store.zero
  else
    let b0 := l.st.readBlk 0
    let b1 := l.st.readBlk 1
    if b0.poison || b1.poison then (List.range 4).foldl Store.putPoison Store.zero
    else Store.ofBytes (sparseLine (if l.enc = 2 then 2 else 1) (b0.bytes ++ b1.bytes))

/-- A line with its blocks laid out one by one, as a write or fill finds them. -/
def Line.raw (l : Line) : Line := { l with enc := 0, st := l.plain }

/-- The encoding of a line with both sectors valid: a poisoned or uncorrectable block has none, so the line stays RAW (log 47). -/
def Store.encoding (st : Store) : Nat :=
  if (List.range 4).any (fun i => (st.readBlk i).poison) then 0 else encodingOf ((List.range 4).flatMap (fun i => (st.readBlk i).bytes))

/-- A line's encoding after a fill or write, what its way then holds, and whether it needs both ways (R234, R239). -/
def Line.recode (l : Line) : Line :=
  let l := l.raw
  if l.pin then { l with two := true }
  else if l.valid = 3 then
    let e := l.st.encoding
    { l with
      enc := e
      two := e = 0
      st := if e = 0 then l.st else encodeWay e ((List.range 4).flatMap (fun i => (l.st.readBlk i).bytes)) }
  else { l with two := false }

/-- The blocks of a line's ways that a read of a sector needs. -/
def Line.phys (l : Line) (sec : Nat) : List Nat := if l.enc = 0 then [2 * sec, 2 * sec + 1] else if l.enc = 1 then [] else [0, 1]

/-- The valid blocks of a line's ways. -/
def Line.held (l : Line) : List Nat := if l.enc = 0 then (List.range 4).filter (fun i => bitOf l.valid (i / 2)) else [0, 1]

/-- The way that holds a block. -/
def Line.wayOf (l : Line) (block : Nat) : Nat := if l.two then l.way / 2 * 2 + block / 2 else l.way

/-! ## Fallow ranges (R252, R253) -/

/-- A byte range lies in part in a fallow entry. -/
def RangeEntry.hits (e : RangeEntry) (a n : Nat) : Bool := e.base < a + n && a < e.base + 256 * e.lines

/-- The fallow entries of a half that contain a byte of a range. -/
def Dev.fallowAt (d : Dev) (h a n : Nat) : List RangeEntry := ((d.half h).fallow.map (·.2)).filter (fun e => e.hits a n)

/-- A write re-sows: every entry that contains a byte of it is removed (R254). -/
def Dev.resow (d : Dev) (h a n : Nat) : Dev :=
  d.modHalf h (fun x => { x with fallow := x.fallow.filter (fun e => !e.2.hits a n) })

/-! ## Write-back (R238, R252) -/

/-- The two blocks of a sector of a line, as they travel. -/
def Line.blk (l : Line) (i : Nat) : Blk := l.plain.readBlk i

/-- A sector of a line written back to its channel: two blocks (R238). A group that does not serve discards them (R27). -/
def Dev.wbSector (d : Dev) (l : Line) (sec : Nat) : Dev :=
  let a := 256 * l.num + 128 * sec
  if (d.fallowAt l.half a 128).isEmpty then
    let d := d.bump (llcSet l.half) 2 1
    if d.groupServes (groupOf a) then
      ((d.granWrite (a / 64) (l.blk (2 * sec))).1.granWrite (a / 64 + 1) (l.blk (2 * sec + 1))).1
    else d
  else d.bump (llcSet l.half) 4 1

/-- The dirty sectors of a line written back, or dropped where they are fallow (R252). -/
def Dev.writeBack (d : Dev) (l : Line) : Dev :=
  let d := if bitOf l.dirty 0 then d.wbSector l 0 else d
  if bitOf l.dirty 1 then d.wbSector l 1 else d

/-- The blocks of a line's ways that its write-back reads. -/
def Dev.wbReads (d : Dev) (l : Line) : List Nat :=
  (([0, 1].filter (fun sec => bitOf l.dirty sec && (d.fallowAt l.half (256 * l.num + 128 * sec) 128).isEmpty)).flatMap l.phys).eraseDups

/-- Writing back a line would wait for a channel under write hold (R272). -/
def Dev.wbHeld (d : Dev) (l : Line) : Bool :=
  let n := (d.chanOf (256 * l.num)).1
  l.dirty != 0 && (d.chan n).hold && d.chanState n != 2 && (d.fallowAt l.half (256 * l.num) 256).isEmpty

/-- A write that a hold keeps waiting, counted once for each issuer and address (R257, R272): the key names the issuer. -/
def Dev.holdWrite (d : Dev) (key a : Nat) (count : Dev → Dev) : Dev :=
  if d.mm.heldWr.contains (key, a) then d
  else
    let d := count d
    { d with mm := { d.mm with heldWr := d.mm.heldWr ++ [(key, a)] } }

/-- Write-backs that wait for their channels, each counted once (R272): under keys from 2^32. -/
def Dev.heldBacks (d : Dev) (ls : List Line) : Dev :=
  ls.foldl (fun d l => d.holdWrite (2 ^ 32) (256 * l.num) (fun d => d.heldChan (d.chanOf (256 * l.num)).1)) d

/-- The issuer of a request whose write-backs must wait: they enter their channels' queues and it counts THERMAL_WRITE_HOLD, or, at the
bound of R271, TAG_EXHAUSTED. -/
def Dev.waitBacks (d : Dev) (ls : List Line) : Dev × Nat :=
  if ls.any (fun l => !d.mm.heldWr.contains (2 ^ 32, 256 * l.num) && d.groupFull (groupOf (256 * l.num))) then (d, 10) else (d.heldBacks ls, 6)

/-! ## Replacement (R240) -/

/-- A pair is eligible for replacement (R240). -/
def Dev.eligible (d : Dev) (h s x pair : Nat) : Bool :=
  d.pairOn h s x pair && !d.layerHeld (layerOf pair) h
    && !((d.setLines h s x).any (fun l => l.pin && l.pair = pair))

/-- The pair tree pseudo-LRU selects among the eligible ones: node bits 0 to 6, a set bit pointing at the upper half; a node
whose side holds no eligible pair takes the other (log 7). -/
def plruPick (tree : Nat) (ok : Nat → Bool) : Option Nat :=
  let any (lo n : Nat) : Bool := (List.range n).any (fun i => ok (lo + i))
  if !any 0 8 then none
  else
    let side (node lo n : Nat) : Nat :=
      if bitOf tree node then (if any (lo + n) n then 1 else 0) else (if any lo n then 0 else 1)
    let a := side 0 0 4
    let b := side (1 + a) (4 * a) 2
    let c := side (3 + 2 * a + b) (4 * a + 2 * b) 1
    some (4 * a + 2 * b + c)

/-- The tree after an access to entry p of 8: its three nodes point away from it. -/
def touchTree (t p : Nat) : Nat :=
  let a := p / 4
  let b := p / 2 % 2
  let t := putBits t 0 0 (1 - a)
  let t := putBits t (1 + a) (1 + a) (1 - b)
  putBits t (3 + 2 * a + b) (3 + 2 * a + b) (1 - p % 2)

/-- The recency word of a set after an access to a way: the tree points away from its pair, the pair's bit at the other way. -/
def touchWord (t way : Nat) : Nat := putBits (touchTree t (way / 2)) (7 + way / 2) (7 + way / 2) (1 - way % 2)

/-- A way used. -/
def Dev.touch (d : Dev) (h s x way : Nat) : Dev :=
  let k := setKey h s x
  { d with mm := { d.mm with lru := Tbl.set d.mm.lru k (touchWord (Tbl.get d.mm.lru k 0) way) 0 } }

/-- A way for a line that needs one: an invalid way of an eligible pair, else the less recent way of the selected pair
(R240). -/
def Dev.pickWay (d : Dev) (h s x : Nat) : Option Nat :=
  let ls := d.setLines h s x
  match firstWhere (fun w => d.eligible h s x (w / 2) && !ls.any (fun l => l.uses w)) 16 with
  | some w => some w
  | none =>
    let t := Tbl.get d.mm.lru (setKey h s x) 0
    (plruPick t (d.eligible h s x)).map (fun p => 2 * p + (if bitOf t (7 + p) then 1 else 0))

/-- The occupants of a way, or of a whole pair. -/
def Dev.occupants (d : Dev) (h s x way : Nat) (whole : Bool) : List Line :=
  (d.setLines h s x).filter (fun l => if whole then l.pair = way / 2 else l.uses way)

/-! ## Corrections and way-pair retirement (R258, R259) -/

/-- How a way pair is retired: half, slice, set, pair, cause. -/
abbrev Retire := Dev → Nat → Nat → Nat → Nat → Nat → Dev

/-- A corrected way entered in the watch table; a second correction within 24 h retires the pair (R258, R259). -/
def Dev.watchWith (retire : Retire) (d : Dev) (h s x way : Nat) : Dev :=
  let k := setKey h s x
  let again := (d.half h).watch.any (fun e => e.1 = k && e.2.1 / 2 = way / 2 && d.lt ≤ e.2.2 + 8640000000000)
  let d := d.modHalf h (fun y =>
    { y with watch := (if y.watch.length < 256 then y.watch else y.watch.drop 1) ++ [(k, way, d.lt)] })
  if again then retire d h s x (way / 2) 1 else d

/-- The outcome of a block of a line's ways counted, watched and reported (R258); an uncorrectable block retires its pair (R259). -/
def Dev.noteWith (retire : Retire) (d : Dev) (l : Line) (i : Nat) : Dev :=
  let w := l.wayOf i
  match l.st.par i with
  | .clean => d
  | .poisoned => d
  | .bad =>
    let d := d.bump (llcSet l.half) 8 1
    let d := d.post 0x3003 (packB [(0, l.half), (1, layerOf (w / 2)), (2, l.slice), (4, l.set), (6, w)])
    retire d l.half l.slice l.set (w / 2) 2
  | _ => (d.bump (llcSet l.half) 7 1).watchWith retire l.half l.slice l.set w

/-- A line evicted: written back, removed, and what its write-back read noted. -/
def Dev.evictWith (retire : Retire) (d : Dev) (l : Line) : Dev :=
  (d.wbReads l).foldl (fun d i => d.noteWith retire l i) ((d.writeBack l).dropLine l)

/-- A pinned line of a retiring pair moves to another pair in service and not pinned, evicting it; else it is written back and
its entry marked LOST (R259). -/
def Dev.movePinned (retire : Retire) (d : Dev) (l : Line) : Dev × Bool :=
  let ok (p : Nat) : Bool := p != l.pair && d.pairOn l.half l.slice l.set p
    && !((d.setLines l.half l.slice l.set).any (fun m => m.pin && m.pair = p))
  match plruPick (Tbl.get d.mm.lru (setKey l.half l.slice l.set) 0) ok with
  | some p =>
    let d := (d.occupants l.half l.slice l.set (2 * p) true).foldl (Dev.evictWith retire) d
    (d.putLine { l with way := 2 * p }, false)
  | none =>
    let d := d.evictWith retire l
    (d.modHalf l.half (fun x => { x with pins := x.pins.map (fun e =>
      if e.2.hits (256 * l.num) 256 then (e.1, { e.2 with flag := true }) else e) }), true)

/-- A way pair retired (R259): its lines written back and invalidated, pinned lines moved, the list entered, LLC_RET_SEQ and
LINE_RETIRED. A full list keeps the pair in service. The write-backs may find errors that retire further pairs of the set: the first
argument bounds how many. -/
def Dev.retireN : Nat → Retire
  | 0, d, _, _, _, _, _ => d
  | n + 1, d, h, s, x, pair, cause =>
    if d.pairRetired h s x pair then d
    else if 1024 ≤ (d.half h).ret.length then (d.bump (llcSet h) 11 1).post 0x3006 h
    else
      let ls := (d.setLines h s x).filter (fun l => l.pair = pair)
      let d := d.modHalf h (fun y =>
        { y with
          retSeq := y.retSeq + 1
          ret := y.ret ++ [RetEntry.mk s x pair 3 (y.retSeq + 1)]
          watch := y.watch.filter (fun e => !(e.1 = setKey h s x && e.2.1 / 2 = pair)) })
      let seq := (d.half h).retSeq
      let (d, lost) := ls.foldl (fun r l =>
        if l.pin then (let (d, b) := r.1.movePinned (Dev.retireN n) l; (d, r.2 || b)) else (r.1.evictWith (Dev.retireN n) l, r.2)) (d, false)
      let d := { d with fl := d.fl.note 5 h (setKey h s x) pair }
      d.post 0x3002 (packB [(0, h), (1, layerOf pair), (2, s), (4, x), (6, pair), (7, cause), (8, b2n lost), (12, seq.toNat)])

/-- A way pair retired; a set has 8. -/
def Dev.retirePair : Retire := Dev.retireN 8

/-- A line evicted. -/
def Dev.evict (d : Dev) (l : Line) : Dev := d.evictWith Dev.retirePair l

/-- The outcome of a block of a line's ways noted. -/
def Dev.note (d : Dev) (l : Line) (i : Nat) : Dev := d.noteWith Dev.retirePair l i

/-- A line with a block of its ways corrected in place, or made the poison marker where it was uncorrectable. -/
def Line.mend (l : Line) (i : Nat) : Line :=
  match l.st.par i with
  | .bad => { l with st := l.st.putPoison i }
  | p => { l with st := l.st.correct i p }

/-- A block of a resident line's ways read: a correction is written back, or deferred under a write hold (R257, R258). -/
def Dev.wayBlock (d : Dev) (l : Line) (i : Nat) : Dev :=
  match l.st.par i with
  | .clean => d
  | .poisoned => d
  | .bad => (d.putLine (l.mend i)).note l i
  | _ =>
    (if d.layerHeld (layerOf (l.wayOf i / 2)) l.half then d.deferFix l.half (256 * l.num + 64 * i) else d.putLine (l.mend i)).note l i

/-- Blocks of a resident line's ways read, while the line is still there. -/
def Dev.wayBlocks (d : Dev) (l : Line) (is : List Nat) : Dev :=
  is.foldl (fun d i =>
    match d.findLine l.half l.slice l.set l.num with
    | some l => d.wayBlock l i
    | none => d) d

/-- A line's dirty sectors of a list written back with the line staying resident and those sectors clean. -/
def Dev.cleanSectors (d : Dev) (l : Line) (secs : List Nat) : Dev :=
  let part : Line := { l with dirty := (secs.filter (bitOf l.dirty)).foldl (fun v s => v + 2 ^ s) 0 }
  let rd := d.wbReads part
  let d := (d.writeBack part).putLine { rd.foldl Line.mend l with dirty := l.dirty - part.dirty }
  rd.foldl (fun d i => d.note l i) d

/-! ## Tags and states (R258, R284) -/

/-- A block of a set's tags and states read: an error is corrected at once. It is counted and watched for the first of the four ways the
block serves, or, uncorrectable, counted, reported and followed by the retirement of their two pairs (log 48). -/
def Dev.tagBlock (d : Dev) (h s x j : Nat) : Dev :=
  let b := 4 * setKey h s x + j
  let mended : Dev := { d with mm := { d.mm with tags := d.mm.tags.putBlock b zero64 } }
  match classify false (d.mm.tags.syn b) with
  | .clean => d
  | .poisoned => d
  | .bad =>
    let d := mended.bump (llcSet h) 8 1
    let d := d.post 0x3003 (packB [(0, h), (1, layerOf (2 * j)), (2, s), (4, x), (6, 4 * j)])
    (d.retirePair h s x (2 * j) 2).retirePair h s x (2 * j + 1) 2
  | _ => (mended.bump (llcSet h) 7 1).watchWith Dev.retirePair h s x (4 * j)

/-- The four blocks of a set's tags and states read, as every request to the set reads them. -/
def Dev.tagRead (d : Dev) (h s x : Nat) : Dev :=
  if d.mm.tags.chk.isEmpty then d else (List.range 4).foldl (fun d j => d.tagBlock h s x j) d

/-! ## Room for a line (R240) -/

/-- A place for a line in its set, with the evictions it needs: none when the set has no eligible pair; stall when an eviction
waits for a channel under write hold. -/
inductive Room where
  | way (d : Dev) (w : Nat)
  | none
  | stall (waiting : List Line)

/-- Room made for a line. An eviction may find an error that retires the way's pair (R259), and another way is taken then: the first
argument bounds how often. -/
def Dev.roomN : Nat → Dev → Nat → Nat → Nat → Bool → Room
  | 0, _, _, _, _, _ => .none
  | n + 1, d, h, s, x, whole =>
    let pick := if whole then (plruPick (Tbl.get d.mm.lru (setKey h s x) 0) (d.eligible h s x)).map (2 * ·) else d.pickWay h s x
    match pick with
    | none => .none
    | some w =>
      let out := d.occupants h s x w whole
      if out.any d.wbHeld then .stall (out.filter d.wbHeld)
      else
        let e := out.foldl Dev.evict d
        if e.pairRetired h s x (w / 2) then e.roomN n h s x whole else .way e w

/-- Room made for a line; a set has 8 pairs. -/
def Dev.makeRoom (d : Dev) (h s x : Nat) (whole : Bool) : Room := d.roomN 9 h s x whole

/-- A line stored after a fill or write: it may shrink to one way or grow to its pair, evicting the partner's occupant (R234). An error
found there may retire the pair (R259): the line is written back then, or moved where it is pinned. Its encoding reads its blocks, whose
errors are noted. -/
def Dev.settle (d : Dev) (l : Line) : Dev :=
  let l' := l.recode
  let at_ : Line := if l'.two then { l' with way := l'.way / 2 * 2 } else l'
  let out := if l'.two && !l.two then (d.occupants l.half l.slice l.set l.way true).filter (fun m => !m.same l) else []
  let e := out.foldl Dev.evict d
  let e := if out.isEmpty || !e.pairRetired l.half l.slice l.set l.pair then e.putLine at_
    else if at_.pin then ((e.putLine at_).movePinned Dev.retirePair at_).1
    else e.evict at_
  if l'.enc = 0 then e else (List.range 4).foldl (fun d i => d.note l.raw i) e

/-! ## Sector reads and writes -/

/-- What a request to the cache came to: the two blocks of a sector with whether the granary served it and whether a retired
channel was reached; UNREACHABLE (R27); or a stall with its idle cause (R122). -/
inductive SecRes where
  | ok (d : Dev) (b0 b1 : Blk) (granary retired : Bool)
  | unreachable (d : Dev)
  | stall (d : Dev) (cause : Nat)

/-- A line stored after a fill or write. Where it grows and its partner's occupant waits for a channel under write hold, the request
stalls and leaves the part as it found it, d0, but for the writes that wait (R234, R272). -/
def Dev.settleOr (d0 d : Dev) (l : Line) (k : Dev → SecRes) : SecRes :=
  let out := if l.recode.two && !l.two then (d.occupants l.half l.slice l.set l.way true).filter (fun m => !m.same l) else []
  if out.any d.wbHeld then (let (d, c) := d0.waitBacks (out.filter d.wbHeld); .stall d c) else k (d.settle l)

/-- A request served at a half: the counter, and the pressure window for a line that is not pinned (R251, R262). -/
def Dev.request (d : Dev) (h : Nat) (pinned miss : Bool) : Dev :=
  let d := d.bump (llcSet h) 0 1
  let d := if miss then d.bump (llcSet h) 1 1 else d
  if pinned then d else d.modHalf h (fun x => { x with winReq := x.winReq + 1, winMiss := x.winMiss + b2n miss })

/-- A sector fetched from the granary: two blocks, and whether a retired channel was reached. -/
def Dev.fetchSector (d : Dev) (a : Nat) : Dev × Blk × Blk × Bool :=
  let (d, b0, r0) := d.granRead (a / 64)
  let (d, b1, r1) := d.granRead (a / 64 + 1)
  (d, b0, b1, r0 || r1)

/-- A line with a sector filled. -/
def Line.fill (l : Line) (sec : Nat) (b0 b1 : Blk) : Line :=
  { l.raw with valid := l.valid ||| 2 ^ sec, st := (l.plain.putBlk (2 * sec) b0).putBlk (2 * sec + 1) b1 }

/-- A line that has just been given a way. -/
def Line.new (num h s x w : Nat) : Line := ⟨num, h, s, x, w, false, 0, 0, 0, false, Store.zero⟩

/-! ## Outstanding misses (R242) -/

/-- Logical-line misses outstanding in a half. -/
def Dev.missCount (d : Dev) (h : Nat) : Nat := (d.mm.missOut.filter (fun e => e.1 = h)).length

/-- A new miss in a half finds 8,192 outstanding; one of a line already being fetched joins it. -/
def Dev.missFull (d : Dev) (h num : Nat) : Bool := !d.mm.missOut.contains (h, num) && 8192 ≤ d.missCount h

/-- A miss that waits is outstanding. -/
def Dev.missWait (d : Dev) (h num : Nat) : Dev :=
  if d.mm.missOut.contains (h, num) then d else { d with mm := { d.mm with missOut := d.mm.missOut ++ [(h, num)] } }

/-- A miss that has been served is not. -/
def Dev.missDone (d : Dev) (h num : Nat) : Dev :=
  if d.mm.missOut.contains (h, num) then { d with mm := { d.mm with missOut := d.mm.missOut.filter (fun e => e != (h, num)) } } else d

/-- A request that waits for write-backs: outstanding as a miss, with the cause its issuer counts. -/
def Dev.missStall (d : Dev) (h num : Nat) (ls : List Line) : SecRes :=
  let (d, c) := (d.missWait h num).waitBacks ls
  .stall d c

/-- What a request does with a sector that it misses: the group serves it, or not, or is full (R27, R271); its blocks, unless a whole sector
is being written. d0 is the part as the request found it. -/
def Dev.fetchOr (d0 d : Dev) (h a : Nat) (full : Bool) (k : Dev → Blk → Blk → Bool → SecRes) : SecRes :=
  if full then k (d.missDone h (a / 256)) Blk.bad Blk.bad false
  else if !d.groupServes (groupOf a) || !d.bridged h (groupOf a / 2) then .unreachable d
  else if d.groupFull (groupOf a) then .stall d0 10
  else let (d, b0, b1, r) := d.fetchSector a; k (d.missDone h (a / 256)) b0 b1 r

/-- A line is resident and pinned, so that its reads are none of the pressure window's (R251). -/
def Dev.pinnedAt (d : Dev) (h s x num : Nat) : Bool := (d.findLine h s x num).any (fun l => l.pin)

/-- The sector at a (a multiple of 128) read from a half's point of view (R238, R240, R253). -/
def Dev.secRead (d : Dev) (from_ place home a : Nat) : SecRes :=
  let num := a / 256
  let sec := a / 128 % 2
  let (h, s, x) := locOf place home num
  if !d.bridged from_ h then .unreachable d
  else if !(d.fallowAt h a 128).isEmpty then
    .ok ((d.request h (d.pinnedAt h s x num) false).bump (llcSet h) 3 1) Blk.bad Blk.bad false false
  else
    let d := d.tagRead h s x
    match d.findLine h s x num with
    | some l =>
      if bitOf l.valid sec then
        .ok (((d.request h l.pin false).touch h s x l.way).wayBlocks l (l.phys sec)) (l.blk (2 * sec)) (l.blk (2 * sec + 1)) false false
      else if d.missFull h num then .stall d 10
      else if d.layerHeld (layerOf l.pair) h then
        d.fetchOr ((d.request h l.pin true).bump (llcSet h) 10 1) h a false (fun d b0 b1 r => .ok d b0 b1 true r)
      else
        d.fetchOr (d.request h l.pin true) h a false (fun e b0 b1 r =>
          (d.missWait h num).settleOr e (l.fill sec b0 b1) (fun e => .ok (e.touch h s x l.way) b0 b1 true r))
    | none =>
      if d.missFull h num then .stall d 10
      else
        match d.makeRoom h s x false with
        | .stall ls => d.missStall h num ls
        | .none => d.fetchOr ((d.request h false true).bump (llcSet h) 10 1) h a false (fun d b0 b1 r => .ok d b0 b1 true r)
        | .way d' w =>
          d.fetchOr (d'.request h false true) h a false (fun e b0 b1 r =>
            .ok ((e.settle ((Line.new num h s x w).fill sec b0 b1)).touch h s x w) b0 b1 true r)

/-- The blocks of a resident line's ways that a write reads: those of blocks it writes in part, or the whole of an encoded way (R239,
R288). -/
def Line.rmwReads (l : Line) (sec off n : Nat) : List Nat :=
  if l.enc != 0 then l.phys sec
  else ([0, 1].filter (fun i =>
    let lo := max off (64 * i)
    let hi := min (off + n) (64 * i + 64)
    lo < hi && hi - lo != 64)).map (2 * sec + ·)

/-- The line that a write of bytes inside a sector leaves: whole sectors and whole blocks as they travel, poison kept (R285), anything
narrower merged (R288). -/
def Line.store (l : Line) (sec off : Nat) (xs : List Blk) (bs : List Byte) : Line :=
  let st := l.plain
  let st := if bs.length = 128 then (st.putBlk (2 * sec) (xs.getD 0 Blk.bad)).putBlk (2 * sec + 1) (xs.getD 1 Blk.bad)
    else if xs.length = 1 then st.putBlk (2 * sec + off / 64) (xs.getD 0 Blk.bad)
    else st.write (128 * sec + off) bs
  { l.raw with valid := l.valid ||| 2 ^ sec, dirty := l.dirty ||| 2 ^ sec, st := st }

/-- Bytes written inside the sector at a (R238, R254, R257). A full sector needs no fetch. A set no layer of which is in service is
UNREACHABLE (R27); one whose pairs are all pinned or held makes the write wait (R240). -/
def Dev.secWrite (d : Dev) (from_ place home a off : Nat) (xs : List Blk) (bs : List Byte) (key : Nat) : SecRes :=
  let num := a / 256
  let sec := a / 128 % 2
  let (h, s, x) := locOf place home num
  let full := bs.length = 128
  if !d.bridged from_ h then .unreachable d
  else
    let d := (d.resow h (a + off) bs.length).tagRead h s x
    match d.findLine h s x num with
    | some l =>
      if d.layerHeld (layerOf l.pair) h then
        let b := lhBit (layerOf l.pair) h
        .stall (d.holdWrite key a (fun d =>
          let d := d.bump (llcSet h) 9 1
          { d with mm := { d.mm with holdN := Tbl.put d.mm.holdN b (Tbl.get d.mm.holdN b 0 + 1) } })) 6
      else if bitOf l.valid sec then
        d.settleOr (d.request h l.pin false) (l.store sec off xs bs) (fun d =>
          .ok ((l.rmwReads sec off bs.length).foldl (fun d i => d.note l i) (d.touch h s x l.way)) Blk.bad Blk.bad false false)
      else if d.missFull h num then .stall d 10
      else
        d.fetchOr (d.request h l.pin true) h a full (fun e b0 b1 r =>
          (d.missWait h num).settleOr e ((if full then l else l.fill sec b0 b1).store sec off xs bs) (fun e => .ok (e.touch h s x l.way) b0 b1 (!full) r))
    | none =>
      if d.missFull h num then .stall d 10
      else
        match d.makeRoom h s x false with
        | .stall ls => d.missStall h num ls
        | .none => if d.ways h = 0 then .unreachable d else .stall (d.missWait h num) 2
        | .way d' w =>
          d.fetchOr (d'.request h false true) h a full (fun e b0 b1 r =>
            let l := Line.new num h s x w
            .ok ((e.settle ((if full then l else l.fill sec b0 b1).store sec off xs bs)).touch h s x w) b0 b1 (!full) r)

end Sys2Proof.Machine
end

