-- ==== Sys2Proof/Machine/Vm.lean ====
section
/-!
DEFINITION. Sys2Proof/Machine/Vm.lean: accesses to I/O virtual addresses by any agent: ranges are translated first (R282), then
served sector by sector by the cache or, for the agents that may, by host memory (R278). What an access meets is recorded on
its descriptor: UNREACHABLE (R27), a retired channel (R436), poison consumed (R286).
-/
namespace Sys2Proof.Machine

/-- On whose behalf an access is made: context, descriptor, cluster (for the walk cache), half it starts from, kind of agent,
who waits for a page request, and the key its held writes are counted under. -/
structure Acc where
  ctx : CtxId
  tag : Option Tag
  cl : Option Nat
  half : Nat
  ag : Agent
  who : Option Issuer
  key : Nat

/-- What an access came to. -/
inductive Mv (α : Type) where
  | ok (d : Dev) (x : α)
  | fault (d : Dev) (f : XFault) (iova : Nat)
  | wait (d : Dev) (iova : Nat)
  | stall (d : Dev) (cause : Nat)

/-- The state an access leaves. -/
def Mv.dev {α : Type} : Mv α → Dev
  | .ok d _ => d
  | .fault d _ _ => d
  | .wait d _ => d
  | .stall d _ => d

/-- What follows an access that came to something. -/
def Mv.bind {α β : Type} (m : Mv α) (k : Dev → α → Mv β) : Mv β :=
  match m with
  | .ok d x => k d x
  | .fault d f a => .fault d f a
  | .wait d a => .wait d a
  | .stall d c => .stall d c

/-- The 4 KiB pages a range touches, by their first byte in the range. -/
def pageStarts (iova n : Nat) : List Nat :=
  if n = 0 then []
  else (List.range ((iova + n - 1) / 4096 + 1 - iova / 4096)).map (fun i => if i = 0 then iova else (iova / 4096 + i) * 4096)

/-- Every page of a range translated before any access is made (R282): the first fault or wait, in address order. -/
def Dev.probe (d : Dev) (ac : Acc) (wr : Bool) : List Nat → Mv Unit
  | [] => .ok d ()
  | a :: as =>
    match d.xlate ac.ctx ac.cl ac.ag ac.who a wr with
    | (d, .fault f) => .fault d f a
    | (d, .wait) => .wait d a
    | (d, _) => d.probe ac wr as

/-- A descriptor's access met a gated or absent unit (R27). Its record reports that, for R445 has no event for it (log 63). -/
def Dev.markUnreachable (d : Dev) (tag : Option Tag) : Dev :=
  match tag with
  | none => d
  | some t => d.modWork t (fun w => { w with unreachable := true })

/-- A descriptor's access reached a retired channel (R436), which is its first cause under R76. -/
def Dev.markRetired (d : Dev) (tag : Option Tag) : Dev :=
  match tag with
  | none => d
  | some t => d.modWork t (fun w => { w with
      marked := true
      cause := if w.cause = 0 then 4 else w.cause
      detail := if w.cause = 0 then 4 else w.detail
      causeLt := if w.cause = 0 then d.lt else w.causeLt })

/-- A block as an access returned it: none where it was UNREACHABLE; the DPA it came from, 0 for host memory. -/
structure Got where
  blk : Option Blk
  dpa : Nat
  deriving DecidableEq, Repr

/-- A host block read. -/
def Dev.hostBlk (d : Dev) (a : Nat) : Got := ⟨some ⟨d.hostRead a 64, false⟩, 0⟩

/-- The block at a 64-byte-aligned address and the one after it, in one request for the 128-byte line that holds the first (R244); the
Bool says whether the granary served it (R122). -/
def Dev.readLine (d : Dev) (ac : Acc) (a : Nat) : Mv (Got × Got × Bool) :=
  match d.xlate ac.ctx ac.cl ac.ag ac.who a false with
  | (d, .fault f) => .fault d f a
  | (d, .wait) => .wait d a
  | (d, .host h) => .ok d (d.hostBlk h, d.hostBlk (h + 64), false)
  | (d, .gran dpa place home) =>
    match d.secRead ac.half place home (dpa / 128 * 128) with
    | .stall d c => .stall d c
    | .unreachable d => .ok (d.markUnreachable ac.tag) (⟨none, dpa⟩, ⟨none, dpa + 64⟩, false)
    | .ok d b0 b1 gran ret =>
      let d := if ret then d.markRetired ac.tag else d
      .ok d (⟨some (if dpa / 64 % 2 = 0 then b0 else b1), dpa⟩, ⟨some b1, dpa + 64⟩, gran)

/-- Blocks read at 64-byte-aligned addresses, in order, two of one line in one request. The Bool says whether any was served by the
granary (R122). -/
def Dev.readBlocks (d : Dev) (ac : Acc) : List Nat → Mv (List Got × Bool)
  | [] => .ok d ([], false)
  | [a] => (d.readLine ac a).bind (fun d r => .ok d ([r.1], r.2.2))
  | a :: b :: as =>
    (d.readLine ac a).bind (fun d r =>
      if b = a + 64 && a / 64 % 2 = 0 then (d.readBlocks ac as).bind (fun d x => .ok d (r.1 :: r.2.1 :: x.1, x.2 || r.2.2))
      else (d.readBlocks ac (b :: as)).bind (fun d x => .ok d (r.1 :: x.1, x.2 || r.2.2)))

/-- The fault that stands for the trap of R253: it parks with cause FALLOW_READ, and is none of R278's kinds. -/
def fallowFault : XFault := ⟨0, false, false, false, 0, 0⟩

/-- The trap cause of a fault (R120). -/
def XFault.cause (f : XFault) : Nat := if f.kind = 0 then 8 else 7

/-- A range's blocks looked at for the trap of R253 before any of it is read: a read of a fallow entry of the context that has its trap
enabled. -/
def Dev.trapProbe (d : Dev) (ac : Acc) : List Nat → Mv Unit
  | [] => .ok d ()
  | a :: as =>
    if d.mm.halves.all (fun e => e.2.fallow.all (fun f => !f.2.flag)) then .ok d ()
    else
      match d.xlate ac.ctx ac.cl ac.ag ac.who a false with
      | (d, .gran dpa place home) =>
        if (d.fallowAt (locOf place home (dpa / 256)).1 (dpa / 64 * 64) 64).any (fun e => e.flag && e.ctx = ac.ctx) then .fault d fallowFault a
        else d.trapProbe ac as
      | (d, _) => d.trapProbe ac as

/-- The aligned block addresses a range touches. -/
def blockAddrs (iova n : Nat) : List Nat := (blockPieces iova n).map (fun p => 64 * p.1)

/-- A range read: every page is translated first (R282), then a fallow trap is looked for (R253). -/
def Dev.readRange (d : Dev) (ac : Acc) (iova n : Nat) : Mv (List Got × Bool) :=
  (d.probe ac false (pageStarts iova n)).bind (fun d _ =>
    (d.trapProbe ac (blockAddrs iova n)).bind (fun d _ => d.readBlocks ac (blockAddrs iova n)))

/-- The bytes of a range from its blocks; poisoned and unreachable blocks give zeros (R286). -/
def gotBytes (gs : List Got) (iova n : Nat) : List Byte :=
  ((gs.flatMap (fun g => match g.blk with | some b => b.bytes | none => zero64)).drop (iova % 64)).take n

/-- The DPA of the first poisoned block read. -/
def gotPoison (gs : List Got) : Option Nat :=
  (gs.find? (fun g => match g.blk with | some b => b.poison | none => false)).map (·.dpa)

/-- One store inside a 128-byte sector: its address, bytes, and the blocks when it covers the sector. -/
structure Piece where
  iova : Nat
  bs : List Byte
  blks : List Blk

/-- Stores performed in order; every page has been translated. -/
def Dev.writePieces (d : Dev) (ac : Acc) : List Piece → Mv Unit
  | [] => .ok d ()
  | p :: ps =>
    match d.xlate ac.ctx ac.cl ac.ag ac.who p.iova true with
    | (d, .fault f) => .fault d f p.iova
    | (d, .wait) => .wait d p.iova
    | (d, .host h) => (d.hostWrite h p.bs).writePieces ac ps
    | (d, .gran dpa place home) =>
      match d.secWrite ac.half place home (dpa / 128 * 128) (dpa % 128) p.blks p.bs ac.key with
      | .stall d c => .stall d c
      | .unreachable d => (d.markUnreachable ac.tag).writePieces ac ps
      | .ok d _ _ _ ret => (if ret then d.markRetired ac.tag else d).writePieces ac ps

/-- The pieces of a run of whole blocks: full sectors as one piece, single blocks as another. -/
def blkPieces : Nat → List Blk → List Piece
  | _, [] => []
  | a, [b] => [⟨a, b.bytes, [b]⟩]
  | a, b :: c :: bs =>
    if a % 128 = 0 then ⟨a, b.bytes ++ c.bytes, [b, c]⟩ :: blkPieces (a + 128) bs
    else ⟨a, b.bytes, [b]⟩ :: blkPieces (a + 64) (c :: bs)

/-- Whole blocks written at a 64-byte-aligned address, poison kept (R285). -/
def Dev.writeBlocks (d : Dev) (ac : Acc) (iova : Nat) (bs : List Blk) : Mv Unit :=
  (d.probe ac true (pageStarts iova (64 * bs.length))).bind (fun d _ => d.writePieces ac (blkPieces iova bs))

/-- The pieces of a run of bytes, one for each 128-byte sector. -/
def bytePieces (iova : Nat) (bs : List Byte) : List Piece :=
  if bs.length = 0 then []
  else
    (List.range ((iova + bs.length - 1) / 128 + 1 - iova / 128)).map (fun i =>
      let lo := max iova (128 * (iova / 128 + i))
      let hi := min (iova + bs.length) (128 * (iova / 128 + i) + 128)
      let part := (bs.drop (lo - iova)).take (hi - lo)
      ⟨lo, part, if part.length = 128 then [⟨part.take 64, false⟩, ⟨part.drop 64, false⟩] else []⟩)

/-- Bytes written at any address (R238, R288). -/
def Dev.writeRange (d : Dev) (ac : Acc) (iova : Nat) (bs : List Byte) : Mv Unit :=
  (d.probe ac true (pageStarts iova bs.length)).bind (fun d _ => d.writePieces ac (bytePieces iova bs))

/-- POISON_CONSUMED (R286, R294). -/
def Dev.sayPoison (d : Dev) (c : CtxId) (cluster unit dpa : Nat) : Dev := d.postCtx c 0x4006 (packB [(0, dpa), (8, unit), (9, cluster)])

/-- Poison consumed by a unit in a cluster on behalf of a descriptor: the first in each cluster is reported. What a peer's request makes
the update engine consume is noted until the request has been served (R286). -/
def Dev.consume (d : Dev) (c : CtxId) (tag : Option Tag) (cluster unit dpa : Nat) : Dev :=
  match tag with
  | none => { d with upd := { d.upd with ate := some (d.upd.ate.getD dpa) } }
  | some t =>
    match d.work t with
    | none => d
    | some w =>
      if w.poison.contains cluster then d
      else (d.modWork t (fun w => { w with poison := w.poison ++ [cluster] })).sayPoison c cluster unit dpa

end Sys2Proof.Machine
end

