-- ==== Sys2Proof/Machine/Operands.lean ====
section
/-!
DEFINITION. Sys2Proof/Machine/Operands.lean: the fields of descriptors (R55 to R58, R97, R148, R225, R245, R293, R335, R362),
of transfer records and of format codes (R130, R132, R137 to R139), and which encodings are reserved.
-/
namespace Sys2Proof.Machine

/-! ## The descriptor header (R55) -/

/-- OPCODE. -/
def dOp (x : Rec64) : Nat := fieldb x 11 0
/-- FENCE. -/
def dFence (x : Rec64) : Bool := bitOf x.toNat 12
/-- IRQ. -/
def dIrq (x : Rec64) : Bool := bitOf x.toNat 13
/-- OVERRUN_CONTINUE. -/
def dOverrun (x : Rec64) : Bool := bitOf x.toNat 14
/-- WAIT_QUEUE. -/
def dWaitQueue (x : Rec64) : Nat := fieldb x 27 16
/-- WAIT_EN. -/
def dWaitEn (x : Rec64) : Bool := bitOf x.toNat 31
/-- DESC_ID. -/
def dId (x : Rec64) : Word := BitVec.ofNat 32 (fieldB x 4 4)
/-- COST in µs. -/
def dCost (x : Rec64) : Nat := fieldB x 8 3
/-- WAIT_INDEX. -/
def dWaitIndex (x : Rec64) : Word := BitVec.ofNat 32 (fieldB x 12 4)
/-- A collective: the opcodes of R334 and the three of R361. -/
def isCollective (op : Nat) : Bool := (0x600 ≤ op && op ≤ 0x603) || op = 0x701 || op = 0x703 || op = 0x70A
/-- A descriptor that runs on a Drill (R151, R225). -/
def isDrillOp (op : Nat) : Bool := op = 0x200 || op = 0x300 || op = 0x301
/-- A descriptor that runs on a shard unit (R361). -/
def isShardOp (op : Nat) : Bool := op = 0x700 || op = 0x702 || (0x704 ≤ op && op ≤ 0x709) || op = 0x70B
/-- An assigned opcode (R56, R58, R97, R151, R225, R245, R293, R334, R362). -/
def assigned (op : Nat) : Bool :=
  op ≤ 2 || op = 0x100 || op = 0x200 || op = 0x300 || op = 0x301 || (0x400 ≤ op && op ≤ 0x405) || op = 0x500 || op = 0x501
    || (0x600 ≤ op && op ≤ 0x603) || (0x700 ≤ op && op ≤ 0x70B)

/-! ## Formats (R130, R132, R137 to R139) -/

/-- Element width in bits. -/
def fmtBits (f : Nat) : Nat :=
  match f with
  | 0 => 4 | 1 => 6 | 2 => 6 | 3 => 8 | 4 => 8 | 5 => 16 | 6 => 16 | 7 => 32 | 8 => 64 | _ => 8
/-- KG, the K-group of a step (R130). -/
def fmtKg (f : Nat) : Nat :=
  match f with
  | 0 => 8 | 1 => 4 | 2 => 4 | 3 => 4 | 4 => 4 | 5 => 2 | 6 => 2 | _ => 1
/-- WB, the bytes of a row word (R137). -/
def fmtWb (f : Nat) : Nat :=
  match f with
  | 1 => 3 | 2 => 3 | 8 => 8 | _ => 4
/-- SB_BYTES, the bytes of a physical step. -/
def fmtSb (f : Nat) : Nat := 16 * fmtWb f
/-- The scale block size of a code: 16, 32, 64 or 128. -/
def blkSize (code : Nat) : Nat := 16 * 2 ^ code
/-- LS, the logical steps one scale line covers (R139). -/
def panelLs (fmt dir blk : Nat) : Nat := if dir = 0 then 4 * blkSize blk / fmtKg fmt else 64 / fmtKg fmt
/-- NL, the scale lines of a panel; 0 when unscaled. -/
def panelNl (fmt scale dir blk steps : Nat) : Nat := if scale = 0 then 0 else ceilDiv steps (panelLs fmt dir blk)
/-- panel_bytes (R139). -/
def panelBytes (fmt scale dir blk steps : Nat) : Nat := fmtSb fmt * (steps + 3) + 64 * panelNl fmt scale dir blk steps
/-- step_offset (R139). -/
def stepOffset (fmt scale dir blk steps p : Nat) : Nat :=
  let nl := panelNl fmt scale dir blk steps
  fmtSb fmt * p + 64 * (if nl = 0 then 0 else min (p / panelLs fmt dir blk + 1) nl)

/-! ## Transfer records (R148) -/

/-- A core's cluster (R17). -/
def clusterOf (core : Nat) : Nat := core / 36 / 3 * 6 + core % 36 / 6
/-- A cluster's quadrant (R22). -/
def quadOfCluster (cl : Nat) : Nat := 2 * (cl % 6 / 3) + cl / 6 / 6
/-- A core's index in its cluster (R124). -/
def coreIndex (core : Nat) : Nat := core / 36 % 3 * 6 + core % 36 % 6
/-- The core of an index in a cluster. -/
def coreAt (cl k : Nat) : Nat := (cl / 6 * 3 + k / 6) * 36 + (cl % 6 * 6 + k % 6)

/-- A transfer record's fields. -/
structure Xfer where
  src : Nat
  dst : Nat
  scaleSrc : Nat
  stride : Nat
  rows : Nat
  k16 : Nat
  len : Nat
  layout : Nat
  toLocal : Bool
  order : Nat
  fmt : Nat
  scale : Nat
  dir : Nat
  blk : Nat
  core : Nat
  token : Nat
  scope : Bool
  sigEn : Bool
  count : Nat
  deriving DecidableEq, Repr

/-- The fields of a transfer record (R148). -/
def xferOf (x : Rec64) : Xfer :=
  { src := fieldB x 16 8, dst := fieldB x 24 8, scaleSrc := fieldB x 32 8, stride := fieldB x 40 4
    rows := fieldB x 44 2, k16 := fieldB x 46 2, len := fieldB x 48 4
    layout := bits (fieldB x 52 1) 2 0, toLocal := bitOf (fieldB x 52 1) 3, order := bits (fieldB x 52 1) 4 4
    fmt := bits (fieldB x 53 1) 3 0, scale := bits (fieldB x 53 1) 5 4, dir := bits (fieldB x 53 1) 6 6
    blk := bits (fieldB x 54 1) 1 0, core := bits (fieldB x 56 2) 10 0
    token := bits (fieldB x 58 1) 5 0, scope := bitOf (fieldB x 58 1) 6, sigEn := bitOf (fieldB x 58 1) 7
    count := fieldB x 59 1 }

/-- KSTEPS of a PANEL transfer. -/
def Xfer.steps (t : Xfer) : Nat := 16 * t.k16 / fmtKg t.fmt
/-- panel_bytes of a PANEL transfer. -/
def Xfer.panel (t : Xfer) : Nat := panelBytes t.fmt t.scale t.dir t.blk t.steps
/-- The destination byte stream's length (R153). -/
def Xfer.total (t : Xfer) : Nat := if t.layout = 1 then t.rows / 16 * t.panel else t.len

/-- A reserved encoding in a transfer record for a context's cluster mask (R148). -/
def xferBad (x : Rec64) (mask : BitVec 72) : Bool :=
  let t := xferOf x
  t.dst % 64 != 0 || (t.toLocal && 2 ^ 18 ≤ t.dst) || (t.scale = 0 && t.scaleSrc != 0) || 2 < t.layout || 8 < t.fmt
    || 2 < t.scale || (t.scale != 0 && 4 < t.fmt) || bits (fieldB x 52 1) 7 5 != 0 || bitOf (fieldB x 53 1) 7
    || bits (fieldB x 54 2) 15 2 != 0 || bits (fieldB x 56 2) 15 11 != 0 || fieldB x 60 4 != 0
    || 1295 < t.core || !bitOf mask.toNat (clusterOf t.core) || (!t.scope && 32 ≤ t.token)
    || (t.sigEn && t.count = 0) || (!t.sigEn && t.count != 0)
    || (if t.layout = 1 then
          t.rows % 16 != 0 || t.rows = 0 || t.k16 = 0 || 511 < t.steps || t.len % 64 != 0 || t.len < t.panel
        else t.len = 0)

/-! ## Groups of a collective (R337) -/

/-- One dimension of a group. -/
structure Dim where
  dim : Nat
  lo : Nat
  n : Nat
  deriving DecidableEq, Repr

/-- DIM[i] of a descriptor when VALID. -/
def dimAt (x : Rec64) (i : Nat) : Option Dim :=
  let v := fieldB x (40 + 2 * i) 2
  if bitOf v 15 then some ⟨bits v 1 0, bits v 6 2, bits v 11 7 + 1⟩ else none

/-- The valid DIM entries, in order. -/
def dimsOf (x : Rec64) : List Dim := (List.range 4).filterMap (dimAt x)

/-- The size of a dimension: 8 for the yoke, XS, YS, ZS of FAB_TORUS otherwise (R301, R337). -/
def Dev.dimSize (d : Dev) (k : Nat) : Nat :=
  let t := (d.reg 0x80008).toNat
  match k with
  | 0 => 8
  | 1 => bits t 4 0 + 1
  | 2 => bits t 12 8 + 1
  | _ => bits t 20 16 + 1

/-- A device's coordinate in a dimension (R17, R300). -/
def coordOf (addr k : Nat) : Nat :=
  match k with
  | 0 => bits addr 2 0
  | 1 => bits addr 17 13
  | 2 => bits addr 12 8
  | _ => bits addr 7 3

/-- This device's address (R300). -/
def Dev.addr (d : Dev) : Nat := bits (d.reg 0x80004).toNat 17 0

/-- A device's index in a dimension (R337). -/
def Dev.dimIndex (d : Dev) (m : Dim) (addr : Nat) : Nat := (coordOf addr m.dim + d.dimSize m.dim - m.lo) % d.dimSize m.dim

/-- The checks of R336 on the DIM entries. -/
def Dev.dimsBad (d : Dev) (x : Rec64) : Bool :=
  let ds := dimsOf x
  ds.isEmpty
    || (List.range 3).any (fun i => (dimAt x i).isNone && (dimAt x (i + 1)).isSome)
    || (List.range 4).any (fun i => bits (fieldB x (40 + 2 * i) 2) 14 12 != 0)
    || !(ds.map (·.dim)).Nodup
    || ds.any (fun m => d.dimSize m.dim < m.n || d.dimSize m.dim ≤ m.lo || m.n ≤ d.dimIndex m d.addr)

/-! ## Bodies -/

/-- Bytes i to 63 are all zero but for the listed bytes. -/
def restZero (x : Rec64) (used : List Nat) : Bool := (List.range 48).all (fun j => used.contains (16 + j) || fieldB x (16 + j) 1 = 0)

/-- Bytes a to b. -/
def span (a b : Nat) : List Nat := (List.range (b + 1 - a)).map (a + ·)

/-- A shard range of group 0x700 reaches past UPD_SHARD_COUNT (R362). -/
def Dev.rangePast (d : Dev) (x : Rec64) : Bool :=
  let n := fieldB x 26 2
  bits (d.reg 0x120010).toNat 16 0 < fieldB x 24 2 + (if n = 0 then 65536 else n)

/-- Reserved encodings of the token fields of a collective (R335). -/
def tokenBad (x : Rec64) (mask : BitVec 72) : Bool :=
  let c := bits (fieldB x 48 1) 6 0
  71 < c || !bitOf mask.toNat c || bits (fieldB x 49 1) 7 6 != 0

/-- Reserved encodings and the checks of R336 for opcodes 0x600 to 0x603 and RS_UPDATE. -/
def Dev.collBad (d : Dev) (x : Rec64) (op : Nat) (mask : BitVec 72) : Bool :=
  let elems := fieldB x 32 4
  let fin := bits (fieldB x 38 1) 3 0
  let sc := bits (fieldB x 38 1) 5 4
  let fout := bits (fieldB x 39 1) 3 0
  let upd := op = 0x701
  fieldB x 16 8 % 64 != 0 || (!upd && fieldB x 24 8 % 64 != 0) || bitOf (fieldB x 39 1) 7 || fieldB x 50 2 != 0
    || elems = 0 || (if op = 0x603 then 4096 < elems else 2 ^ 31 < elems) || (op != 0x603 && fieldB x 52 4 != 0)
    || 7 < fin || 2 < sc || (sc != 0 && 4 < fin)
    || (if op = 0x602 then fout != fin else fout < 3 || 7 < fout) || (upd && 6 < fout)
    || (upd && (fieldB x 28 4 != 0 || d.rangePast x))
    || d.dimsBad x || tokenBad x mask
    || ((op = 0x600 || op = 0x601 || upd) && 1 < (dimsOf x).length) != (fieldB x 56 8 != 0)

/-- Reserved encodings of the rest of group 0x700 (R362). -/
def Dev.updBad (d : Dev) (x : Rec64) (op : Nat) (mask : BitVec 72) : Bool :=
  let range := [24, 25, 26, 27]
  match op with
  | 0x700 => d.rangePast x || !restZero x (span 16 23 ++ range)
  | 0x702 => d.rangePast x || !restZero x range
  | 0x703 =>
    d.rangePast x || !restZero x (span 16 31 ++ [36, 37, 38, 39] ++ span 40 49) || fieldB x 38 1 / 2 != 0
      || (fieldB x 39 1 != 0 && fieldB x 39 1 != 16) || bitOf (fieldB x 28 4) 31 || fieldB x 28 4 = 0
      || 0x7F800000 ≤ fieldB x 28 4 || d.dimsBad x || tokenBad x mask
  | 0x704 => d.rangePast x || !restZero x (span 16 23 ++ range)
  | 0x705 => !restZero x (span 16 23 ++ span 40 47) || d.dimsBad x
  | 0x706 => d.rangePast x || !restZero x (range ++ [28]) || 1 < fieldB x 28 1
  | 0x707 => d.rangePast x || !restZero x range
  | 0x708 => d.rangePast x || !restZero x (span 16 23 ++ range ++ [28]) || 3 < fieldB x 28 1
  | 0x709 => d.rangePast x || !restZero x (span 16 23 ++ range)
  | 0x70A =>
    !restZero x (span 16 28 ++ [36, 37, 39] ++ span 40 49) || 1 < fieldB x 28 1
      || (fieldB x 39 1 != 0 && fieldB x 39 1 != 16) || d.dimsBad x || tokenBad x mask
  | 0x70B => !restZero x (span 16 23 ++ [28] ++ span 40 47) || 1 < fieldB x 28 1 || d.dimsBad x
  | _ => true

/-- The formats of a key-value region (R208, R224): FMT_K, FMT_V, DQ16, DV16. -/
def kvFmtBad (fk fv dq dv : Nat) : Bool :=
  let f := bits fk 3 0
  let s := bits fk 5 4
  f < 3 || 6 < f || 2 < s || (s != 0 && 4 < f) || (fv != 5 && fv != 6) || dq = 0 || 16 < dq || dv = 0 || 8 < dv
    || 16 * dq % blkSize (bits fk 7 6) != 0

/-- A reserved encoding in the body of an assigned opcode (R57 and the rule of each opcode). -/
def Dev.bodyBad (d : Dev) (c : CtxId) (x : Rec64) : Bool :=
  let op := dOp x
  let mask := (d.ctx c).mask
  if op = 0 then !restZero x []
  else if op ≤ 2 then !restZero x [16, 17, 18, 19]
  else if op = 0x100 then
    fieldB x 16 8 % 4096 != 0 || (fieldB x 36 2 != 0 && fieldB x 24 8 % 64 != 0) || fieldB x 32 4 < 64 || 2 ^ 28 < fieldB x 32 4
      || 4096 < fieldB x 36 2 || fieldB x 36 2 % 4 != 0 || fieldB x 38 1 = 0 || 7 < fieldB x 38 1 || !restZero x (span 16 38)
  else if op = 0x200 then xferBad x mask
  else if op = 0x300 then
    let n := fieldB x 24 4
    fieldB x 16 8 % 4096 != 0 || n % 64 != 0 || n = 0 || 1048576 < n || fieldB x 28 2 = 0 || 256 < fieldB x 28 2
      || kvFmtBad (fieldB x 32 1) (fieldB x 33 1) (fieldB x 30 1) (fieldB x 31 1) || !restZero x (span 16 33)
  else if op = 0x301 then
    fieldB x 16 8 % 4096 != 0 || fieldB x 40 2 = 0 || 4096 < fieldB x 40 2 || !restZero x (span 16 41)
  else if op ≤ 0x405 then
    !restZero x (span 16 28) || 1 < fieldB x 28 1 || (op != 0x402 && fieldB x 28 1 != 0)
  else if op = 0x500 then fieldB x 16 8 % 4096 != 0 || fieldB x 24 8 % 4096 != 0 || !restZero x (span 16 31)
  else if op = 0x501 then fieldB x 16 8 % 64 != 0 || fieldB x 24 8 % 64 != 0 || !restZero x (span 16 31)
  else if op ≤ 0x603 || op = 0x701 then d.collBad x op mask
  else d.updBad x op mask

/-- COL_CTX_JOB of a context, as its last ACTIVATE took it, is valid (R336, R342, R355). -/
def offColJob (c : Nat) : Nat := 0x140100 + 4 * c

end Sys2Proof.Machine
end

