-- ==== Sys2Proof/Machine/Queues.lean ====
section
/-!
DEFINITION. Sys2Proof/Machine/Queues.lean: what the queue commands share: indices and completion records (R54, R80, R81), the
status block (R83), faults of queue structures (R279), checking, acceptance and holding (R57 to R66), and promises (R76 to R78).
-/
namespace Sys2Proof.Machine

/-! ## Class registers (R69, R88) -/

/-- HQS_CLASS_BOUND in µs. -/
def Dev.classBound (d : Dev) (c : Nat) : Nat := bits (d.reg (0x10100 + 8 * c)).toNat 23 0
/-- HQS_CLASS_BUDGET in µs. -/
def Dev.classBudget (d : Dev) (c : Nat) : Nat := bits (d.reg (0x10104 + 8 * c)).toNat 23 0
/-- HQS_CLASS_INFLIGHT in µs: the COST of the class's accepted descriptors (R63). -/
def Dev.classInflight (d : Dev) (c : Nat) : Nat := ((d.hq.infl.filter (fun e => e.2.cls.val = c)).map (fun e => dCost e.2.desc)).sum
/-- HQS_BLOCK_MAX in µs (R70). -/
def Dev.blockMax (d : Dev) : Nat := bits (d.reg 0x10010).toNat 10 0
/-- UTIL over the enabled classes (R69), with one class's pair replaced. -/
def Dev.utilWith (d : Dev) (c bound budget : Nat) : Nat :=
  ((List.range 16).map (fun k =>
    let b := if k = c then bound else d.classBound k
    let g := if k = c then budget else d.classBudget k
    if b = 0 then 0 else ceilDiv (1024 * g) b)).sum
/-- UTIL as HQS_CLASS_STATUS reports it. -/
def Dev.util (d : Dev) : Nat := d.utilWith 16 0 0

/-! ## Indices -/

/-- DONE_PREFIX moved over the indices completed beyond it. -/
def advanceDone : Nat → Word → List Nat → Word × List Nat
  | 0, x, a => (x, a)
  | n + 1, x, a => if a.contains x.toNat then advanceDone n (x + 1) (a.erase x.toNat) else (x, a)

/-- An index completed (R80). -/
def Queue.finish (q : Queue) (idx : Word) : Queue :=
  let a := q.ahead ++ [idx.toNat]
  let (x, a) := advanceDone a.length q.done a
  { q with done := x, ahead := a }

/-! ## The status block (R83) -/

/-- QSTATE and HQS_Q_STATE. -/
def QState.code : QState → Nat
  | .disabled => 0 | .enabled => 1 | .stopping => 2 | .stopped => 3 | .error => 4

/-- HQS_CTX_STATE. -/
def CState.code : CState → Nat
  | .free => 0 | .active => 1 | .parked => 2 | .preempted => 3 | .parkedPreempted => 4 | .stopping => 5 | .stopped => 6

/-- The 64 bytes of a queue status block. -/
def Queue.statusBytes (q : Queue) (lt : Nat) : List Byte :=
  natLe 64 (packB [(0, q.head.toNat), (4, q.holdIdx.toNat), (8, q.reason), (10, q.state.code), (12, q.done.toNat), (16, lt % 2 ^ 64),
    (24, q.accepted)])

/-- A fault of a queue structure (R279): the structure is not used again, QUEUE_XLT_FAULT and QUEUE_ERROR are posted, and the
queue enters ERROR. Its held descriptors are discarded by the caller. -/
def Dev.faultQueue (d : Dev) (q : QId) (st kind iova : Nat) : Dev :=
  let x := d.queue q
  let d := d.setQueue q { x with
    state := .error
    sqBad := x.sqBad || st = 1
    cqBad := x.cqBad || st = 2
    stBad := x.stBad || st = 3 }
  let d := d.post 0x5002 (xltFaultPayload q st kind iova)
  if x.state = .error then d
  else d.postCtx x.ctx 0x1005 (packB [(0, q.val), (4, x.prod.toNat), (8, x.done.toNat), (12, 2)])

/-- The status block written, unless the queue is DISABLED or the block faulted. -/
def Dev.putStatus (d : Dev) (q : QId) : Dev × Option Nat :=
  let x := d.queue q
  if x.state = .disabled || x.stBad || !d.on 94 then (d, none)
  else
    match d.frontWrite x.ctx (.queue q 3) x.st (x.statusBytes d.lt) with
    | .ok d _ => (d.modQueue q (fun x => { x with stLt := some d.lt }), none)
    | .fault d k => (d, some k)
    | .wait d => (d, none)

/-! ## Completion records (R80, R81) -/

/-- The 32 bytes of a completion record. -/
def Rcd.bytes (r : Rcd) (lt : Nat) (done : Word) (k : Nat) : List Byte :=
  natLe 32 (packB [(0, (dId r.desc).toNat), (4, r.idx.toNat), (8, r.status),
    (10, b2n (phaseOf r.idx k) + 2 * b2n r.broken + 4 * b2n r.wasHeld + 8 * b2n r.preempted), (11, r.cls), (12, r.result.toNat),
    (16, lt % 2 ^ 64), (24, min r.latency (2 ^ 32 - 1)), (28, done.toNat)])

/-- MSI-X of a queue after a record: at once with IRQ or when COAL_COUNT have accumulated (R81). -/
def Dev.coalesce (d : Dev) (q : QId) (irq : Bool) : Dev :=
  let x := d.queue q
  let n := x.coalN + 1
  if irq || max 1 (bits (Tbl.get x.regs 0x1020 1).toNat 15 0) ≤ n then
    (d.setQueue q { x with coalN := 0, coalStart := none }).sendMsix x.vec
  else d.setQueue q { x with coalN := n, coalStart := some (x.coalStart.getD d.lt), coalUs := bits (Tbl.get x.regs 0x1020 1).toNat 31 16 }

/-- A record written to its slot as LT and the indices now stand: what kept it from being written, a page request (R277) or a fault. A
faulted completion ring is not written and raises no interrupt (R279). -/
def Dev.tryRecord (d : Dev) (q : QId) (r : Rcd) : Dev × Bool × Option (Nat × Nat) :=
  let x := d.queue q
  if x.cqBad then (d, false, none)
  else
    let a := x.cq + (r.idx.toNat % 2 ^ x.log2) * 32
    match d.frontWrite x.ctx (.queue q 2) a (r.bytes d.lt x.done x.log2) with
    | .ok d _ => (d.coalesce q (dIrq r.desc), false, none)
    | .fault d k => (d, false, some (k, a))
    | .wait d => (d, true, none)

/-- An index completed and its record written, with the fault the write met. A record whose page the host is being asked for waits
(R277). -/
def Dev.putRecord (d : Dev) (q : QId) (r : Rcd) : Dev × Option (Nat × Nat) :=
  let d := d.modQueue q (fun x => x.finish r.idx)
  let d := if r.status = 9 then d.bump fltSet 15 1 else d
  match d.tryRecord q r with
  | (d, true, f) => (d.modQueue q (fun x => { x with waits := x.waits ++ [r] }), f)
  | (d, false, f) => (d, f)

/-- A record of a descriptor that was never accepted. -/
def plainRcd (h : Held) (status : Nat) : Rcd := ⟨h.idx, h.desc, status, 0, false, h.wasHeld, false, 0, 0⟩

/-- Every held descriptor of a queue completed with HELD_DISCARDED (R53, R54, R86); the count is kept for CONTEXT_STOPPED. -/
def Dev.discardHeld (d : Dev) (q : QId) : Dev :=
  let x := d.queue q
  let d := d.setQueue q { x with held := [], reason := 0, holdIdx := 0, head := x.nextRead }
  let d := d.modCtx x.ctx (fun c => { c with discarded := c.discarded + x.held.length })
  x.held.foldl (fun d h =>
    match d.putRecord q (plainRcd h 5) with
    | (d, none) => d
    | (d, some (k, a)) => d.faultQueue q 2 k a) d

/-- The records that wait for a page tried again, in order, until one must wait still (R277). -/
def Dev.flushWaits (d : Dev) (q : QId) : List Rcd → Dev
  | [] => d.modQueue q (fun x => { x with waits := [] })
  | r :: rs =>
    match d.tryRecord q r with
    | (d, true, _) => d.modQueue q (fun x => { x with waits := r :: rs })
    | (d, false, none) => d.flushWaits q rs
    | (d, false, some (k, a)) => ((d.modQueue q (fun x => { x with waits := [] })).faultQueue q 2 k a).discardHeld q

/-- A record written, its fault handled (R279). -/
def Dev.record (d : Dev) (q : QId) (r : Rcd) : Dev :=
  match d.putRecord q r with
  | (d, none) => d
  | (d, some (k, a)) => (d.faultQueue q 2 k a).discardHeld q

/-- The status block written, its fault handled. -/
def Dev.status (d : Dev) (q : QId) : Dev :=
  match d.putStatus q with
  | (d, none) => d
  | (d, some k) => (d.faultQueue q 3 k (d.queue q).st).discardHeld q

/-- The status block written if HOLD_REASON or the state of the queue changed from what it was (R83). -/
def Dev.statusIfChanged (before d : Dev) (q : QId) : Dev :=
  if (before.queue q).reason = (d.queue q).reason && (before.queue q).state = (d.queue q).state then d else d.status q

/-- The status block written after a change, or when a µs has passed since the last (R83). -/
def Dev.statusTouch (before d : Dev) (q : QId) : Dev :=
  let due := match (d.queue q).stLt with | none => true | some t => t + 100 ≤ d.lt
  if due then d.status q else Dev.statusIfChanged before d q

/-! ## Causes and promises (R76 to R78) -/

/-- A descriptor's deadline, once its bound has started (R63, R64). -/
def Work.deadline (w : Work) : Option Nat := w.boundLt.map (fun t => t + 100 * w.bound)

/-- The first qualifying cause recorded against a descriptor: it falls no later than the deadline (R76). -/
def Work.blame (w : Work) (cause detail lt : Nat) : Work :=
  if w.cause = 0 && decide (lt ≤ w.deadline.getD lt) then { w with cause := cause, detail := detail, causeLt := lt } else w

/-- A cause recorded against every accepted descriptor that satisfies a test. -/
def Dev.blameAll (d : Dev) (p : Work → Bool) (cause detail : Nat) : Dev :=
  { d with hq := { d.hq with infl := d.hq.infl.map (fun e => if p e.2 then (e.1, e.2.blame cause detail d.lt) else e) } }

/-- PROMISE_BROKEN posted at most once for a descriptor, with a cause, its DETAIL and LT (R77, R78). DESIGN CHOICE: where the bound has
not started there is no deadline yet (R64), and the event carries 0 for it (log 49). -/
def Dev.promiseBroken (d : Dev) (tag : Tag) (cause detail lt : Nat) : Dev :=
  match d.work tag with
  | none => d
  | some w =>
    if w.broken then d
    else
      let d := d.setWork tag { w with broken := true }
      let d := d.bump hqsSet 0 1
      let d := if cause = 0 then d.bump hqsSet 1 1 else d
      d.postCtx w.ctx 0x1001 (packB [(0, w.q.val), (4, w.idx.toNat), (8, (dId w.desc).toNat), (12, cause), (14, detail),
        (16, (w.deadline.getD 0) % 2 ^ 64), (24, lt % 2 ^ 64)])

/-- PROMISE_BROKEN with the cause recorded against the descriptor, or UNATTRIBUTED (R76 to R78). -/
def Dev.breakPromise (d : Dev) (tag : Tag) : Dev :=
  match d.work tag with
  | none => d
  | some w => d.promiseBroken tag w.cause w.detail w.causeLt

/-! ## Checking, acceptance and holding -/

/-- A descriptor that completes with BAD_DESCRIPTOR (R57, R336, R356). -/
def Dev.descBad (d : Dev) (q : QId) (x : Rec64) : Bool :=
  let op := dOp x
  let c := (d.queue q).ctx
  !assigned op || bitOf x.toNat 15 || bits x.toNat 30 28 != 0 || fieldB x 11 1 != 0
    || (if op < 0x100 then dCost x != 0 else dCost x = 0)
    || (dWaitEn x && (d.queue (dWaitQueue x)).ctx != c)
    || d.bodyBad c x
    || (isCollective op && (d.ctx c).job.isNone)
    || (0x700 ≤ op && !(bitOf (d.reg 0x120004).toNat 8 && bits (d.reg 0x120004).toNat 7 0 = c.val))

/-- A descriptor that needs a licence not in force: bits 0 TRAIN and 3 ATTN (R5, R97, R356). -/
def unlicensed (x : Rec64) (lic : Nat) : Bool :=
  let op := dOp x
  ((0x700 ≤ op || (op = 0x100 && bitOf (fieldB x 38 1) 2)) && !bitOf lic 0) || ((op = 0x300 || op = 0x301) && !bitOf lic 3)

/-- The status a descriptor completes with at once, if any (R57, R61). DESIGN CHOICE: one that is UNADMISSIBLE and unlicensed completes
with UNADMISSIBLE, and a malformed one with BAD_DESCRIPTOR whatever else holds (log 49). -/
def Dev.atOnce (d : Dev) (lic : Nat) (q : QId) (x : Rec64) : Option Nat :=
  let op := dOp x
  let c := (d.queue q).ctx
  if d.descBad q x then some 3
  else if d.classBudget (d.queue q).cls < dCost x || (isCollective op && (d.blockMax < dCost x || !(d.ctx c).exclusive)) then some 1
  else if unlicensed x lic then some 2
  else none

/-- The first failing condition of R60, 0 when the descriptor is to be accepted. -/
def Dev.holdReason (d : Dev) (q : QId) (h : Held) : Nat :=
  let x := d.queue q
  let s := (d.ctx x.ctx).state
  let zero := dOp h.desc < 0x100
  if !zero && (s = .parked || s = .parkedPreempted) then 1
  else if !zero && (s = .stopping || s = .stopped || s = .free) then 2
  else if d.hq.load = .updatePaused then 3
  else if d.pw.busy then 4
  else if d.hq.load = .updateWaiting && d.classBound x.cls < dCost h.desc + 2000 then 5
  else if dFence h.desc && x.done != h.idx then 6
  else if dWaitEn h.desc && !newer (d.queue (dWaitQueue h.desc)).done (dWaitIndex h.desc) then 7
  else if 16384 ≤ d.hq.infl.length then 8
  else if d.classBudget x.cls < d.classInflight x.cls + dCost h.desc then 9
  else 0

/-- The lowest free tag. -/
def freeTag : Tbl Work → Nat → Nat
  | [], n => n
  | (k, _) :: t, n => if k = n then freeTag t (n + 1) else n

/-- Tags of the collectives accepted and not past their last peer input in a context (R64). -/
def Dev.openColls (d : Dev) (c : CtxId) : List Nat :=
  (d.hq.infl.filter (fun e => e.2.ctx = c && isCollective (dOp e.2.desc) && e.2.waitsOn.contains e.1)).map (·.1)

/-- A descriptor accepted (R63, R64): tag, budget, deadline. While a park of its context lasts, that is its first cause (R76). -/
def Dev.accept (d : Dev) (lic : Nat) (q : QId) (h : Held) : Dev :=
  let x := d.queue q
  let tag := freeTag d.hq.infl 0
  let coll := isCollective (dOp h.desc)
  let waits := (if (d.ctx x.ctx).exclusive then d.openColls x.ctx else []) ++ (if coll then [tag] else [])
  let w : Work :=
    { q := q, idx := h.idx, desc := h.desc, ctx := x.ctx, cls := x.cls, acceptedLt := d.lt
      boundLt := if waits.isEmpty then some d.lt else none, waitsOn := waits, bound := d.classBound x.cls
      spent := 0, since := none, phase := .accepted, wasHeld := h.wasHeld, preempted := false, broken := false
      noDeadline := false, stopping := false, cause := 0, detail := 0, causeLt := 0, unreachable := false, marked := false
      poison := [], lic := lic, exits := 0, entries := [], args := [], progress := 0 }
  let w := match (d.ctx x.ctx).park with
    | some p => w.blame 1 (0x100 + p.cause) d.lt
    | none => w
  let d := d.setWork tag w
  let d := d.setQueue q { x with accepted := satAdd 32 x.accepted 1 }
  if dCost h.desc = 0 then d else { d with hq := { d.hq with lastQ := Tbl.put d.hq.lastQ x.cls.val q.val } }

/-- The descriptors of a queue evaluated in ring order (R57 to R61): completed at once, accepted, or held with the first
failing reason; a held one holds every later one but the commands of group 0, which are held only by their own kind (R59). What stays
held follows the state, each with its reason. -/
def evalHeld (lic : Nat) (q : QId) : List Held → Nat → Nat → Dev → Dev × List Held
  | [], _, _, d => (d, [])
  | h :: hs, r, r0, d =>
    let zero := dOp h.desc < 0x100 && assigned (dOp h.desc)
    let block := if zero then r0 else r
    let keep (why : Nat) (d : Dev) : Dev × List Held :=
      let (d, ks) := evalHeld lic q hs (if r = 0 then why else r) (if zero then why else r0) d
      (d, { h with wasHeld := true, why := why } :: ks)
    if (d.queue q).state != .enabled then
      let (d, ks) := evalHeld lic q hs r r0 d
      (d, { h with why := 0 } :: ks)
    else if block != 0 then keep block d
    else
      match d.atOnce lic q h.desc with
      | some st => evalHeld lic q hs r r0 (d.record q (plainRcd h st))
      | none =>
        match d.holdReason q h with
        | 0 => evalHeld lic q hs r r0 (d.accept lic q h)
        | why => keep why d

/-- A queue evaluated, with HOLD_REASON, HOLD_INDEX and SQ_HEAD as they then stand; the status block follows R83. -/
def Dev.evalQueue (d0 : Dev) (lic : Nat) (q : QId) : Dev :=
  let x := d0.queue q
  if x.state != .enabled then d0
  else
    let (d, ks) := evalHeld lic q x.held 0 0 (d0.setQueue q { x with held := [] })
    let y := d.queue q
    let d : Dev := match ks with
      | [] => d.setQueue q { y with held := [], reason := 0, holdIdx := 0, head := y.nextRead }
      | h :: _ => d.setQueue q { y with held := ks, reason := h.why, holdIdx := h.idx, head := h.idx }
    let d := if (d.queue q).state = .error then d.discardHeld q else d
    d0.statusIfChanged d q

/-- A queue holds a descriptor, its head or a group-0 command behind it, for one of some reasons (R59, R60). -/
def Queue.heldFor (x : Queue) (why : List Nat) : Bool := x.held.any (fun h => why.contains h.why)

/-- Every queue that holds a descriptor for one of some reasons evaluated again, in ascending number. -/
def Dev.reeval (d : Dev) (lic : Nat) (why : List Nat) : Dev :=
  (d.hq.queues.map (·.1)).foldl (fun d k =>
    if h : k < 4096 then (if (d.queue k).heldFor why then d.evalQueue lic ⟨k, h⟩ else d) else d) d

/-- Every queue of a context evaluated again. -/
def Dev.reevalCtx (d : Dev) (lic : Nat) (c : CtxId) : Dev :=
  (d.hq.queues.map (·.1)).foldl (fun d k =>
    if h : k < 4096 then (if (d.queue k).ctx = c then d.evalQueue lic ⟨k, h⟩ else d) else d) d

/-- The queues of a context, ascending. -/
def Dev.queuesOf (d : Dev) (c : CtxId) : List QId :=
  d.hq.queues.filterMap (fun e => if h : e.1 < 4096 then (if e.2.ctx = c then some ⟨e.1, h⟩ else none) else none)

/-! ## Completion -/

/-- The page of a descriptor's record is there, or a page request for it has been sent (R277). -/
def Dev.recordReady (d : Dev) (q : QId) (idx : Word) : Dev × Bool :=
  let x := d.queue q
  if x.cqBad then (d, true)
  else
    match d.xlate x.ctx none .front (some (.queue q 2)) (x.cq + (idx.toNat % 2 ^ x.log2) * 32) true with
    | (d, .wait) => (d, false)
    | _ => (d, true)

/-- A descriptor's work is over: its status and RESULT stand until its record is written. Work that reached a retired channel
ends UNIT_RETIRED (R436), work that met a gated unit UNREACHABLE (R27). -/
def Dev.finishWork (d : Dev) (tag : Tag) (status : Nat) (result : Word) : Dev :=
  d.modWork tag (fun w =>
    let st := if status = 0 then (if w.marked && !isCollective (dOp w.desc) then 9 else if w.unreachable then 10 else 0) else status
    { w with
      phase := .finished st result
      spent := w.spent + (match w.since with | none => 0 | some t => d.lt - t)
      since := none })

/-- A queue's or context's last accepted descriptor has gone: STOPPING becomes STOPPED (R54, R86). -/
def Dev.settleStop (d : Dev) (q : QId) (c : CtxId) : Dev :=
  let d1 :=
    if (d.queue q).state = .stopping && !d.hq.infl.any (fun e => e.2.q = q) then
      let x := d.queue q
      let d' := d.setQueue q { x with state := .stopped, head := x.prod, done := x.prod, nextRead := x.prod, ahead := [] }
      d.statusIfChanged d' q
    else d
  let x := d1.ctx c
  if x.state = .stopping && !d1.hq.infl.any (fun e => e.2.ctx = c) then
    (d1.setCtx c { x with state := .stopped, park := none }).postCtx c 0x1004 (packB [(0, x.discarded), (4, x.aborted)])
  else d1

/-- The record of accepted work written with T_COMPLETE now: the tag and its budget freed, the promise judged (R63, R68, R77,
R80). DESIGN CHOICE: LATENCY is 0 where the bound never started (log 49). -/
def Dev.completeWork (d : Dev) (tag : Tag) (status : Nat) (result : Word) : Dev :=
  match d.work tag with
  | none => d
  | some w =>
    let late := match w.deadline with | none => false | some t => !w.noDeadline && t < d.lt
    let d := if late then d.breakPromise tag else d
    let broken := match d.work tag with | none => w.broken | some v => v.broken
    let d := d.freeWork tag
    let d := { d with hq := { d.hq with infl := d.hq.infl.map (fun (e : Nat × Work) =>
      if e.2.waitsOn.contains tag.val then
        (e.1, { e.2 with
          waitsOn := e.2.waitsOn.erase tag.val
          boundLt := if (e.2.waitsOn.erase tag.val).isEmpty then some d.lt else e.2.boundLt })
      else e) } }
    let latency := match w.boundLt with | none => 0 | some t => d.lt - t
    let e := d.record w.q ⟨w.idx, w.desc, status, result, broken, w.wasHeld, w.preempted, w.cls.val, latency⟩
    (d.statusIfChanged e w.q).settleStop w.q w.ctx

end Sys2Proof.Machine
end

