-- ==== Sys2Proof/Machine/Grid.lean ====
section
/-!
DEFINITION. Sys2Proof/Machine/Grid.lean: the compute grid: cores, clusters and their counters, tokens and grants (R107 to R114),
traps and parks (R86, R120, R127, R280 to R282, R447), the end of a LAUNCH (R103, R120), core retirement (R435 to R438).
-/
namespace Sys2Proof.Machine

/-- A core with nothing resident. -/
def Core.empty : Core :=
  { ctx := none, tag := none, ways := 0, stages := [], tok := [], ls := Store.zero, orig := [], l1 := [], ibuf := [], acc := []
    l1lru := [], v := [], m := [], t := [], fops := [], redo := 0, mism := [], lastLt := 0, lastWord := 0, lastCols := 0, sets := []
    hopper := [], hopOpen := false, trap := 0, peer := 0, halted := 0, forced := false, imaged := false, busy := 0, harBusy := 0 }

/-- A cluster at reset. -/
def Cluster.empty : Cluster := ⟨none, [], [], 0, false⟩

/-- An unused stage context. -/
def Stage.empty : Stage := ⟨.unused, 0, [], 0, 0, none, 0, none, 0, 0⟩

/-- A core. -/
def Dev.core (d : Dev) (n : Nat) : Core := Tbl.get d.gr.cores n Core.empty
/-- A core replaced. -/
def Dev.setCore (d : Dev) (n : Nat) (c : Core) : Dev := { d with gr := { d.gr with cores := Tbl.set d.gr.cores n c Core.empty } }
/-- A core changed. -/
def Dev.modCore (d : Dev) (n : Nat) (f : Core → Core) : Dev := d.setCore n (f (d.core n))
/-- A cluster. -/
def Dev.cluster (d : Dev) (n : Nat) : Cluster := Tbl.get d.gr.clusters n Cluster.empty
/-- A cluster replaced. -/
def Dev.setCluster (d : Dev) (n : Nat) (c : Cluster) : Dev :=
  { d with gr := { d.gr with clusters := Tbl.set d.gr.clusters n c Cluster.empty } }
/-- A cluster changed. -/
def Dev.modCluster (d : Dev) (n : Nat) (f : Cluster → Cluster) : Dev := d.setCluster n (f (d.cluster n))
/-- A stage context of a core. -/
def Core.stage (c : Core) (i : Nat) : Stage := Tbl.get c.stages i Stage.empty
/-- A stage context replaced. -/
def Core.setStage (c : Core) (i : Nat) (s : Stage) : Core := { c with stages := Tbl.set c.stages i s Stage.empty }
/-- A stage context changed. -/
def Core.modStage (c : Core) (i : Nat) (f : Stage → Stage) : Core := c.setStage i (f (c.stage i))
/-- A scalar register. -/
def Stage.reg (s : Stage) (r : Nat) : Word := Tbl.get s.regs r 0
/-- A scalar register written. -/
def Stage.setReg (s : Stage) (r : Nat) (v : Word) : Stage := { s with regs := Tbl.set s.regs r v 0 }

/-! ## Counters of a cluster window (R123, R128, R157, R205, R231) -/

/-- The base of a cluster window. -/
def clBase (n : Nat) : Nat := 0x400000 + n * 0x10000
/-- The base of a core's group. -/
def coreBase (core : Nat) : Nat := clBase (clusterOf core) + 0x1000 + coreIndex core * 0x400
/-- A core's 14 idle-cause counters. -/
def idleSet (core : Nat) : CtrSet :=
  ⟨coreBase core + 0x180, clBase (clusterOf core) + 0x14, some (clBase (clusterOf core) + 0x10),
   (List.range 14).map (fun c => (coreBase core + 0x100 + 8 * c, 64))⟩
/-- A core's Furrow counters. -/
def furSet (core : Nat) : CtrSet :=
  ⟨coreBase core + 0x34, clBase (clusterOf core) + 0x18, some (clBase (clusterOf core) + 0x10),
   [(coreBase core + 0x10, 64), (coreBase core + 0x18, 64), (coreBase core + 0x20, 16)]⟩
/-- A core's Harrow counters. -/
def harSet (core : Nat) : CtrSet :=
  ⟨coreBase core + 0x50, clBase (clusterOf core) + 0x1C, some (clBase (clusterOf core) + 0x10),
   [(coreBase core + 0x40, 64), (coreBase core + 0x48, 32), (coreBase core + 0x4C, 32)]⟩
/-- A core's attention counters. -/
def attSet (core : Nat) : CtrSet :=
  ⟨coreBase core + 0x70, clBase (clusterOf core) + 0x20, some (clBase (clusterOf core) + 0x10),
   [(coreBase core + 0x60, 64), (coreBase core + 0x68, 32), (coreBase core + 0x6C, 32)]⟩
/-- A cluster's Drill counters. -/
def drillSet (n : Nat) : CtrSet :=
  ⟨clBase n + 0x814, clBase n + 0x818, some (clBase n + 0x10), [(clBase n + 0x808, 64), (clBase n + 0x810, 32)]⟩

/-- UPD counters (R399). -/
def updSet : CtrSet :=
  ⟨0x120140, 0x120144, some 0x120038,
   [(0x120100, 64), (0x120108, 64), (0x120110, 32), (0x120114, 32), (0x120118, 32), (0x12011C, 32), (0x120120, 64), (0x120128, 32),
    (0x12012C, 32), (0x120130, 32), (0x120134, 64)]⟩

/-! ## Sequencers -/

/-- The ACTIVE stage of a sequencer. -/
def Core.active (c : Core) (q : Nat) : Option Nat := (firstWhere (fun s => (c.stage (8 * q + s)).state = .active) 8).map (8 * q + ·)

/-- The next READY stage after stage i of its sequencer, ascending and wrapping (R107). -/
def Core.nextReady (c : Core) (i : Nat) : Option Nat :=
  let q := i / 8
  ((List.range 8).map (fun k => 8 * q + (i + 1 + k) % 8)).find? (fun j => (c.stage j).state = .ready)

/-- A sequencer switches away from stage i (R107). -/
def Core.switch (c : Core) (i : Nat) : Core :=
  match c.nextReady i with
  | none => c
  | some j => c.modStage j (fun s => { s with state := .active })

/-- A core's context save counts a sequencer as stopped: halted, idle, or its ACTIVE stage stalled (R126). -/
def Core.seqStopped (c : Core) (q : Nat) : Bool :=
  bitOf c.halted q ||
    match c.active q with
    | none => true
    | some i => (c.stage i).stall.isSome

/-- Every L1 line dropped (R118). -/
def Core.dropL1 (c : Core) : Core := { c with l1 := [], l1lru := [] }

/-! ## Tokens (R109 to R114) -/

/-- A token's value. -/
def Dev.token (d : Dev) (core : Nat) (scope : Bool) (t : Nat) : Nat :=
  if scope then Tbl.get (d.cluster (clusterOf core)).tok t 0 else Tbl.get (d.core core).tok t 0

/-- A token's value set. -/
def Dev.setToken (d : Dev) (core : Nat) (scope : Bool) (t v : Nat) : Dev :=
  if scope then d.modCluster (clusterOf core) (fun c => { c with tok := Tbl.set c.tok t v 0 })
  else d.modCore core (fun c => { c with tok := Tbl.set c.tok t v 0 })

/-- The cores of a cluster. -/
def coresOf (cl : Nat) : List Nat := (List.range 18).map (coreAt cl)

/-- The stages blocked on a token: (BLOCK_LT, core, stage), for a core token those of its core (R111). -/
def Dev.waiters (d : Dev) (core : Nat) (scope : Bool) (t : Nat) : List (Nat × Nat × Nat) :=
  (if scope then (coresOf (clusterOf core)).mergeSort (· ≤ ·) else [core]).flatMap (fun k =>
    (d.core k).stages.filterMap (fun e =>
      match e.2.state, e.2.want with
      | .blocked, some (s, u, _, _) => if s = scope && u = t then some (e.2.blockLt, k, e.1) else none
      | _, _ => none))

/-- The waiter that blocked first; ties go to the lower core, then F, B, U, then the lower stage (R111). -/
def firstWaiter (ws : List (Nat × Nat × Nat)) : Option (Nat × Nat × Nat) :=
  ws.foldl (fun r w => match r with | none => some w | some x => if w.1 < x.1 then some w else some x) none

/-- A blocked stage granted: past its WAIT, READY, or ACTIVE where its sequencer idles (R107). -/
def Dev.grant (d : Dev) (core i : Nat) (inv : Bool) : Dev :=
  d.modCore core (fun c =>
    let idle := (c.active (i / 8)).isNone
    let c := c.modStage i (fun s =>
      { s with state := if idle then .active else .ready, pc := s.pc + 8, want := none })
    if inv then c.dropL1 else c)

/-- Waiters granted in order while the first one's COUNT is there; none is overtaken (R111). A stage whose sequencer has stopped for a
save stays BLOCKED (R126). -/
def Dev.grants : Nat → Nat → Bool → Nat → Dev → Dev
  | 0, _, _, _, d => d
  | n + 1, core, scope, t, d =>
    match firstWaiter (d.waiters core scope t) with
    | none => d
    | some (_, k, i) =>
      match ((d.core k).stage i).want with
      | none => d
      | some (_, _, cnt, inv) =>
        if cnt ≤ d.token core scope t && !bitOf (d.core k).halted (i / 8) then
          Dev.grants n core scope t ((d.setToken core scope t (d.token core scope t - cnt)).grant k i inv)
        else d

/-- COUNT added to a token and its waiters granted; none when the token would pass 65,535 (R111, R114). -/
def Dev.signal (d : Dev) (core : Nat) (scope : Bool) (t n : Nat) : Option Dev :=
  let v := d.token core scope t + n
  if 65535 < v then none else some (Dev.grants 432 core scope t (d.setToken core scope t v))

/-! ## Residence -/

/-- A LAUNCH is resident on a core. -/
def Dev.residentTag (d : Dev) (core : Nat) : Option Tag := (d.core core).tag

/-- The cores on which a LAUNCH is resident. -/
def Dev.coresWith (d : Dev) (tag : Tag) : List Nat := (d.gr.cores.filter (fun e => e.2.tag = some tag)).map (·.1)

/-- A cluster with no resident program and no Drill work belongs to no context (R96). -/
def Dev.freeCluster (d : Dev) (cl : Nat) : Dev :=
  if (coresOf cl).any (fun k => (d.core k).tag.isSome) || !(d.cluster cl).drill.isEmpty then d
  else d.modCluster cl (fun c => { c with ctx := none })

/-- A program leaves a core: its stages are gone and its L1 lines invalid; the local store stays (R102, R103). -/
def Core.leave (c : Core) : Core :=
  { c with tag := none, stages := [], l1 := [], l1lru := [], ibuf := [], fops := [], redo := 0, halted := 0, forced := false }

/-- Every Drill's queue changed. -/
def Dev.mapDrills (d : Dev) (f : List DXfer → List DXfer) : Dev :=
  { d with gr := { d.gr with clusters := d.gr.clusters.map (fun (e : Nat × Cluster) => (e.1, { e.2 with drill := f e.2.drill })) } }

/-- A transfer is at work on a unit: it has started and holds no resume point. -/
def DXfer.moving (x : DXfer) : Bool := x.started && !x.faulted

/-- A LAUNCH leaves all its cores. -/
def Dev.clearCores (d : Dev) (tag : Tag) : Dev :=
  let ks := d.coresWith tag
  let d := ks.foldl (fun d k => d.modCore k Core.leave) d
  ks.foldl (fun d k => d.freeCluster (clusterOf k)) d

/-- A LAUNCH that is ended leaves all its cores, and the transfers its instructions issued leave the Drills without signals: one that
moves at its next unit boundary, the others at once (R120, R154). -/
def Dev.leaveCores (d : Dev) (tag : Tag) : Dev :=
  (d.mapDrills (fun xs => xs.filterMap (fun x =>
    if x.launch != some tag then some x
    else if x.moving then some { x with launch := none, stop := some 0 } else none))).clearCores tag

/-- A LAUNCH ends with a status: its cores stop at their next instruction boundary (R120). -/
def Dev.endLaunch (d : Dev) (tag : Tag) (status : Nat) : Dev :=
  (d.leaveCores tag).finishWork tag status 0

/-! ## Save regions (R124 to R127) -/

/-- The rank of a cluster among the set bits of a mask. -/
def rankOf (mask : BitVec 72) (cl : Nat) : Nat := ones mask.toNat cl

/-- The DPA of a cluster slot. -/
def Ctx.clusterSlot (x : Ctx) (cl : Nat) : Nat := x.save + rankOf x.mask cl * 0x700000

/-- The DPA of a core slot. -/
def Ctx.coreSlot (x : Ctx) (core : Nat) : Nat := x.clusterSlot (clusterOf core) + 0x10000 + coreIndex core * 0x60000

/-- The DPAs in 256-byte steps from a to a + n are of groups that read ACTIVE and in no hole; judged at the ends and at every
window edge between them. -/
def Dev.regionActive (d : Dev) (a n : Nat) : Bool :=
  n != 0 && (List.range (groupOf (a + n - 1) + 1 - groupOf a)).all (fun i =>
    (d.group (groupOf a + i)).state = .active && d.on (84 + (groupOf a + i))) && !d.hole a && !d.hole (a + n - 1)
    && groupOf a = groupOf (a + n - 1)

/-- The length of a context's save region. -/
def Ctx.saveLen (x : Ctx) : Nat := 0x700000 * ones x.mask.toNat 72

/-- A channel answers for a DPA: it lies in no hole, and its group serves (R127, R267). -/
def Dev.dpaServes (d : Dev) (a : Nat) : Bool := !d.hole a && d.groupServes (groupOf a)

/-- Bytes written by DPA straight to the channels, as saves and the buddy region are (R127, R389). Where no channel answers the write is
lost. -/
def Dev.dpaWrite (d : Dev) (a : Nat) (bs : List Byte) : Dev :=
  (blockPieces a bs.length).foldl (fun d p =>
    let part := (bs.drop p.2.2.1).take p.2.2.2
    if !d.dpaServes (64 * p.1) then d
    else if part.length = 64 then (d.granWrite p.1 ⟨part, false⟩).1
    else
      match d.granRead p.1 with
      | (d, x, _) => (d.granWrite p.1 ⟨patch x.bytes p.2.1 part, x.poison⟩).1) d

/-- A block read by DPA; where no channel answers it reads as poisoned (R127). -/
def Dev.dpaBlock (d : Dev) (b : Nat) : Dev × Blk :=
  if d.dpaServes (64 * b) then
    match d.granRead b with
    | (d, x, _) => (d, x)
  else (d, Blk.bad)

/-- Bytes read by DPA, with the first poisoned block met. -/
def Dev.dpaRead (d : Dev) (a n : Nat) : Dev × List Byte × Option Nat :=
  (blockPieces a n).foldl (fun r p =>
    let (d, bs, bad) := r
    let (d, x) := d.dpaBlock p.1
    (d, bs ++ (x.bytes.drop p.2.1).take p.2.2.2, if x.poison then (if bad.isSome then bad else some (64 * p.1)) else bad)) (d, [], none)

/-- A park's resume record written into its core slot with PARKED set, once the slot's group reads ACTIVE (R127, R280, R447). -/
def Dev.writeResume (d : Dev) (c : CtxId) : Dev :=
  let x := d.ctx c
  match x.park with
  | none => d
  | some p =>
    match p.core with
    | none => d
    | some k =>
      let a := x.coreSlot k
      if d.regionActive a 0x200 then
        let (d, fl, _) := d.dpaRead (a + 3) 1
        let d := d.dpaWrite (a + 3) [(fl.getD 0 0) ||| 2]
        let d := d.dpaWrite (a + 0x100) (bytesOf 256 p.record)
        d.modCtx c (fun x => { x with park := some { p with unsaved := false } })
      else d

/-- PARKED in the resume record's core slot cleared, when the record was written there. -/
def Dev.clearParked (d : Dev) (c : CtxId) (p : Park) : Dev :=
  match p.core with
  | none => d
  | some k =>
    if p.unsaved then d
    else
      let a := (d.ctx c).coreSlot k + 3
      let (d, fl, _) := d.dpaRead a 1
      d.dpaWrite a [(fl.getD 0 0) &&& 0xFD]

/-- The fault mark of a saved Drill taken away: byte 258 of its cluster block (R156). With `all` its entries go too. -/
def Dev.clearDrillFault (d : Dev) (c : CtxId) (cl : Nat) (all : Bool) : Dev :=
  let a := (d.ctx c).clusterSlot cl
  let (d, fl, _) := d.dpaRead (a + 258) 1
  let d := d.dpaWrite (a + 258) [(fl.getD 0 0) &&& (if all then 0xFC else 0xFD)]
  if all then d.dpaWrite (a + 256) [0, 0] else d

/-- A resume point dropped, from the save image too where the context is saved (R86). -/
def Dev.dropResume (d : Dev) (c : CtxId) (p : Park) (all : Bool) : Dev :=
  let d := d.clearParked c p
  match p.drill with
  | some cl => if (d.ctx c).state = .parkedPreempted then d.clearDrillFault c cl all else d
  | none => d

/-- The resume points of a context's Drill transfers given up. -/
def Dev.unfault (d : Dev) (c : CtxId) : Dev :=
  d.mapDrills (fun xs => xs.map (fun t => if t.ctx = c then { t with faulted := false } else t))

/-- The request for a pre-emption withdrawn: what it had stopped goes on. -/
def Dev.cancelPreempt (d : Dev) (c : CtxId) : Dev :=
  let d := d.modCtx c (fun x => { x with preemptReq := none })
  { d with gr := { d.gr with
      cores := d.gr.cores.map (fun (e : Nat × Core) => if e.2.ctx = some c then (e.1, { e.2 with halted := 0, forced := false }) else e)
      clusters := d.gr.clusters.map (fun (e : Nat × Cluster) => if e.2.ctx = some c then (e.1, { e.2 with paused := false }) else e) } }

/-! ## Parks (R86, R120, R280, R281) -/

/-- What a park reports: the resume record's own fields (R280, R447) and the trap's (R120). -/
structure ParkInfo where
  cause : Nat
  kind : Nat
  seq : Nat
  stage : Nat
  core : Nat
  pc : Word
  id : Word
  origin : Nat
  queue : Nat
  sqIdx : Nat
  progress : Nat
  fault : Option (XFault × Nat)
  code : Nat
  tag : Option Tag
  /-- The cluster whose Drill faulted. -/
  drill : Option ClusterId

/-- The 256-byte resume record (R280, R447). -/
def ParkInfo.record (p : ParkInfo) (token : Word) (lt : Nat) (pasid : BitVec 20) : BitVec 2048 :=
  let (f, iova) : XFault × Nat := p.fault.getD (⟨0, false, false, false, 0, 0⟩, 0)
  BitVec.ofNat 2048 (packB [(0, p.kind), (1, f.kind), (2, b2n f.wr + 2 * b2n f.walk + 4 * b2n f.hostPage), (3, f.level),
    (4, token.toNat), (8, iova % 2 ^ 64), (16, lt % 2 ^ 64), (24, pasid.toNat), (28, p.seq % 4 + 4 * p.stage), (30, p.core),
    (32, p.pc.toNat), (36, p.id.toNat), (40, p.origin), (42, p.queue), (44, p.sqIdx), (48, p.progress % 2 ^ 64), (56, f.entry)])

/-- CL_CORE_TRAP (R128). -/
def ParkInfo.trapWord (p : ParkInfo) : Word := BitVec.ofNat 32 (p.cause + fld p.seq 8 + fld p.stage 10 + fld p.code 16)

/-- The token after a park's: never 0 (R281). -/
def nextToken (t : Word) : Word := if t + 1 = 0 then 1 else t + 1

/-- A trap or fault of a context's accepted work (R86, R120). An ACTIVE context parks: the record is written, CONTEXT_PARKED is
posted, every uncompleted descriptor has cause CONTEXT_FAULT (R76). In a STOPPING context the faulted descriptor, with that cause,
completes with FAULT_ABORTED. In any other state the context is already stopped and the trap is not the first. CL_CORE_TRAP is that of
the core whose slot receives the record (R120, R447). -/
def Dev.park (d : Dev) (c : CtxId) (p : ParkInfo) (slot : Option Nat) : Dev :=
  let x := d.ctx c
  let note (d : Dev) : Dev := match slot with
    | some n => d.modCore n (fun k => { k with trap := p.trapWord })
    | none => d
  match x.state with
  | .active =>
    let d := note d
    let token := nextToken x.token
    let rcd := p.record token d.lt x.pasid
    let d := d.setCtx c { x with state := .parked, token := token, park := some ⟨token, p.tag, p.cause, rcd,
      p.drill, slot, true⟩ }
    let d := d.writeResume c
    let d := d.blameAll (fun w => w.ctx = c && (match w.phase with | .finished _ _ => false | _ => true)) 1 (0x100 + p.cause)
    d.postCtx c 0x1002 (rcd.toNat % 2 ^ 256 + packB [(32, if p.kind = 2 then p.id.toNat else p.pc.toNat), (36, p.cause), (37, p.seq),
      (38, p.code)])
  | .stopping =>
    let d := (note d).modCtx c (fun x => { x with aborted := x.aborted + 1 })
    match p.tag with
    | none => d
    | some t =>
      let d := d.modWork t (fun w => w.blame 1 (0x100 + p.cause) d.lt)
      match d.work t with
      | none => d
      | some w => if dOp w.desc = 0x100 then d.endLaunch t 7 else d.finishWork t 7 0
  | _ => d

/-- A trap of a stream (R120): stage i of a core. Only a translation fault puts a fault into the record (R280, R447). -/
def Dev.trap (d : Dev) (core i cause code : Nat) (fault : Option (XFault × Nat)) : Dev :=
  let k := d.core core
  match k.ctx with
  | none => d
  | some c =>
    d.park c ⟨cause, 1, i / 8, i % 8, core, (k.stage i).pc, 0, 0, 0, 0, 0, if cause = 7 then fault else none, code, k.tag, none⟩ (some core)

/-! ## Core retirement (R120, R435 to R438) -/

/-- The tags of the LAUNCHes with an entry on a core that have not ended. -/
def Dev.launchesOn (d : Dev) (core : Nat) : List Nat :=
  (d.hq.infl.filter (fun e => dOp e.2.desc = 0x100 && e.2.entries.any (fun x => x.core = core)
    && (match e.2.phase with | .dispatched => true | _ => false))).map (·.1)

/-- The faulted descriptor of a park has been ended by a reset or a retirement: the token is void (R86, R438). -/
def Dev.voidPark (d : Dev) (tag : Tag) : Dev :=
  d.hq.ctxs.foldl (fun d e =>
    if h : e.1 < 256 then
      let c : CtxId := ⟨e.1, h⟩
      match e.2.park with
      | some p =>
        if p.tag = some tag then
          ((d.dropResume c p false).unfault c).modCtx c (fun x => { x with
            park := none
            state := match x.state with | .parked => .active | .parkedPreempted => .preempted | s => s })
        else d
      | none => d
    else d) d

/-- A LAUNCH or Drill descriptor ended by a retirement or reset; saved work ends when its context is restored (R438). -/
def Dev.endWork (d : Dev) (tag : Tag) (status : Nat) : Dev :=
  match d.work tag with
  | none => d
  | some w =>
    let s := (d.ctx w.ctx).state
    if status = 9 && (s = .preempted || s = .parkedPreempted) && dOp w.desc = 0x100 then
      let d := d.modCtx w.ctx (fun x => { x with retiredSaved := x.retiredSaved ++ [tag] })
      if (d.ctx w.ctx).park.any (fun p => p.tag = some tag) then (d.finishWork tag status 0).voidPark tag else d
    else if dOp w.desc = 0x100 then (d.endLaunch tag status).voidPark tag
    else (d.finishWork tag status 0).voidPark tag

/-- A KV_CREATE or KV_APPEND in a Drill's queue (R225); the header of an instruction's record is ignored (R148). -/
def DXfer.isKv (x : DXfer) : Bool := x.tag.isSome && (dOp x.rcd = 0x300 || dOp x.rcd = 0x301)

/-- UPD_CTX, when VALID (R356). -/
def Dev.updCtx (d : Dev) : Option CtxId :=
  let v := d.reg 0x120004
  if bitOf v.toNat 8 then some (BitVec.toFin (v.setWidth 8)) else none

/-- An update-engine event, on the ring of UPD_CTX (R398). -/
def Dev.postUpd (d : Dev) (code payload : Nat) : Dev :=
  match d.updCtx with
  | some c => d.postCtx c code payload
  | none => d

/-- Arrivals discarded: each is counted, and each collective posts one HOPPER_DISCARD a core (R374). -/
def Dev.discardArrivals (d : Dev) (core : Nat) (as : List Arrival) : Dev :=
  let d := if as.isEmpty then d else d.bump updSet 3 as.length
  ((as.map (·.coll)).eraseDups).foldl (fun d c =>
    if d.upd.told.contains (c, core) then d
    else
      let n := (as.filter (fun a => a.coll = c)).length
      ({ d with upd := { d.upd with told := d.upd.told ++ [(c, core)] } } : Dev).postUpd 0x8005 (packB [(0, core), (4, n), (8, c)])) d

/-- A core's Hopper cleared, with the arrivals that wait in the engine for it; later ones are discarded until its next LAUNCH
(R374). -/
def Dev.clearHopper (d : Dev) (core : Nat) : Dev :=
  let waiting := (d.upd.formed.filter (fun f => f.core = core)).map (·.arr)
  let d := d.discardArrivals core ((d.core core).hopper ++ waiting)
  let d := { d with upd := { d.upd with formed := d.upd.formed.filter (fun f => f.core != core) } }
  d.modCore core (fun k => { k with hopper := [], hopOpen := false })

/-- Transfers whose TARGET_CORE is a core leave the Drill; the descriptors among them are returned (R154). -/
def Dev.dropTransfers (d : Dev) (core : Nat) : Dev × List Tag :=
  let cl := clusterOf core
  let hit (x : DXfer) : Bool := !x.isKv && (xferOf x.rcd).core = core
  let ts := ((d.cluster cl).drill.filter hit).filterMap (·.tag)
  (d.modCluster cl (fun c => { c with drill := c.drill.filter (fun x => !hit x) }), ts)

/-- The transfers whose TARGET_CORE retires: one that moves stops at its next unit boundary, the others leave at once. Of these the
descriptors are returned, with the LAUNCHes whose instructions issued any; then those of the moving one (R120, R154, R435). -/
def Dev.stopTransfers (d : Dev) (core : Nat) : Dev × List Tag × List Tag :=
  let cl := clusterOf core
  let hit (x : DXfer) : Bool := !x.isKv && (xferOf x.rcd).core = core
  let xs := (d.cluster cl).drill.filter hit
  (d.modCluster cl (fun c => { c with drill := c.drill.filterMap (fun x =>
      if !hit x then some x else if x.moving then some { x with launch := none, stop := some 9 } else none) }),
    ((xs.filter (fun x => !x.moving)).filterMap (·.tag) ++ xs.filterMap (·.launch)).eraseDups, (xs.filter DXfer.moving).filterMap (·.tag))

/-- A core retired (R437): out of service, floor plan, CORE_RETIRED then FLOOR_PLAN_CHANGED, then the work on it ends. -/
def Dev.retireCore (d : Dev) (core cause : Nat) : Dev :=
  if !d.coreGood core then d
  else
    let seq := (d.fl.seq + 1).toNat
    let d := d.fpUpdate (fun f => { f with
      cores := Tbl.put f.cores core (BitVec.ofNat 32 (2 + fld 3 2 + fld cause 4 + fld (seq % 65536) 16))
      good := f.good - 1, retired := f.retired + 1 }.note 1 core 0 cause)
    let ctx := (d.core core).ctx
    let ls := d.launchesOn core
    let (d, ts, ms) := d.stopTransfers core
    let tags := (ls ++ ts.map (·.val)).eraseDups
    let d := devPost 4 0x2001 ctx false (packB [(0, core), (2, cause), (4, tags.length + ms.length)]) d
    let d := d.fpChanged 1 core 0
    let d := d.blameAll (fun w => w.entries.any (fun e => e.core = core)) 4 1
    let d := (ts ++ ms).foldl (fun d t => d.modWork t (fun w => w.blame 4 1 d.lt)) d
    let d := tags.foldl (fun d t => if h : t < 16384 then d.endWork ⟨t, h⟩ 9 else d) d
    let d := d.clearHopper core
    d.modCore core (fun k => { Core.empty with mism := k.mism, trap := k.trap, lastLt := k.lastLt, lastWord := k.lastWord
                                               lastCols := k.lastCols })

end Sys2Proof.Machine
end

