-- ==== Sys2Proof/Machine/Ranges.lean ====
section
/-!
DEFINITION. Sys2Proof/Machine/Ranges.lean: the six range operations of R245 to R255, which the RANGE instructions and opcodes
0x400 to 0x405 share, and the release of a context's pins and fallow entries (R250, R255).
-/
namespace Sys2Proof.Machine

/-- The result word of R246: OUTCOME and the saturating COUNT. -/
def rangeResult (outcome count : Nat) : Word := BitVec.ofNat 32 (outcome + fld (min count 0xFFFFFF) 8)

/-- The lowest free entry of a 64-entry table. -/
def freeEntry (t : Tbl RangeEntry) : Option Nat := firstWhere (fun i => (Tbl.find t i).isNone) 64

/-- An entry lies wholly inside a byte range. -/
def RangeEntry.inside (e : RangeEntry) (a n : Nat) : Bool := a ≤ e.base && e.base + 256 * e.lines ≤ a + n

/-- The dirty sectors of a line that lie in a fallow range dropped, each counted (R252). -/
def Dev.dropFallow (d : Dev) (l : Line) : Dev :=
  let secs := [0, 1].filter (fun s => bitOf l.dirty s && !(d.fallowAt l.half (256 * l.num + 128 * s) 128).isEmpty)
  if secs.isEmpty then d
  else
    let gone := (secs.map (2 ^ ·)).sum
    let d := d.bump (llcSet l.half) 4 secs.length
    let l' : Line := { l with valid := l.valid - gone, dirty := l.dirty - gone }
    if l'.valid = 0 then d.dropLine l else d.putLine l'.recode

/-- Pin entries of a half that satisfy a test released; their lines stay resident and unpinned (R250), but for the dirty sectors of a
fallow range (R252). -/
def Dev.releasePins (d : Dev) (h : Nat) (p : RangeEntry → Bool) : Dev × Nat :=
  let out := (d.half h).pins.filter (fun e => p e.2)
  let mine (l : Line) : Bool := l.half = h && out.any (fun e => e.2.hits (256 * l.num) 256)
  let freed := (d.mm.lines.filter mine).map (fun l => { l with pin := false })
  let d := d.modHalf h (fun x => { x with pins := x.pins.filter (fun e => !p e.2) })
  let d : Dev := { d with mm := { d.mm with lines := d.mm.lines.map (fun l => if mine l then { l with pin := false } else l) } }
  (freed.foldl Dev.dropFallow d, out.length)

/-- RELEASE of a context frees its pins and fallow entries (R250, R255). -/
def Dev.releaseRanges (d : Dev) (c : CtxId) : Dev :=
  [0, 1].foldl (fun d h =>
    let d := (d.releasePins h (fun e => e.ctx = c)).1
    d.modHalf h (fun x => { x with fallow := x.fallow.filter (fun e => !(e.2.ctx = c)) })) d

/-- A range of a half: where its page is placed, its first line and count of lines. -/
structure Span where
  place : Nat
  home : Nat
  num : Nat
  n : Nat

/-- The place of line i of a span. -/
def Span.loc (p : Span) (i : Nat) : Nat × Nat × Nat := locOf p.place p.home (p.num + i)

/-- The half that holds a span. -/
def Span.half (p : Span) : Nat := (p.loc 0).1

/-- What keeps an operation on a span waiting: the lines whose write-back waits for a channel under write hold, and the cause its issuer
counts where there is none. -/
abbrev Waiting := List Line × Nat

/-- A line of a span written back, and invalidated unless it is pinned (R247). The line that waits, when a channel under
write hold makes it wait. The count of lines acted on follows. -/
def Dev.cleanLine (d : Dev) (p : Span) (drop : Bool) (i : Nat) : Except Waiting (Dev × Nat) :=
  let (h, s, x) := p.loc i
  match d.findLine h s x (p.num + i) with
  | none => .ok (d, 0)
  | some l =>
    if d.wbHeld l then .error ([l], 6)
    else if drop && !l.pin then .ok (d.evict l, 1)
    else .ok (d.cleanSectors l [0, 1], b2n (drop || l.dirty != 0))

/-- The lines of a span written back and perhaps invalidated, in order. -/
def Dev.cleanLines (d : Dev) (p : Span) (drop : Bool) : List Nat → Nat → Except Waiting (Dev × Nat)
  | [], n => .ok (d, n)
  | i :: is, n =>
    match d.cleanLine p drop i with
    | .error ls => .error ls
    | .ok (d, k) => d.cleanLines p drop is (n + k)

/-- Pairs that would be pinned in a set after pinning a span (R249). -/
def Dev.pinnedAfter (d : Dev) (p : Span) (h s x : Nat) : Nat :=
  let old := ((d.setLines h s x).filter (fun l => l.pin)).map (·.num)
  let new := (List.range p.n).filter (fun i => p.loc i = (h, s, x) && !old.contains (p.num + i))
  old.length + new.length

/-- The invalid sectors of a line to be pinned filled, and the line pinned in its pair (R249). A group that does not serve leaves it as it
is (R27). -/
def Dev.pinFill (d : Dev) (tag : Option Tag) (l : Line) : Dev :=
  let a := 256 * l.num
  let fill (r : Dev × Line) (sec : Nat) : Dev × Line :=
    if bitOf r.2.valid sec then r
    else
      let (d, b0, b1, ret) := (r.1.request l.half false true).fetchSector (a + 128 * sec)
      (if ret then d.markRetired tag else d, r.2.fill sec b0 b1)
  if l.valid != 3 && (!d.groupServes (groupOf a) || !d.bridged l.half (groupOf a / 2)) then d.markUnreachable tag
  else
    let (d, l) := [0, 1].foldl fill (d.missDone l.half l.num, l)
    d.settle { l with pin := true }

/-- A line of a span pinned: it takes a whole pair and its invalid sectors are filled (R249). It waits for a write hold on its layer-half
or on a channel (R257, R272), and at the bounds of R242 and R271. -/
def Dev.pinLine (d : Dev) (tag : Option Tag) (p : Span) (i : Nat) : Except Waiting Dev :=
  let (h, s, x) := p.loc i
  let num := p.num + i
  match d.findLine h s x num with
  | some l =>
    let out := if l.two then [] else ((d.occupants h s x l.way true).filter (fun m => !m.same l)).filter d.wbHeld
    if d.layerHeld (layerOf l.pair) h && !(l.valid = 3 && l.two) then .error ([], 6)
    else if l.valid != 3 && (d.missFull h num || d.groupFull (groupOf (256 * num))) then .error ([], 10)
    else if !out.isEmpty then .error (out, 6)
    else .ok (d.pinFill tag l)
  | none =>
    if d.missFull h num || d.groupFull (groupOf (256 * num)) then .error ([], 10)
    else
      match d.makeRoom h s x true with
      | .stall ls => .error (ls, 6)
      | .none => .ok (d.modHalf h (fun y => { y with pins := y.pins.map (fun e =>
          if e.2.hits (256 * num) 256 then (e.1, { e.2 with flag := true }) else e) }))
      | .way d w => .ok (d.pinFill tag { Line.new num h s x w with two := true })

/-- The lines of a span pinned in order, or the lines whose eviction waits for a channel under write hold. -/
def Dev.pinLines (d : Dev) (tag : Option Tag) (p : Span) : List Nat → Except Waiting Dev
  | [] => .ok d
  | i :: is =>
    match d.pinLine tag p i with
    | .error ls => .error ls
    | .ok d => d.pinLines tag p is

/-- An operation on a translated span (R247 to R255): its result word, or the lines that wait on a channel under write hold. -/
def Dev.spanOp (d : Dev) (c : CtxId) (tag : Option Tag) (op : Nat) (trap : Bool) (p : Span) : Except Waiting (Dev × Word) :=
  let h := p.half
  let a := 256 * p.num
  let n := 256 * p.n
  let idx := List.range p.n
  match op with
  | 0 =>
    if idx.any (fun i => let (h, s, x) := p.loc i; d.pinWays h / 2 < d.pinnedAfter p h s x) then
      .ok (d.bump (llcSet h) 6 1, rangeResult 1 0)
    else if (d.half h).pins.any (fun e => e.2.hits a n) then .ok (d, rangeResult 2 0)
    else
      match freeEntry (d.half h).pins with
      | none => .ok (d, rangeResult 3 0)
      | some e =>
        ((d.modHalf h (fun x => { x with pins := Tbl.put x.pins e ⟨a, p.n, c, false⟩ })).pinLines tag p idx).map
          (fun d => (d, rangeResult 0 p.n))
  | 1 =>
    let (d, k) := d.releasePins h (fun e => e.ctx = c && e.inside a n)
    .ok (d, if k = 0 then rangeResult 4 0 else rangeResult 0 k)
  | 2 =>
    match freeEntry (d.half h).fallow with
    | some e => .ok (d.modHalf h (fun x => { x with fallow := Tbl.put x.fallow e ⟨a, p.n, c, trap⟩ }), rangeResult 0 p.n)
    | none => (d.cleanLines p true idx 0).map (fun r => (r.1.bump (llcSet h) 5 1, rangeResult 5 r.2))
  | 3 =>
    let hit (e : RangeEntry) : Bool := e.ctx = c && e.hits a n
    let k := ((d.half h).fallow.filter (fun e => hit e.2)).length
    .ok (d.modHalf h (fun x => { x with fallow := x.fallow.filter (fun e => !hit e.2) }),
      if k = 0 then rangeResult 4 0 else rangeResult 0 k)
  | _ => (d.cleanLines p (op = 5) idx 0).map (fun r => (r.1, rangeResult 0 r.2))

/-- A range operation at an I/O virtual address (R246). -/
def Dev.rangeOp (d : Dev) (ac : Acc) (op : Nat) (trap : Bool) (addr len : Nat) : Mv Word :=
  let a := addr / 256 * 256
  let n := len / 256
  if n = 0 then .ok d (rangeResult 6 0)
  else
    match d.xlate ac.ctx ac.cl .granary none a false with
    | (d, .fault f) => .fault d f a
    | (d, .wait) => .wait d a
    | (d, .host _) => .ok d (rangeResult 6 0)
    | (d, .gran dpa place home) =>
      let size := match d.leaf ac.ctx ac.cl a false with
        | (_, .ok (_, lv)) => if lv = 2 then 2 ^ 30 else 2 ^ 21
        | _ => 2 ^ 21
      if size < a % size + 256 * n then .ok d (rangeResult 6 0)
      else
        match d.spanOp ac.ctx ac.tag op trap ⟨place, home, dpa / 256, n⟩ with
        | .error ([], c) => .stall d c
        | .error (ls, _) => let (d, c) := d.waitBacks ls; .stall d c
        | .ok (d, w) => .ok d w

end Sys2Proof.Machine
end

