-- ==== Sys2Proof/Machine/Control.lean ====
section
/-!
DEFINITION. Sys2Proof/Machine/Control.lean: the control plane's commands: doorbells, arrival, holding and completion of
descriptors, the queue and context commands, classes, the mailbox, event rings and firmware load (02; R47 to R93, R502).
-/
namespace Sys2Proof.Machine

/-! ## Doorbells (R49 to R53) -/

/-- A queue enters ERROR with QUEUE_ERROR, reason 1 (R53). -/
def Dev.overrun (d : Dev) (q : QId) (val : Word) : Dev :=
  let x := d.queue q
  let d := d.setQueue q { x with state := .error }
  let d := d.postCtx x.ctx 0x1005 (packB [(0, q.val), (4, val.toNat), (8, x.done.toNat), (12, 1)])
  (d.discardHeld q).status q

/-- A doorbell takes effect: it is 32 bits wide at the start of its page, its function is the one the queue's context is bound to,
the queue is ENABLED and the index is newer than the last (R49, R50, R52). -/
def Dev.doorbellTakes (d : Dev) (vf : Fin 16) (off : BitVec 24) (width : Nat) (val : Word) : Bool :=
  let x := d.queue (off.toNat / 4096)
  let c := d.ctx x.ctx
  width = 32 && off.toNat % 4096 = 0 && c.state != .free && c.vf = vf && x.state = .enabled && newer val x.prod

/-- DOORBELL. While a device reset runs a doorbell is ignored without count (R458). -/
def Dev.doorbell (d : Dev) (vf : Fin 16) (off : BitVec 24) (width : Nat) (val : Word) : Dev :=
  let q : QId := ⟨off.toNat / 4096, Nat.div_lt_of_lt_mul off.isLt⟩
  if !d.serves .pcie 0x10000 then d
  else if d.doorbellTakes vf off width val then
    let x := d.queue q
    if 2 ^ x.log2 < (val - x.done).toNat then d.overrun q val else d.setQueue q { x with prod := val }
  else d.bump hqsSet 2 1

/-- DOORBELL (R49 to R53). -/
def execDoorbell (vf : Fin 16) (off : BitVec 24) (width : Nat) (val : Word) (s : State) : Host.Outcome State Fault Refusal :=
  s.onDev (fun d => d.doorbell vf off width val)

/-- BAR0_INVALID_ACCESS (R15): a read returns zero, a write is ignored. -/
def execBar0InvalidAccess (wr : Bool) (_off : Word) (_width : Nat) (_val : Word) (s : State) : Host.Outcome State Fault Refusal :=
  s.onDev (fun d => if wr then d else { d with env := { d.env with busRead := 0 } })

/-! ## The control partition at work (R51, R93, R279) -/

/-- The control partition runs and is not in a hand-off pause (R93). -/
def Dev.fwRuns (d : Dev) : Bool := d.hq.ctrlRun && d.hq.load != .updatePaused && d.on 94

/-- The control partition has been started, be it in a hand-off pause: descriptors still arrive, and are held for the pause, and records
are still written (R60, R93). -/
def Dev.fwUp (d : Dev) : Bool := d.hq.ctrlRun && d.on 94

/-- The next descriptor of a queue read from its ring (R51): one slot, exactly once. -/
def Dev.fetchDesc (d : Dev) (q : QId) : Front Rec64 :=
  let x := d.queue q
  match d.frontRead x.ctx (.queue q 1) (x.sq + (x.nextRead.toNat % 2 ^ x.log2) * 64) 64 with
  | .ok d bs => .ok (d.modQueue q (fun x => { x with nextRead := x.nextRead + 1 })) (recOf bs)
  | .fault d k => .fault d k
  | .wait d => .wait d

/-- A faulted submission ring (R279): the queue in ERROR, its held descriptors discarded, its block written as it
enters that state. -/
def Dev.sqFault (d : Dev) (q : QId) (kind : Nat) : Dev :=
  let x := d.queue q
  d.statusIfChanged ((d.faultQueue q 1 kind (x.sq + (x.nextRead.toNat % 2 ^ x.log2) * 64)).discardHeld q) q

/-! ## What becomes of faulted work (R86, R154) -/

/-- The work a park's fault belongs to is a LAUNCH, or the LAUNCH has ended already. -/
def Dev.ofLaunch (d : Dev) (p : Park) : Bool :=
  match p.tag with
  | none => true
  | some t => (d.work t).any (fun w => dOp w.desc = 0x100)

/-- Entries of a context leave a Drill without signals: the faulted one, or all. DESIGN CHOICE: of all, the descriptors complete with
FAULT_ABORTED (log 50). -/
def Dev.discardEntries (d : Dev) (c : CtxId) (cl : Nat) (all : Bool) : Dev :=
  let hit (x : DXfer) : Bool := x.ctx = c && (all || x.faulted)
  let ts := ((d.cluster cl).drill.filter hit).filterMap (·.tag)
  let d := d.modCluster cl (fun y => { y with drill := y.drill.filter (fun x => !hit x) })
  (ts.foldl (fun d t => d.finishWork t 7 0) d).freeCluster cl

/-- The faulted work of a park ends with FAULT_ABORTED (R86, R154). By ABORT_PARKED a fault of an instruction's transfer takes the
context's whole queue in that Drill. -/
def Dev.abortFaulted (d : Dev) (c : CtxId) (p : Park) (byAbort : Bool) : Dev :=
  let launch := d.ofLaunch p
  let d := match p.drill with
    | some cl => d.discardEntries c cl (byAbort && launch)
    | none => d
  match p.tag with
  | none => d
  | some t => if launch then d.endLaunch t 7 else d.finishWork t 7 0

/-! ## Queue commands (R54) -/

/-- A register of a queue as the firmware last accepted it (R88). -/
def Queue.reg (q : Queue) (off : Nat) : Nat := (Tbl.get q.regs off (if off = 0x101C then 6 else if off = 0x1020 then 1 else 0)).toNat

/-- ENABLE: its conditions, then the set-up taken and the queue ENABLED with the kept indices (R54, R502). -/
def Dev.enable (d : Dev) (q : QId) : Dev × Bool :=
  let x := d.queue q
  let cfg := x.reg 0x101C
  let cls := bits cfg 16 13
  if (x.state = .disabled || x.state = .stopped) && d.classBound cls != 0 then
    let d := d.setQueue q { x with
      state := .enabled
      sq := Tbl.get x.wide 0x1008 0
      cq := Tbl.get x.wide 0x1010 0
      st := Tbl.get x.wide 0x1018 0
      log2 := bits cfg 4 0
      ctx := BitVec.toFin (BitVec.ofNat 8 (bits cfg 12 5))
      cls := BitVec.toFin (BitVec.ofNat 4 cls)
      vec := bits cfg 27 17
      sqBad := false
      cqBad := false
      stBad := false
      accepted := 0
      held := []
      reason := 0
      nextRead := x.prod
      head := x.prod
      coalN := 0
      coalStart := none
      coalUs := 0 }
    (d.status q, true)
  else (d, false)

/-- Descriptors covered by a doorbell and not yet read complete with HELD_DISCARDED (R54). One that a fault keeps from being
read has a DESC_ID that is a free value (log 2). -/
def Dev.discardUnread (d : Dev) (q : QId) : Nat → Dev
  | 0 => d
  | n + 1 =>
    let x := d.queue q
    let give (d : Dev) (r : Rec64) : Dev := d.record q (plainRcd ⟨x.nextRead, r, false, 0⟩ 5)
    let blind (d : Dev) : Dev :=
      let (i, d) := d.takeFresh
      give (d.modQueue q (fun x => { x with nextRead := x.nextRead + 1 })) (BitVec.ofNat 512 (fld (Config.freeWord i).toNat 32))
    let d :=
      if x.sqBad then blind d
      else
        match d.fetchDesc q with
        | .ok d r => give d r
        | .fault d k => blind (d.faultQueue q 1 k (x.sq + (x.nextRead.toNat % 2 ^ x.log2) * 64))
        | .wait d => blind d
    d.discardUnread q n

/-- STOP of a queue (R54). -/
def Dev.queueStop (d : Dev) (q : QId) : Dev :=
  let x := d.queue q
  if x.state = .enabled || x.state = .error then
    let d := d.discardHeld q
    let d := d.discardUnread q ((d.queue q).prod - (d.queue q).nextRead).toNat
    let d := d.modQueue q (fun x => { x with state := .stopping, head := x.prod })
    if d.hq.infl.any (fun e => e.2.q = q) then d.status q else d.settleStop q x.ctx
  else d

/-- RESET_INDICES (R54). -/
def Dev.resetIndices (d : Dev) (q : QId) : Dev × Bool :=
  let x := d.queue q
  if x.state = .stopped then (d.setQueue q { x with prod := 0, head := 0, done := 0, nextRead := 0, ahead := [] }, true)
  else (d, false)

/-- FMW_LAST after a served write (R90). -/
def served (r : Dev × Bool) (off : Nat) : Dev := { r.1 with hq := { r.1.hq with lastOff := off, lastRes := b2n (!r.2) } }

/-- ENABLE (R54). -/
def execEnable (q : QId) (s : State) : Host.Outcome State Fault Refusal :=
  s.onDev (fun d => if d.fwRuns then served (d.enable q) 0x11024 else d)

/-- QUEUE_STOP (R54). -/
def execQueueStop (q : QId) (s : State) : Host.Outcome State Fault Refusal :=
  s.onDev (fun d => if d.fwRuns then served (d.queueStop q, true) 0x11024 else d)

/-- RESET_INDICES (R54). -/
def execResetIndices (q : QId) (s : State) : Host.Outcome State Fault Refusal :=
  s.onDev (fun d => if d.fwRuns then served (d.resetIndices q) 0x11024 else d)

/-! ## Context commands (R85, R86) -/

/-- A register of a context as the firmware last accepted it. -/
def Ctx.reg (x : Ctx) (off : Nat) : Nat := (Tbl.get x.regs off (if off = 0x201C then 6 else 0)).toNat

/-- States 1 to 5 (R85). -/
def CState.live (s : CState) : Bool := s != .free && s != .stopped

/-- The cluster mask as set up. -/
def Ctx.maskReg (x : Ctx) : BitVec 72 := BitVec.ofNat 72 (x.reg 0x2008 + fld (x.reg 0x200C) 32 + fld (x.reg 0x2010) 64)

/-- The conditions of ACTIVATE (R85, R127, R468). -/
def Dev.mayActivate (d : Dev) (c : CtxId) : Bool :=
  let x := d.ctx c
  let mask := x.maskReg
  let excl := bitOf (x.reg 0x2004) 24
  let n := 0x700000 * ones mask.toNat 72
  (x.state = .free || x.state = .stopped) && d.fl.valid && bitOf (d.reg (offXltCfg c)).toNat 0
    && !d.hq.ctxs.any (fun e => e.1 != c.val && e.2.state.live && e.2.mask &&& mask != 0 && (excl || e.2.exclusive))
    && (n = 0 || d.regionActive (Tbl.get x.wide 0x202C 0) n)

/-- The ring an ACTIVATE sets up (R84, R441): it starts afresh, or goes on where the same ring is taken up again. -/
def Ctx.newRing (x : Ctx) : Ring :=
  let base := Tbl.get x.wide 0x2018 0
  let cfg := x.reg 0x201C
  let head := Tbl.get x.wide 0x2024 0
  let r := x.ring
  if x.state = .free || r.base != base || r.log2 != bits cfg 4 0 || r.headAddr != head then
    { Ring.empty with isSet := true, base := base, log2 := bits cfg 4 0, vec := bits cfg 15 5, headAddr := head }
  else { r with isSet := true, vec := bits cfg 15 5, stopped := false }

/-- ACTIVATE: bound as R85 says, the token count restarted (R281). -/
def Dev.activate (d : Dev) (c : CtxId) : Dev × Bool :=
  if d.mayActivate c then
    let x := d.ctx c
    let cfg := x.reg 0x2004
    let job := (d.reg (offColJob c)).toNat
    let d := d.setCtx c { x with
      state := .active
      pasid := BitVec.ofNat 20 cfg
      vf := BitVec.toFin (BitVec.ofNat 4 (bits cfg 23 20))
      exclusive := bitOf cfg 24
      mask := x.maskReg
      save := Tbl.get x.wide 0x202C 0
      ring := x.newRing
      token := 0
      park := none
      discarded := 0
      aborted := 0
      preemptReq := none
      withheld := false
      saved := false
      retiredSaved := []
      wants := []
      hauls := []
      firsts := []
      job := if bitOf job 8 then some (bits job 6 0) else none }
    (if bitOf job 8 then { d with col := { d.col with armed := Tbl.erase d.col.armed (bits job 6 0) } } else d, true)
  else (d, false)

/-- STOP of a context (R86): held descriptors discarded, a faulted one aborted, other accepted work runs on. -/
def Dev.contextStop (d : Dev) (c : CtxId) : Dev × Bool :=
  let x := d.ctx c
  if x.state.live && x.state != .stopping then
    let d := (d.queuesOf c).foldl (fun d q => d.statusIfChanged (d.discardHeld q) q) d
    let d := match x.park with
      | none => d
      | some p => ((d.dropResume c p false).abortFaulted c p false).modCtx c (fun x => { x with park := none, aborted := x.aborted + 1 })
    let d := (d.unfault c).cancelPreempt c
    let d := d.modCtx c (fun x => { x with state := .stopping })
    (if d.hq.infl.any (fun e => e.2.ctx = c) then d
     else
       let y := d.ctx c
       (d.setCtx c { y with state := .stopped }).postCtx c 0x1004 (packB [(0, y.discarded), (4, y.aborted)]), true)
  else (d, false)

/-- RELEASE (R86, R250, R255): held descriptors discarded, the context unbound, its queues DISABLED, its pins and fallow entries
freed. -/
def Dev.releaseCtx (d : Dev) (c : CtxId) : Dev × Bool :=
  let x := d.ctx c
  if x.state = .stopped then
    let d := (d.queuesOf c).foldl (fun d q =>
      let d := d.discardHeld q
      let d := d.discardUnread q ((d.queue q).prod - (d.queue q).nextRead).toNat
      d.modQueue q (fun x => { x with state := .disabled, head := x.prod })) d
    let d := d.releaseRanges c
    (d.modCtx c (fun x => { x with
      state := .free
      pasid := 0
      vf := 0
      exclusive := false
      mask := 0
      save := 0
      park := none
      job := none }), true)
  else (d, false)

/-- A command of HQS_CTX_CMD carried out (R85, R86): 1 ACTIVATE, 2 STOP, 3 RELEASE. The register keeps the last one accepted (R88). -/
def Dev.ctxCmd (d : Dev) (c : CtxId) (cmd : Nat) : Dev × Bool :=
  let r := match cmd with
    | 1 => d.activate c
    | 2 => d.contextStop c
    | 3 => d.releaseCtx c
    | _ => (d, false)
  if r.2 then (r.1.modCtx c (fun x => { x with regs := Tbl.put x.regs 0x2030 (BitVec.ofNat 32 cmd) }), true) else r

/-- What the firmware does once the mailbox is empty: descriptors held for a stopped context are evaluated again (R86, R87). -/
def Dev.afterMail (d : Dev) (lic : Nat) : Dev := if d.hq.mail.isEmpty then d.reeval lic [2] else d

/-- ACTIVATE (R85). -/
def execActivate (c : CtxId) (s : State) : Host.Outcome State Fault Refusal :=
  s.onDev (fun d => if d.fwRuns then (served (d.ctxCmd c 1) 0x12030).afterMail s.sec.lic else d)

/-- CONTEXT_STOP (R86). -/
def execContextStop (c : CtxId) (s : State) : Host.Outcome State Fault Refusal :=
  s.onDev (fun d => if d.fwRuns then served (d.ctxCmd c 2) 0x12030 else d)

/-- RELEASE (R86). -/
def execRelease (c : CtxId) (s : State) : Host.Outcome State Fault Refusal :=
  s.onDev (fun d => if d.fwRuns then served (d.ctxCmd c 3) 0x12030 else d)

/-! ## Contract classes (R69, R70) -/

/-- The tests of R69 on a class's pair. -/
def Dev.classOk (d : Dev) (c bound budget : Nat) : Bool := budget + d.blockMax ≤ bound && d.utilWith c bound budget ≤ 1024

/-- HQS_CLASS_STATUS after a class write. -/
def Dev.classResult (d : Dev) (c : Nat) (ok : Bool) : Dev × Bool :=
  (if ok then { d with hq := { d.hq with checkFail := false } }
   else { d with hq := { d.hq with checkFail := true, lastClass := c } }, ok)

/-- A write of BOUND: 0 disables the class unless one of its queues is in use (R69). -/
def Dev.writeBound (d : Dev) (c : ClassId) (val : Word) : Dev × Bool :=
  let bound := bits val.toNat 23 0
  let ok := if bound = 0 then
      !d.hq.queues.any (fun e => e.2.cls = c && (e.2.state = .enabled || e.2.state = .stopping || e.2.state = .error))
    else d.classOk c bound (d.classBudget c)
  (if ok then d.setReg (0x10100 + 8 * c.val) (BitVec.ofNat 32 bound) else d).classResult c.val ok

/-- A write of BUDGET: stored without the tests while the class is disabled (R69). -/
def Dev.writeBudget (d : Dev) (c : ClassId) (val : Word) : Dev × Bool :=
  let budget := bits val.toNat 23 0
  let ok := d.classBound c = 0 || d.classOk c (d.classBound c) budget
  (if ok then d.setReg (0x10104 + 8 * c.val) (BitVec.ofNat 32 budget) else d).classResult c.val ok

/-- HQS_CLASS_BOUND (R69). -/
def execHqsClassBound (c : ClassId) (val : Word) (s : State) : Host.Outcome State Fault Refusal :=
  s.onDev (fun d => if d.fwRuns then served (d.writeBound c val) (0x10100 + 8 * c.val) else d)

/-- HQS_CLASS_BUDGET (R69). -/
def execHqsClassBudget (c : ClassId) (val : Word) (s : State) : Host.Outcome State Fault Refusal :=
  s.onDev (fun d => if d.fwRuns then served (d.writeBudget c val) (0x10104 + 8 * c.val) else d)

/-- HQS_BLOCK_MAX is taken (R70): in range, nothing accepted, and every enabled class still passes. -/
def Dev.blockMaxOk (d : Dev) (v : Nat) : Bool :=
  10 ≤ v && v ≤ 1000 && d.hq.infl.isEmpty
    && (List.range 16).all (fun c => d.classBound c = 0 || d.classBudget c + v ≤ d.classBound c)

/-- HQS_BLOCK_MAX (R70). -/
def Dev.writeBlockMax (d : Dev) (val : Word) : Dev :=
  let v := bits val.toNat 10 0
  if d.blockMaxOk v then d.setReg 0x10010 (BitVec.ofNat 32 v) else d

/-- HQS_BLOCK_MAX (R70). -/
def execHqsBlockMax (val : Word) (s : State) : Host.Outcome State Fault Refusal := s.onDev (fun d => d.atReg .pcie 0x10010 (fun d => d.writeBlockMax val))

/-! ## The mailbox (R89, R502) -/

/-- FE_WRITE: queued with the selection made at the time, or dropped when 64 wait (R89, R502). -/
def Dev.feWrite (d : Dev) (off val : Word) : Dev :=
  let o := off.toNat
  if 0x10000 ≤ o && isFe (o - 0x10000) then
    if d.hq.mail.length < 64 then
      { d with hq := { d.hq with mail := d.hq.mail ++
          [⟨off, val, BitVec.toFin (BitVec.ofNat 12 (d.reg 0x11000).toNat), BitVec.toFin (BitVec.ofNat 8 (d.reg 0x12000).toNat)⟩] } }
    else d.bump fmwSet 0 1
  else d

/-- FE_WRITE (R89). -/
def execFeWrite (off val : Word) (s : State) : Host.Outcome State Fault Refusal := s.onDev (fun d => d.atReg .pcie off.toNat (fun d => d.feWrite off val))

/-- The bits of an FE set-up register that hold a field (R88). -/
def feMask (off : Nat) : Nat :=
  if off = 0x1004 || off = 0x100C || off = 0x2014 then 0xFFFFF000
  else if off = 0x1014 then 0xFFFFFFC0
  else if off = 0x101C then 0x0FFFFFFF
  else if off = 0x2004 then 0x01FFFFFF
  else if off = 0x2010 then 0xFF
  else if off = 0x201C then 0xFFFF
  else if off = 0x2020 then 0xFFFFFFFC
  else if off = 0x2028 then 0xFFE00000
  else 0xFFFFFFFF

/-- A field of a set-up write outside its range (R502). -/
def feBad (off val : Nat) : Bool := (off = 0x101C || off = 0x201C) && (bits val 4 0 < 6 || 16 < bits val 4 0)

/-- A register file after a set-up write; a high word commits the pair (R15). -/
def feStore (regs : Tbl Word) (wide : Tbl Nat) (off : Nat) (val : Word) (hi : List Nat) : Tbl Word × Tbl Nat :=
  let v := BitVec.ofNat 32 (val.toNat &&& feMask off)
  (Tbl.put regs off v, if hi.contains off then Tbl.put wide off ((Tbl.get regs (off - 4) 0).toNat + fld v.toNat 32) else wide)

/-- A set-up write of a queue served (R502). -/
def Dev.queueSetup (d : Dev) (q : QId) (off : Nat) (val : Word) : Dev × Bool :=
  let x := d.queue q
  if feBad off val.toNat || (off != 0x1020 && x.state != .disabled && x.state != .stopped) then (d, false)
  else
    let (r, w) := feStore x.regs x.wide off val [0x1008, 0x1010, 0x1018]
    (d.setQueue q { x with regs := r, wide := w }, true)

/-- A set-up write of a context served (R502). -/
def Dev.ctxSetup (d : Dev) (c : CtxId) (off : Nat) (val : Word) : Dev × Bool :=
  let x := d.ctx c
  if feBad off val.toNat || (x.state != .free && x.state != .stopped) then (d, false)
  else
    let (r, w) := feStore x.regs x.wide off val [0x2018, 0x2024, 0x202C]
    (d.setCtx c { x with regs := r, wide := w }, true)

/-- One mailbox entry served (R502). -/
def Dev.serve (d : Dev) (m : Mail) : Dev × Bool :=
  let off := m.off.toNat - 0x10000
  if off < 0x180 then
    let c : ClassId := BitVec.toFin (BitVec.ofNat 4 ((off - 0x100) / 8))
    if off % 8 = 0 then d.writeBound c m.val else d.writeBudget c m.val
  else if off = 0x1024 then
    match bits m.val.toNat 2 0 with
    | 1 => d.enable m.q
    | 2 => (d.queueStop m.q, true)
    | 3 => d.resetIndices m.q
    | _ => (d, false)
  else if off = 0x2030 then d.ctxCmd m.ctx (bits m.val.toNat 2 0)
  else if off < 0x2000 then d.queueSetup m.q off m.val
  else d.ctxSetup m.ctx off m.val

/-- The oldest entry served (R89, R502). -/
def Dev.mailboxService (d : Dev) : Dev :=
  match d.hq.mail with
  | [] => d
  | m :: ms => if d.fwRuns then served (({ d with hq := { d.hq with mail := ms } } : Dev).serve m) m.off.toNat else d

/-- The mailbox served until it is empty (R87). -/
def Dev.serveMail (d : Dev) (lic : Nat) : Nat → Dev
  | 0 => d
  | n + 1 =>
    match d.hq.mail with
    | [] => d
    | [_] => d.mailboxService.afterMail lic
    | _ => d.mailboxService.serveMail lic n

/-- MAILBOX_SERVICE (R502). -/
def execMailboxService (s : State) : Host.Outcome State Fault Refusal := s.onDev (fun d => if d.hq.mail.isEmpty then d else d.mailboxService.afterMail s.sec.lic)

/-! ## Arrival, holding, completion (R57 to R66, R68, R87) -/

/-- A scheduling pass before rings are evaluated: the mailbox first (R87). -/
def Dev.pass (d : Dev) (lic : Nat) : Dev := if d.fwRuns then d.serveMail lic 64 else d

/-- Queues evaluated again for reasons that have lifted, after the mailbox (R60, R87). -/
def Dev.rescan (d : Dev) (lic : Nat) (why : List Nat) : Dev := if d.fwUp then (d.pass lic).reeval lic why else d

/-- The next descriptor of a queue read and evaluated. A queue in ERROR accepts nothing: what it still reads is discarded (R53). -/
def Dev.take (d0 : Dev) (lic : Nat) (q : QId) : Dev :=
  let x := d0.queue q
  if x.sqBad || x.nextRead = x.prod || !d0.fwUp then d0
  else if x.state = .enabled then
    match d0.fetchDesc q with
    | .fault d k => d.sqFault q k
    | .wait d => d
    | .ok d r =>
      let d := d.modQueue q (fun y => { y with held := y.held ++ [⟨x.nextRead, r, false, 0⟩] })
      Dev.statusTouch d0 (d.evalQueue lic q) q
  else if x.state = .error then
    match d0.fetchDesc q with
    | .fault d k => d.sqFault q k
    | .wait d => d
    | .ok d r => (d.modQueue q (fun y => { y with held := [⟨x.nextRead, r, false, 0⟩] })).discardHeld q
  else d0

/-- DESCRIPTOR_ARRIVAL: the mailbox, then the descriptor (R87). -/
def Dev.arrive (d : Dev) (lic : Nat) (q : QId) : Dev := (d.pass lic).take lic q

/-- DESCRIPTOR_ARRIVAL (R60, R67). -/
def execDescriptorArrival (q : QId) (s : State) : Host.Outcome State Fault Refusal := s.onDev (fun d => d.arrive s.sec.lic q)

/-- The queues of a class held for BUDGET, ascending from after the one that last received budget, wrapping (R62). -/
def Dev.budgetOrder (d : Dev) (c : ClassId) : List QId :=
  let qs := d.hq.queues.filterMap (fun e =>
    if h : e.1 < 4096 then (if e.2.cls = c && e.2.reason = 9 then some (⟨e.1, h⟩ : QId) else none) else none)
  match Tbl.find d.hq.lastQ c.val with
  | none => qs
  | some l => qs.filter (fun q => l < q.val) ++ qs.filter (fun q => q.val ≤ l)

/-- The queues of a class that are held for BUDGET evaluated in that order. -/
def Dev.reevalClass (d : Dev) (lic : Nat) (c : ClassId) : Dev := (d.budgetOrder c).foldl (fun d q => d.evalQueue lic q) d

/-- HELD_REEVALUATION: the mailbox, then the queues held for the class's budget (R62, R87). -/
def Dev.heldAgain (d : Dev) (lic : Nat) (c : ClassId) : Dev := if d.fwRuns then (d.pass lic).reevalClass lic c else d

/-- HELD_REEVALUATION (R62). -/
def execHeldReevaluation (c : ClassId) (s : State) : Host.Outcome State Fault Refusal := s.onDev (fun d => d.heldAgain s.sec.lic c)

/-- A completion can satisfy a FENCE or WAIT and frees a tag: the queues held for these are evaluated again. In a hand-off pause they
wait for its end. -/
def Dev.afterComplete (d : Dev) (lic : Nat) : Dev := if d.fwRuns then d.rescan lic [6, 7, 8] else d

/-- DESCRIPTOR_COMPLETE: the record is written, unless the host must first be asked for its page (R277). -/
def Dev.complete (d : Dev) (lic : Nat) (tag : Tag) : Dev :=
  match d.work tag with
  | none => d
  | some w =>
    match w.phase with
    | .finished st res =>
      match d.recordReady w.q w.idx with
      | (d, true) => (d.completeWork tag st res).afterComplete lic
      | (d, false) => d
    | _ => d

/-! ## The commands of group 0 (R58, R59) -/

/-- The accepted work of a tag, when it is the group-0 command of an opcode and the firmware runs. -/
def Dev.command0 (d : Dev) (tag : Tag) (op : Nat) : Option Work :=
  match d.work tag with
  | none => none
  | some w => if dOp w.desc = op && d.fwRuns && w.phase = .accepted then some w else none

/-- NOP (R58): RESULT is bits 31:0 of its own T_COMPLETE. -/
def execNop (tag : Tag) (s : State) : Host.Outcome State Fault Refusal :=
  s.onDev (fun d =>
    match d.command0 tag 0 with
    | none => d
    | some _ => (d.completeWork tag 0 (BitVec.ofNat 32 d.lt)).afterComplete s.sec.lic)

/-- The park a command's token names (R59): the context is PARKED or PARKED_PREEMPTED and the token is the park's. -/
def Dev.parkOf (d : Dev) (w : Work) : Option Park :=
  let x := d.ctx w.ctx
  if x.state = .parked || x.state = .parkedPreempted then
    match x.park with
    | some p => if p.token.toNat = fieldB w.desc 16 4 then some p else none
    | none => none
  else none

/-- A context leaves its park (R86): PARKED becomes ACTIVE, PARKED_PREEMPTED becomes PREEMPTED; Drill transfers that faulted
run again from their resume point. -/
def Dev.unpark (d : Dev) (lic : Nat) (c : CtxId) : Dev :=
  let x := d.ctx c
  let d := d.setCtx c { x with
    park := none
    state := match x.state with | .parked => .active | .parkedPreempted => .preempted | s => s }
  let d := d.unfault c
  if d.fwRuns then (d.pass lic).reevalCtx lic c else d

/-- RESUME_CONTEXT (R59, R86, R282). -/
def execResumeContext (tag : Tag) (s : State) : Host.Outcome State Fault Refusal :=
  s.onDev (fun d =>
    match d.command0 tag 1 with
    | none => d
    | some w =>
      match d.parkOf w with
      | none => (d.completeWork tag 4 0).afterComplete s.sec.lic
      | some p =>
        let d := if (d.ctx w.ctx).state = .parked then d.clearParked w.ctx p else d
        ((d.completeWork tag 0 0).unpark s.sec.lic w.ctx).afterComplete s.sec.lic)

/-- ABORT_PARKED (R59, R86). -/
def execAbortParked (tag : Tag) (s : State) : Host.Outcome State Fault Refusal :=
  s.onDev (fun d =>
    match d.command0 tag 2 with
    | none => d
    | some w =>
      match d.parkOf w with
      | none => (d.completeWork tag 4 0).afterComplete s.sec.lic
      | some p =>
        let d := (d.dropResume w.ctx p (d.ofLaunch p)).abortFaulted w.ctx p true
        ((d.completeWork tag 0 0).unpark s.sec.lic w.ctx).afterComplete s.sec.lic)

/-! ## Event rings (R81, R83, R84, R443) -/

/-- Records that wait for the device ring written in order while slots are free. -/
def Dev.drainDev (d : Dev) : List (Nat × Rec64) → Dev
  | [] => d
  | e :: es =>
    match d.devWrite e.1 e.2 with
    | (d, .done) => ((d.setDevRing { d.hq.devRing with waiting := es }).drainDev es)
    | (d, .full) => d
    | (d, .fault st k iova) =>
      (d.setDevRing { d.hq.devRing with stopped := true, waiting := [] }).post 0x5002 (xltFaultPayload 0xFFFF st k iova)

/-- HQS_DEV_EVQ_HI (R84, R279): the base is committed, the ring starts at slot 0 and writes to it resume; SEQ and LOST go on. -/
def Dev.setUpDevRing (d : Dev) (val : Word) : Dev :=
  let d := d.setReg 0x13004 val
  let base := (d.reg 0x13000).toNat + fld val.toNat 32
  let cfg := (d.reg 0x13008).toNat
  let d := d.setWide 0x13004 base
  let r := d.hq.devRing
  let d := d.setDevRing { r with
    isSet := true
    base := base
    log2 := bits cfg 4 0
    vec := bits cfg 15 5
    headAddr := d.wide64 0x13010
    headSeen := 0
    widx := 0
    stopped := false }
  if d.on 94 then d.drainDev r.waiting else d

/-- HQS_DEV_EVQ_HI (R84). -/
def execHqsDevEvqHi (val : Word) (s : State) : Host.Outcome State Fault Refusal := s.onDev (fun d => d.atReg .pcie 0x13004 (fun d => d.setUpDevRing val))

/-- Records that wait for a context's ring written in order while slots are free. -/
def Dev.drainCtx (d : Dev) (c : CtxId) : List (Nat × Rec64) → Dev
  | [] => d
  | e :: es =>
    match d.ctxWrite c e.1 e.2 with
    | (d, .done) => (d.setRing c { (d.ctx c).ring with waiting := es }).drainCtx c es
    | (d, .full) => d
    | (d, .fault st k iova) => (d.setRing c { (d.ctx c).ring with waiting := [] }).stopRing c st k iova

/-- WAITING_RECORD_WRITE (R84). -/
def execWaitingRecordWrite (ring : Option CtxId) (s : State) : Host.Outcome State Fault Refusal :=
  s.onDev (fun d =>
    if !d.on 94 then d
    else
      match ring with
      | none => if d.hq.devRing.isSet && !d.hq.devRing.stopped then d.drainDev d.hq.devRing.waiting else d
      | some c => if (d.ctx c).noRing then d else d.drainCtx c (d.ctx c).ring.waiting)

/-- COALESCING_TIMER (R81): COAL_US after the first uninterrupted record, as COAL_US stood at the last record (R502). -/
def execCoalescingTimer (q : QId) (s : State) : Host.Outcome State Fault Refusal :=
  s.onDev (fun d =>
    let x := d.queue q
    match x.coalStart with
    | none => d
    | some t =>
      if x.coalUs != 0 && t + 100 * x.coalUs ≤ d.lt then (d.setQueue q { x with coalN := 0, coalStart := none }).sendMsix x.vec else d)

/-- The deferred message of a ring sent at the end of its interval (R443). -/
def Ring.interval (r : Ring) (lt : Nat) : Option Ring :=
  match r.lastMsg with
  | none => none
  | some t => if r.msgDue && t + 200 ≤ lt then some { r with lastMsg := some lt, msgDue := false } else none

/-- EVENT_INTERRUPT_INTERVAL (R443). -/
def execEventInterruptInterval (ring : Option CtxId) (s : State) : Host.Outcome State Fault Refusal :=
  s.onDev (fun d =>
    match ring with
    | none =>
      match d.hq.devRing.interval d.lt with
      | none => d
      | some r => (d.setDevRing r).sendMsix r.vec
    | some c =>
      match (d.ctx c).ring.interval d.lt with
      | none => d
      | some r => (d.setRing c r).sendMsix r.vec)

/-- A queue that is active for R83. DESIGN CHOICE: one that is ENABLED, STOPPING or in ERROR (log 51). -/
def QState.active (s : QState) : Bool := s = .enabled || s = .stopping || s = .error

/-- STATUS_BLOCK_WRITE (R83): at most once a µs while the queue is active. -/
def execStatusBlockWrite (q : QId) (s : State) : Host.Outcome State Fault Refusal :=
  s.onDev (fun d =>
    let due := match (d.queue q).stLt with | none => true | some t => t + 100 ≤ d.lt
    if due && (d.queue q).state.active then d.status q else d)

/-! ## Firmware load and update (R91 to R93) -/

/-- The load state set. -/
def Dev.setLoad (d : Dev) (l : LoadState) : Dev := { d with hq := { d.hq with load := l } }

/-- A fetch starts with the address and length as they stand (R91). -/
def Dev.startFetch (d : Dev) (updating : Bool) : Dev :=
  { d with hq := { d.hq with
      load := .fetching
      updating := updating
      fetchAddr := d.wide64 0x20104
      fetchLen := bits (d.reg 0x20108).toNat 26 0 } }

/-- No load or update is in progress. -/
def LoadState.idleLoad (l : LoadState) : Bool := l != .fetching && l != .verifying && l != .updateWaiting && l != .updatePaused

/-- LOAD (R91): only while CTRL_RUN is 0 and the state is 0, 4, 5 or 10. -/
def execLoad (s : State) : Host.Outcome State Fault Refusal :=
  s.onDev (fun d =>
    let l := d.hq.load
    if d.reaches .pcie 0x2010C && !d.hq.ctrlRun && (l = .idle || l = .rejectSignature || l = .rejectFormat || l = .rejectFetch) then d.startFetch false else d)

/-- UPDATE (R91, R92): only while CTRL_RUN is 1 and nothing is in progress. -/
def execUpdate (s : State) : Host.Outcome State Fault Refusal :=
  s.onDev (fun d => if d.reaches .pcie 0x2010C && d.hq.ctrlRun && d.hq.load.idleLoad then d.startFetch true else d)

/-- The bundle fetched runs: where it lies, its version and the digest of its bytes. -/
def Dev.takeBundle (d : Dev) (version : Word) : Dev :=
  { d with hq := { d.hq with
      load := .running
      ctrlRun := true
      mgmtRun := true
      version := version
      bundleAddr := d.hq.fetchAddr
      bundleLen := d.hq.fetchLen
      digest := Config.sha512 (d.hostRead d.hq.fetchAddr d.hq.fetchLen) } }

/-- A control partition starts: the PROMISE_BROKEN owed since resets, oldest first (R79), and the status block of every queue that reads
STOPPED after a device reset (R83). -/
def Dev.firmwareStart (d : Dev) : Dev :=
  let owed := d.hq.owed
  let d := { d with hq := { d.hq with owed := [] } }
  let d := owed.foldl (fun d e => d.post 0x1001 (packB [(4, e.1), (12, 3), (14, e.2)])) d
  if owed.any (fun e => e.2 = 5) then
    (d.hq.queues.map (·.1)).foldl (fun d k =>
      if h : k < 4096 then (if (d.queue k).state = .stopped then d.status ⟨k, h⟩ else d) else d) d
  else d

/-- BUNDLE_FETCH_DONE (R91, R92): the bytes are in and are being verified, a host read has failed, or the verification is over. -/
def Dev.fetchDone (d : Dev) (v : BundleVerdict) : Dev :=
  if d.hq.load = .fetching || d.hq.load = .verifying then
    match v with
    | .fetched => d.setLoad .verifying
    | .hostError => if d.hq.load = .fetching then d.setLoad .rejectFetch else d
    | .badFormat => d.setLoad .rejectFormat
    | .badSignature => if 2 ^ 26 < d.hq.fetchLen then d.setLoad .rejectFormat else d.setLoad .rejectSignature
    | .good version =>
      if 2 ^ 26 < d.hq.fetchLen then d.setLoad .rejectFormat
      else if d.hq.updating then
        { d with hq := { d.hq with load := .updateWaiting, newVersion := version, waitLt := d.lt } }
      else (d.takeBundle version).firmwareStart
  else d

/-- BUNDLE_FETCH_DONE (R91). -/
def execBundleFetchDone (v : BundleVerdict) (s : State) : Host.Outcome State Fault Refusal := s.onDev (fun d => d.fetchDone v)

/-- Accepted work not yet dispatched. -/
def Work.undispatched (w : Work) : Bool := w.phase = .accepted || w.phase = .checked

/-- Slack of at least 2,000 µs (R92): the deadline less LT less the remaining COST. DESIGN CHOICE: work whose bound has not started has
no deadline yet (R64), and enough slack (log 49). -/
def Work.hasSlack (w : Work) (lt : Nat) : Bool :=
  match w.deadline with
  | none => true
  | some t => lt + (100 * dCost w.desc - w.spent) + 200000 ≤ t

/-- The LT at which a waiting update is abandoned (R92). -/
def Dev.deferEnd (d : Dev) : Nat := d.hq.waitLt + 100000 * bits (d.reg 0x20114).toNat 15 0

/-- UPDATE_PAUSE_START: before the deferral has run out (R92, R93). -/
def execUpdatePauseStart (s : State) : Host.Outcome State Fault Refusal :=
  s.onDev (fun d =>
    if d.hq.load = .updateWaiting && d.lt < d.deferEnd && d.hq.infl.all (fun e => !e.2.undispatched || e.2.hasSlack d.lt) then
      { d with hq := { d.hq with load := .updatePaused, pauseLt := d.lt } }
    else d)

/-- UPDATE_DEFER_EXPIRY (R92). -/
def execUpdateDeferExpiry (s : State) : Host.Outcome State Fault Refusal :=
  s.onDev (fun d =>
    if d.hq.load = .updateWaiting && d.deferEnd ≤ d.lt then
      ((d.setLoad .deferExpired).post 0xD002 9).rescan s.sec.lic [5]
    else d)

/-- The length of the pause in µs recorded (R93). -/
def Dev.endPause (d : Dev) : Dev := { d with hq := { d.hq with pauseUs := (d.lt - d.hq.pauseLt) / 100 } }

/-- Acceptance goes on after a pause: the mailbox, then every queue that holds a descriptor, those held for BUDGET last and in the order
of R62. -/
def Dev.resumeAfterPause (d : Dev) (lic : Nat) : Dev :=
  (List.finRange 16).foldl (fun d c => d.reevalClass lic c) (d.rescan lic [1, 2, 3, 4, 5, 6, 7, 8])

/-- NEW_IMAGE_READY (R93): within 1,500 µs of the pause's start. -/
def execNewImageReady (s : State) : Host.Outcome State Fault Refusal :=
  s.onDev (fun d =>
    if d.hq.load = .updatePaused && d.lt ≤ d.hq.pauseLt + 150000 then
      let d := (d.takeBundle d.hq.newVersion).endPause
      (d.post 0xD001 (packB [(0, d.hq.version.toNat), (4, d.hq.pauseUs)])).resumeAfterPause s.sec.lic
    else d)

/-- UPDATE_ROLLBACK (R93): the new image was not ready within 1,500 µs. -/
def execUpdateRollback (s : State) : Host.Outcome State Fault Refusal :=
  s.onDev (fun d =>
    if d.hq.load = .updatePaused && d.hq.pauseLt + 150000 < d.lt then
      let d := (d.setLoad .rolledBack).endPause
      (d.post 0xD002 (packB [(0, 8), (4, d.hq.pauseUs)])).resumeAfterPause s.sec.lic
    else d)

end Sys2Proof.Machine
end

