-- ==== Sys2Proof/Machine/Issue.lean ====
section
/-!
DEFINITION. Sys2Proof/Machine/Issue.lean: how a sequencer issues the instruction of its ACTIVE stage context (R103 to R108, R120,
R126): who may issue, the instruction buffer, and what becomes of the stage afterwards; loads and stores through the L1 cache
(R115 to R117, R244).
-/
namespace Sys2Proof.Machine

/-! ## Fields of an instruction word (R104) -/

/-- Bits hi to lo. -/
def wf (w : IWord) (hi lo : Nat) : Nat := fieldb w hi lo
/-- CLASS. -/
def iClass (w : IWord) : Nat := wf w 63 60
/-- TB, the tile-boundary mark. -/
def iTb (w : IWord) : Bool := bitOf w.toNat 59

/-- What an instruction comes to. -/
inductive Res where
  /-- Done: the next instruction follows. -/
  | done (d : Dev)
  /-- Done: the stream goes on at a byte offset. -/
  | jump (d : Dev) (pc : Word)
  /-- A trap: the instruction has no effect but what its translation counted (R120, R282). -/
  | trap (d : Dev) (cause code : Nat) (fault : Option (XFault × Nat))
  /-- The stage waits in place, for an idle cause (R108, R122). -/
  | stall (d : Dev) (cause : Nat)
  /-- The stage has left the ACTIVE state. -/
  | left (d : Dev)

/-- The LAUNCH resident on a core. -/
def Dev.launchOf (d : Dev) (core : Nat) : Option Work :=
  match (d.core core).tag with
  | none => none
  | some t => d.work t

/-- Another context's LAUNCH that still has its deadline waits for a cluster (R71). -/
def Dev.wanted (d : Dev) (c : CtxId) (cl : Nat) : Bool :=
  d.hq.infl.any (fun e => e.2.ctx != c && e.2.phase = .checked && !e.2.noDeadline && e.2.entries.any (fun x => clusterOf x.core = cl))

/-- A LAUNCH whose deadline no longer binds runs only in time that no other descriptor needs (R71): it yields a cluster that is wanted,
but for what takes it to the boundary of a pre-emption. -/
def Dev.yields (d : Dev) (core : Nat) : Bool :=
  match d.launchOf core with
  | none => false
  | some w => w.noDeadline && (d.ctx w.ctx).preemptReq.isNone && d.wanted w.ctx (clusterOf core)

/-- A core whose program may run: GOOD, powered, its context ACTIVE or STOPPING (R86, R120), its time not another's (R71). -/
def Dev.coreRuns (d : Dev) (core : Nat) : Bool :=
  let k := d.core core
  k.tag.isSome && d.coreGood core && d.on (clusterOf core) && !d.yields core &&
    match k.ctx with
    | none => false
    | some c => (d.ctx c).state = .active || (d.ctx c).state = .stopping

/-- The stage that issues on a sequencer: its ACTIVE stage, unless it has been stopped for a save. -/
def Dev.issuer (d : Dev) (a : At) : Option Nat :=
  let k := d.core a.core
  if d.coreRuns a.core && !bitOf k.halted a.seq then k.active a.seq else none

/-- The half a core lies in (R17). -/
def halfOf (core : Nat) : Nat := core % 36 / 18

/-- A core's stage as an agent (R278). -/
def Dev.coreAcc (d : Dev) (core i : Nat) (c : CtxId) : Acc :=
  ⟨c, (d.core core).tag, some (clusterOf core), halfOf core, .granary, none, core * 32 + i⟩

/-- LLC requests of a core that are outstanding (R119): its writes that wait under a hold, but for those of one issuer. -/
def Dev.llcOutBut (d : Dev) (core key : Nat) : Nat := (d.mm.heldWr.filter (fun e => e.1 / 32 = core && e.1 != key)).length

/-- CL_CORE_LLC_OUT (R119, R128). -/
def Dev.llcOut (d : Dev) (core : Nat) : Nat := (d.mm.heldWr.filter (fun e => e.1 / 32 = core)).length

/-- A core's request would be its 65th (R119). -/
def Dev.llcFull (d : Dev) (core i : Nat) : Bool := 64 ≤ d.llcOutBut core (core * 32 + i)

/-- The instruction buffer holds the block of a PC, or takes it from the LLC (R94, R103). DESIGN CHOICE: where all 16 blocks of a
sequencer's buffer are held, the oldest leaves (log 11). -/
def Dev.ifetch (d : Dev) (core i : Nat) (c : CtxId) : Mv Unit :=
  let k := d.core core
  let s := k.stage i
  let b := (s.base + s.pc.toNat) / 1024
  let have_ := Tbl.get k.ibuf (i / 8) []
  if have_.contains b then .ok d ()
  else if d.llcFull core i then .stall d 10
  else
    match d.readRange (d.coreAcc core i c) (1024 * b) 1024 with
    | .ok d _ =>
      .ok (d.modCore core (fun k => { k with
        ibuf := Tbl.put k.ibuf (i / 8) ((if have_.length < 16 then have_ else have_.drop 1) ++ [b]) })) ()
    | .fault d f a => .fault d f a
    | .wait d a => .wait d a
    | .stall d n => .stall d n

/-! ## Stopping at a tile boundary (R71, R72, R126) -/

/-- A stop of the context or of the LAUNCH waits for the core's next tile boundary. -/
def Dev.stopWanted (d : Dev) (core : Nat) : Bool :=
  let k := d.core core
  (match k.ctx with | none => false | some c => (d.ctx c).preemptReq.isSome)
    || (match k.tag with | none => false | some t => match d.work t with | none => false | some w => w.stopping)

/-- Every sequencer of a core has stopped and its operations are complete (R71, R126). -/
def Core.atRest (k : Core) : Bool := (List.range 3).all k.seqStopped && k.fops.isEmpty

/-- A LAUNCH that has reached its COST ends once its cores have stopped (R71). -/
def Dev.settleCost (d : Dev) (core : Nat) : Dev :=
  match (d.core core).tag with
  | none => d
  | some t =>
    match d.work t with
    | none => d
    | some w => if w.stopping && (d.coresWith t).all (fun k => (d.core k).atRest) then d.endLaunch t 6 else d

/-- A sequencer stops for a save or for COST. -/
def Dev.halt (d : Dev) (core seq : Nat) : Dev :=
  (d.modCore core (fun k => { k with halted := k.halted ||| 2 ^ seq })).settleCost core

/-! ## The end of a LAUNCH (R103) -/

/-- Every stage of a core has ended and its operations are complete. -/
def Core.finished (k : Core) : Bool := k.stages.all (fun e => e.2.state = .ended || e.2.state = .unused) && k.fops.isEmpty

/-- A LAUNCH whose every stage has ended leaves its cores, with RESULT the OR of its exit values. Its transfers run on. -/
def Dev.tryFinish (d : Dev) (tag : Tag) : Dev :=
  match d.work tag with
  | none => d
  | some w =>
    if w.phase = .dispatched && (d.coresWith tag).all (fun k => (d.core k).finished) then
      ((d.mapDrills (fun xs => xs.map (fun x => if x.launch = some tag then { x with launch := none } else x))).clearCores tag).finishWork
        tag 0 w.exits
    else d

/-! ## Issue -/

/-- A stage's stall ended, or begun for a cause (R122): a stall that goes on keeps its start. -/
def Stage.stalled (s : Stage) (cause lt : Nat) : Stage :=
  { s with stall := match s.stall with | some (_, t) => some (cause, t) | none => some (cause, lt) }

/-- What becomes of a stage after its instruction. -/
def Dev.resolve (_d : Dev) (core i : Nat) (r : Res) : Dev :=
  match r with
  | .done d => d.modCore core (fun k => k.modStage i (fun s => { s with pc := s.pc + 8, stall := none }))
  | .jump d pc => d.modCore core (fun k => k.modStage i (fun s => { s with pc := pc, stall := none }))
  | .trap d cause code fault => d.trap core i cause code fault
  | .stall d cause => d.modCore core (fun k => k.modStage i (fun s => s.stalled cause d.lt))
  | .left d => d

/-- A sequencer that a stop is wanted of stops at once where it is stalled or has no stage to run (R126). -/
def Dev.haltIdle (d : Dev) (core seq : Nat) : Dev :=
  let k := d.core core
  if k.tag.isSome && d.stopWanted core && !bitOf k.halted seq && k.seqStopped seq then d.halt core seq else d

/-- The ACTIVE stage of a sequencer issues an instruction: its fetch, its tile boundary, its meaning (R103, R104, R126), with a request to
the LLC only below the bound of R119. A word that is not the instruction the meaning is for does nothing. -/
def Dev.issue (d : Dev) (a : At) (w : IWord) (is : Bool) (f : Dev → CtxId → Nat → Res) : Dev :=
  if !is then d
  else
    match d.issuer a, (d.core a.core).ctx with
    | some i, some c =>
      match d.ifetch a.core i c with
      | .fault d g v => d.trap a.core i g.cause 0 (some (g, v))
      | .wait d _ => (d.resolve a.core i (.stall d 4)).haltIdle a.core a.seq
      | .stall d n => (d.resolve a.core i (.stall d n)).haltIdle a.core a.seq
      | .ok d _ =>
        let s := (d.core a.core).stage i
        if s.len ≤ s.pc.toNat then d.trap a.core i 1 0 none
        else if iTb w && d.stopWanted a.core then d.halt a.core a.seq
        else if iClass w = 4 && d.llcFull a.core i then (d.resolve a.core i (.stall d 10)).haltIdle a.core a.seq
        else (d.resolve a.core i (f d c i)).haltIdle a.core a.seq
    | _, _ => d

/-- The outcome of an access as an instruction's outcome. -/
def Mv.res {α : Type} (m : Mv α) (k : Dev → α → Res) : Res :=
  match m with
  | .ok d x => k d x
  | .fault d f a => .trap d f.cause 0 (some (f, a))
  | .wait d _ => .stall d 4
  | .stall d c => .stall d c

/-- A scalar register of a stage. -/
def Dev.sreg (d : Dev) (core i r : Nat) : Word := ((d.core core).stage i).reg r
/-- A scalar register of a stage written. -/
def Dev.setSreg (d : Dev) (core i r : Nat) (v : Word) : Dev := d.modCore core (fun k => k.modStage i (fun s => s.setReg r v))

/-- The licences a core's program runs under: those in force when its LAUNCH was accepted (R6). -/
def Dev.licOf (d : Dev) (core : Nat) : Nat := match d.launchOf core with | none => 0 | some w => w.lic

/-- Operations an array holds for a stage: a SIGNAL, or a read of their slot, waits for them (R106, R112). -/
def Core.holds (k : Core) (i : Nat) : Bool := k.fops.any (fun o => o.stage = i)

/-- A local-store range lies in the core's local store (R115). -/
def Core.inLocal (k : Core) (off n : Nat) : Bool := off + n ≤ k.ways * 32768

/-! ## The local store -/

/-- Bytes of the local store, poisoned blocks as zeros, and the DPA of the first poisoned one. -/
def Core.lsRead (k : Core) (off n : Nat) : List Byte × Option Nat :=
  let (bs, bad) := k.ls.read off n
  (bs, bad.head?.map (fun b => Tbl.get k.orig b 0))

/-- A block of a range of the local store is uncorrectable (R120). -/
def Core.lsBad (k : Core) (off n : Nat) : Bool := (blockPieces off n).any (fun p => decide (k.ls.par p.1 = .bad))

/-- An uncorrectable block met in the local store retires the core, with no effect of the instruction (R120). -/
def Dev.lsGuard (d : Dev) (core : Nat) (rs : List (Nat × Nat)) (r : Res) : Res :=
  if rs.any (fun x => (d.core core).lsBad x.1 x.2) then .left (d.retireCore core 9) else r

/-- Bytes written to the local store (R288). -/
def Core.lsWrite (k : Core) (off : Nat) (bs : List Byte) : Core := { k with ls := k.ls.write off bs }

/-- A block written to the local store as it travels, with the DPA it came from when it is poisoned. -/
def Core.lsPut (k : Core) (b : Nat) (x : Blk) (dpa : Nat) : Core :=
  { k with ls := k.ls.putBlk b x, orig := if x.poison then Tbl.put k.orig b dpa else Tbl.erase k.orig b }

/-! ## The L1 cache (R115, R116) -/

/-- The two blocks of a line as its reader receives them. -/
def L1Line.pair (e : L1Line) : Blk × Blk := (e.st.readBlk 0, e.st.readBlk 1)

/-- A line of two blocks with valid check bits. -/
def L1Line.of (line way : Nat) (b0 b1 : Blk) : L1Line := ⟨line, way, (Store.zero.putBlk 0 b0).putBlk 1 b1⟩

/-- A line of the L1 cache by the DPA of its 128 bytes. -/
def Core.l1Find (k : Core) (a : Nat) : Option L1Line := k.l1.find? (fun e => e.line = a)

/-- The lines of the set a line belongs to (log 11). -/
def Core.l1Same (k : Core) (a : Nat) : List L1Line := k.l1.filter (fun e => Config.l1Set (e.line / 128) = Config.l1Set (a / 128))

/-- A way used: the tree of its set points away from it. -/
def Core.l1Touch (k : Core) (a way : Nat) : Core :=
  let x := Config.l1Set (a / 128)
  { k with l1lru := Tbl.set k.l1lru x (touchTree (Tbl.get k.l1lru x 0) way) 0 }

/-- The way for a line that misses (R116): the lowest invalid cache way of its set, else the one the tree selects among the ways that
are not local store. -/
def Core.l1Way (k : Core) (a : Nat) : Option Nat :=
  let same := k.l1Same a
  match firstWhere (fun w => k.ways ≤ w && !same.any (fun e => e.way = w)) 8 with
  | some w => some w
  | none => plruPick (Tbl.get k.l1lru (Config.l1Set (a / 128)) 0) (fun w => k.ways ≤ w)

/-- A line allocated, in place of the one that held its way (R116); with LOCAL_WAYS 8 there is no way for it (R115). -/
def Core.l1Add (k : Core) (a : Nat) (b0 b1 : Blk) : Core :=
  match k.l1Way a with
  | none => k
  | some w =>
    let out := (k.l1Same a).filter (fun e => e.way = w)
    ({ k with l1 := k.l1.filter (fun e => !out.contains e) ++ [L1Line.of a w b0 b1] }).l1Touch a w

/-- A store updates the line if it is present (R116). -/
def Core.l1Store (k : Core) (dpa : Nat) (bs : List Byte) : Core :=
  { k with l1 := k.l1.map (fun e =>
      if e.line < dpa + bs.length && dpa < e.line + 128 then
        let lo := max dpa e.line
        { e with st := e.st.write (lo - e.line) ((bs.drop (lo - dpa)).take (e.line + 128 - lo)) }
      else e) }

/-- A whole block stored, poisoned or not, in the line if it is present (R116, R285). -/
def Core.l1Put (k : Core) (dpa : Nat) (b : Blk) : Core :=
  { k with l1 := k.l1.map (fun e => if e.line = dpa / 128 * 128 then { e with st := e.st.putBlk (dpa / 64 % 2) b } else e) }

/-- A block of a line changed. -/
def Core.l1Mod (k : Core) (line : Nat) (f : Store → Store) : Core :=
  { k with l1 := k.l1.map (fun e => if e.line = line then { e with st := f e.st } else e) }

/-- Upsets on a block that is about to be read: in the L1 line, the stacked-cache line or the granary that holds it. True when an
uncorrectable one struck the L1 cache, which retires the core (R120). A correctable one there is corrected (R187, R287). -/
def Dev.strikeAt (d : Dev) (core dpa place home : Nat) (u : Upset) : Dev × Bool :=
  let line := dpa / 128 * 128
  let i := dpa / 64 % 2
  match (d.core core).l1Find line with
  | some e =>
    let st := e.st.strike i u
    (d.modCore core (fun k => k.l1Mod line (fun _ => st.correct i (st.par i))), decide (st.par i = .bad))
  | none =>
    let (h, s, x) := locOf place home (dpa / 256)
    match d.findLine h s x (dpa / 256) with
    | some l =>
      if bitOf l.valid (dpa / 128 % 2) then
        (if l.enc = 1 then d else d.putLine { l with st := l.st.strike (if l.enc = 0 then dpa % 256 / 64 else i) u }, false)
      else (d.setGran (d.mm.gran.strike (dpa / 64) u), false)
    | none => (d.setGran (d.mm.gran.strike (dpa / 64) u), false)

/-- A sector read for a core through its L1 cache: the two blocks of a 128-byte line, in one request to the LLC where the L1 cache does
not hold it (R119, R244); none where it is UNREACHABLE. -/
def Dev.loadLine (d : Dev) (ac : Acc) (core iova : Nat) (alloc : Bool) : Mv (Option (Blk × Blk) × Nat) :=
  match d.xlate ac.ctx ac.cl ac.ag ac.who iova false with
  | (d, .fault f) => .fault d f iova
  | (d, .wait) => .wait d iova
  | (d, .host _) => .wait d iova
  | (d, .gran dpa place home) =>
    let line := dpa / 128 * 128
    match (d.core core).l1Find line with
    | some e => .ok (d.modCore core (fun k => k.l1Touch line e.way)) (some e.pair, dpa)
    | none =>
      match d.secRead ac.half place home line with
      | .stall d c => .stall d c
      | .unreachable d => .ok (d.markUnreachable ac.tag) (none, dpa)
      | .ok d b0 b1 _ ret =>
        let d := if ret then d.markRetired ac.tag else d
        .ok (if alloc then d.modCore core (fun k => k.l1Add line b0 b1) else d) (some (b0, b1), dpa)

/-- One 64-byte block loaded by a core through its L1 cache; none where it is UNREACHABLE. -/
def Dev.loadBlock (d : Dev) (ac : Acc) (core iova : Nat) (alloc : Bool) : Mv (Option Blk × Nat) :=
  (d.loadLine ac core iova alloc).bind (fun d r => .ok d (r.1.map (fun p => if r.2 / 64 % 2 = 0 then p.1 else p.2), r.2))

/-- A read of a fallow entry of the context with its trap enabled (R253): any 128-byte line of a translated range that the L1
cache does not hold. -/
def Dev.fallowTrap (d : Dev) (ac : Acc) (core : Nat) (addrs : List Nat) : Bool :=
  addrs.any (fun a =>
    match d.xlate ac.ctx ac.cl ac.ag ac.who a false with
    | (_, .gran dpa place home) =>
      ((d.core core).l1Find (dpa / 128 * 128)).isNone
        && (d.fallowAt (locOf place home (dpa / 256)).1 (dpa / 64 * 64) 64).any (fun e => e.ctx = ac.ctx && e.flag)
    | _ => false)

/-- Upsets applied to the blocks of a translated range. True when the L1 cache met an uncorrectable one. -/
def Dev.strikeAll (d : Dev) (ac : Acc) (core iova : Nat) (ups : List Upset) : Dev × Bool :=
  ups.foldl (fun r u =>
    match r.1.xlate ac.ctx ac.cl ac.ag ac.who (iova + 64 * u.block) false with
    | (d, .gran dpa place home) => let (d, b) := d.strikeAt core dpa place home u; (d, r.2 || b)
    | (d, _) => (d, r.2)) (d, false)

/-- The blocks of a 128-byte line that a load wants, put into the local store; an UNREACHABLE line leaves the bytes as they were. -/
def Core.lsTake (k : Core) (iova off n sector : Nat) (r : Option (Blk × Blk)) (dpa : Nat) : Core :=
  match r with
  | none => k
  | some p =>
    let put (k : Core) (i : Nat) (x : Blk) : Core :=
      let a := 128 * sector + 64 * i
      if iova ≤ a && a < iova + n then k.lsPut ((off + a - iova) / 64) x (dpa / 128 * 128 + 64 * i) else k
    put (put k 0 p.1) 1 p.2

/-- Lines loaded into the local store in order, each by one request. -/
def Dev.loadLines (d : Dev) (ac : Acc) (core : Nat) (alloc : Bool) (iova off n : Nat) : List Nat → Mv Unit
  | [] => .ok d ()
  | s :: ss =>
    (d.loadLine ac core (max iova (128 * s)) alloc).bind (fun d r =>
      (d.modCore core (fun k => k.lsTake iova off n s r.1 r.2)).loadLines ac core alloc iova off n ss)

/-- n bytes from a 64-byte-aligned address loaded into the local store (R244). -/
def Dev.loadBlocks (d : Dev) (ac : Acc) (core : Nat) (alloc : Bool) (iova off n : Nat) : Mv Unit :=
  d.loadLines ac core alloc iova off n ((List.range ((iova + n - 1) / 128 + 1 - iova / 128)).map (iova / 128 + ·))

/-! ## Fields used by every class -/

/-- An IOVA from two scalar registers. -/
def Dev.iova (d : Dev) (core i lo hi : Nat) : Nat := (d.sreg core i lo).toNat + fld (d.sreg core i hi).toNat 32

end Sys2Proof.Machine
end

