-- ==== Sys2Proof/Machine/Access.lean ====
section
/-!
DEFINITION. Sys2Proof/Machine/Access.lean: the classes ACCESS and RANGE and the range descriptors (R243 to R255), pin pressure
and the pin limit (R248, R251).
-/
namespace Sys2Proof.Machine

/-- The word is the ACCESS instruction of an OP. -/
def isAccess (op : Nat) (w : IWord) : Bool := iClass w = 4 && wf w 58 56 = op

/-- The IOVA of an ACCESS instruction. -/
def Dev.accAddr (d : Dev) (core i : Nat) (w : IWord) : Nat := d.iova core i (wf w 55 51) (wf w 50 46)

/-- A bulk ACCESS instruction checked: reserved bits and a LEN64 that is not 1 to 64 raise ILLEGAL_INSTRUCTION, a local-store range
past R115 LOCAL_RANGE. The meaning gets the IOVA, the local-store offset and the length. -/
def Dev.bulk (d : Dev) (core i : Nat) (w : IWord) (f : Nat → Nat → Nat → Res) : Res :=
  let n := wf w 40 34
  let off := (d.sreg core i (wf w 45 41)).toNat / 64 * 64
  if wf w 33 0 != 0 || n = 0 || 64 < n then .trap d 1 0 none
  else if !(d.core core).inLocal off (64 * n) then .trap d 2 0 none
  else f (d.accAddr core i w / 64 * 64) off (64 * n)

/-- LOAD and LOAD_NA (R244): every page is translated first (R282), then a fallow trap is looked for (R253). -/
def Dev.load (d : Dev) (core i : Nat) (c : CtxId) (w : IWord) (alloc : Bool) (ups : List Upset) : Res :=
  d.bulk core i w (fun iova off n =>
    let ac := d.coreAcc core i c
    (d.probe ac false (pageStarts iova n)).res (fun d _ =>
      if d.fallowTrap ac core (blockAddrs iova n) then .trap d 8 0 none
      else
        let (d, bad) := d.strikeAll ac core iova ups
        if bad then .left (d.retireCore core 9)
        else (d.loadBlocks ac core alloc iova off n).res (fun d _ => .done d)))

/-- ACCESS_LOAD (R244). -/
def execAccessLoad (at_ : At) (w : IWord) (ups : List Upset) (s : State) : Host.Outcome State Fault Refusal :=
  s.onDev (fun d => d.issue at_ w (isAccess 0 w) (fun d c i => d.load at_.core i c w true ups))

/-- LOAD_NA (R244). -/
def execLoadNa (at_ : At) (w : IWord) (s : State) : Host.Outcome State Fault Refusal :=
  s.onDev (fun d => d.issue at_ w (isAccess 4 w) (fun d c i => d.load at_.core i c w false []))

/-- A core's L1 line updated by a store of its own that has been performed (R116). -/
def Dev.l1Update (d : Dev) (ac : Acc) (core iova : Nat) (f : Nat → Core → Core) : Dev :=
  match d.xlate ac.ctx ac.cl ac.ag ac.who iova true with
  | (d, .gran dpa _ _) => d.modCore core (f dpa)
  | (d, _) => d

/-- Upsets on blocks of the local store that are about to be read; a correctable one is corrected (R187, R287). -/
def Dev.lsStrike (d : Dev) (core b : Nat) (ups : List Upset) : Dev :=
  ups.foldl (fun d u => d.modCore core (fun k =>
    let st := k.ls.strike (b + u.block) u
    { k with ls := st.correct (b + u.block) (st.par (b + u.block)) })) d

/-- STORE (R244): local-store blocks written through, poison kept; an uncorrectable one retires the core (R120). -/
def execStore (at_ : At) (w : IWord) (s : State) : Host.Outcome State Fault Refusal :=
  s.onDev (fun d => d.issue at_ w (isAccess 1 w) (fun d c i =>
    d.bulk at_.core i w (fun iova off n =>
      let ac := d.coreAcc at_.core i c
      let d := d.lsStrike at_.core (off / 64) (at_.hits.filter (fun u => u.block < n / 64))
      let k := d.core at_.core
      let bs := (List.range (n / 64)).map (fun j => k.ls.readBlk (off / 64 + j))
      d.lsGuard at_.core [(off, n)] ((d.writeBlocks ac iova bs).res (fun d _ =>
        .done ((List.range (n / 64)).foldl (fun d j =>
          d.l1Update ac at_.core (iova + 64 * j) (fun dpa k => k.l1Put dpa (bs.getD j Blk.bad))) d))))))

/-- A 4-byte ACCESS instruction checked. -/
def Dev.narrow (d : Dev) (core i : Nat) (w : IWord) (f : Nat → Res) : Res :=
  if wf w 40 0 != 0 then .trap d 1 0 none else f (d.accAddr core i w / 4 * 4)

/-- LOAD_S (R244): 4 bytes into SL; a poisoned block is consumed as zeros (R286). -/
def execLoadS (at_ : At) (w : IWord) (s : State) : Host.Outcome State Fault Refusal :=
  s.onDev (fun d => d.issue at_ w (isAccess 2 w) (fun d c i =>
    d.narrow at_.core i w (fun iova =>
      let ac := d.coreAcc at_.core i c
      (d.probe ac false [iova]).res (fun d _ =>
        if d.fallowTrap ac at_.core [iova] then .trap d 8 0 none
        else
          (d.loadBlock ac at_.core iova true).res (fun d r =>
            match r.1 with
            | none => .done d
            | some b =>
              let d := if b.poison then d.consume c ac.tag (clusterOf at_.core) 4 (r.2 / 64 * 64) else d
              let v := leNat ((b.bytes.drop (iova % 64)).take 4)
              .done (d.setSreg at_.core i (wf w 45 41) (BitVec.ofNat 32 v)))))))

/-- STORE_S (R244): SL's 4 bytes as a narrow write. -/
def execStoreS (at_ : At) (w : IWord) (s : State) : Host.Outcome State Fault Refusal :=
  s.onDev (fun d => d.issue at_ w (isAccess 3 w) (fun d c i =>
    d.narrow at_.core i w (fun iova =>
      let ac := d.coreAcc at_.core i c
      let bs := bytesOf 4 (d.sreg at_.core i (wf w 45 41))
      (d.writeRange ac iova bs).res (fun d _ => .done (d.l1Update ac at_.core iova (fun dpa k => k.l1Store dpa bs))))))

/-! ## RANGE (R245 to R255) -/

/-- A RANGE instruction of an OP (R245). -/
def Dev.range (d : Dev) (a : At) (w : IWord) (op : Nat) : Dev :=
  d.issue a w (iClass w = 9 && wf w 58 56 = op) (fun d c i =>
    if wf w 34 0 != 0 || (op != 2 && bitOf w.toNat 35) then .trap d 1 0 none
    else
      (d.rangeOp (d.coreAcc a.core i c) op (bitOf w.toNat 35) (d.accAddr a.core i w) (d.sreg a.core i (wf w 45 41)).toNat).res
        (fun d v => .done (d.setSreg a.core i (wf w 40 36) v)))

/-- RANGE_PIN (R249). -/
def execRangePin (at_ : At) (w : IWord) (s : State) : Host.Outcome State Fault Refusal := s.onDev (fun d => d.range at_ w 0)
/-- RANGE_UNPIN (R250). -/
def execRangeUnpin (at_ : At) (w : IWord) (s : State) : Host.Outcome State Fault Refusal := s.onDev (fun d => d.range at_ w 1)
/-- RANGE_FALLOW (R252). -/
def execRangeFallow (at_ : At) (w : IWord) (s : State) : Host.Outcome State Fault Refusal := s.onDev (fun d => d.range at_ w 2)
/-- RANGE_RESOW (R254). -/
def execRangeResow (at_ : At) (w : IWord) (s : State) : Host.Outcome State Fault Refusal := s.onDev (fun d => d.range at_ w 3)
/-- RANGE_WRITEBACK (R247). -/
def execRangeWriteback (at_ : At) (w : IWord) (s : State) : Host.Outcome State Fault Refusal := s.onDev (fun d => d.range at_ w 4)
/-- RANGE_INVALIDATE (R247). -/
def execRangeInvalidate (at_ : At) (w : IWord) (s : State) : Host.Outcome State Fault Refusal := s.onDev (fun d => d.range at_ w 5)

/-- Dispatched work of an opcode, whose context runs. -/
def Dev.running (d : Dev) (tag : Tag) (op : Nat) : Option Work :=
  match d.work tag with
  | none => none
  | some w =>
    let st : CState := (d.ctx w.ctx).state
    if w.phase = .dispatched && dOp w.desc = op && (st = .active || st = .stopping) then some w else none

/-- The firmware and its engines as an agent for a descriptor: they lie in the headland and send page requests (R277, R278). -/
def Work.acc (w : Work) (tag : Tag) (ag : Agent) : Acc :=
  ⟨w.ctx, some tag, none, 2, ag, if ag = .both then some (.work tag) else none, 0x100000 + tag.val⟩

/-- The core slot for a record without a core (R447): the lowest GOOD core of the lowest cluster of the mask that has one. -/
def Dev.spareSlot (d : Dev) (c : CtxId) : Option Nat :=
  (setBits (d.ctx c).mask.toNat 72).findSome? (fun cl => ((coresOf cl).mergeSort (· ≤ ·)).find? d.coreGood)

/-- A descriptor's fault parks its context (R246, R278): no core traps, and the record goes where R447 puts one without a core. -/
def Dev.parkWork (d : Dev) (tag : Tag) (w : Work) (cause : Nat) (fault : Option (XFault × Nat)) : Dev :=
  d.park w.ctx ⟨cause, if cause = 7 || cause = 9 then 0 else 1, 3, 0, 0xFFFF, 0, dId w.desc, 0, w.q.val, w.idx.toNat, 0,
      if cause = 7 then fault else none, 0, some tag, none⟩
    (d.spareSlot w.ctx)

/-- A token of a core that a descriptor's hardware source would overflow parks its context: the core's own trap, with SEQ 3 (R114, R120). -/
def Dev.parkAt (d : Dev) (tag : Tag) (w : Work) (core : Nat) : Dev :=
  d.park w.ctx ⟨4, 1, 3, 0, core, 0, dId w.desc, 0, w.q.val, w.idx.toNat, 0, none, 0, some tag, none⟩ (some core)

/-- A range descriptor of opcode 0x400 + OP (R245, R246): STATUS OK whatever its OUTCOME. -/
def Dev.rangeDesc (d : Dev) (tag : Tag) (op : Nat) : Dev :=
  match d.running tag (0x400 + op) with
  | none => d
  | some w =>
    match d.rangeOp (w.acc tag .granary) op (bitOf (fieldB w.desc 28 1) 0) (fieldB w.desc 16 8) (fieldB w.desc 24 4) with
    | .ok d v => d.finishWork tag 0 v
    | .fault d f a => d.parkWork tag w f.cause (some (f, a))
    | .wait d _ => d
    | .stall d _ => d

/-- PIN (R249). -/
def execPin (tag : Tag) (s : State) : Host.Outcome State Fault Refusal := s.onDev (fun d => d.rangeDesc tag 0)
/-- UNPIN (R250). -/
def execUnpin (tag : Tag) (s : State) : Host.Outcome State Fault Refusal := s.onDev (fun d => d.rangeDesc tag 1)
/-- FALLOW (R252). -/
def execFallow (tag : Tag) (s : State) : Host.Outcome State Fault Refusal := s.onDev (fun d => d.rangeDesc tag 2)
/-- RESOW (R254). -/
def execResow (tag : Tag) (s : State) : Host.Outcome State Fault Refusal := s.onDev (fun d => d.rangeDesc tag 3)
/-- WRITEBACK (R247). -/
def execWriteback (tag : Tag) (s : State) : Host.Outcome State Fault Refusal := s.onDev (fun d => d.rangeDesc tag 4)
/-- INVALIDATE (R247). -/
def execInvalidate (tag : Tag) (s : State) : Host.Outcome State Fault Refusal := s.onDev (fun d => d.rangeDesc tag 5)

/-! ## Pin pressure and the pin limit (R248, R251) -/

/-- LLC_PIN_LINES of a half. -/
def Dev.pinLinesOf (d : Dev) (h : Nat) : Nat := (d.mm.lines.filter (fun l => l.half = h && l.pin)).length

/-- PRESSURE_WINDOW (R251). A window ends at an LT multiple of 10,000. -/
def Dev.pressure (d : Dev) (h : Nat) : Dev :=
  let x := d.half h
  let thresh := bits (d.reg 0xA0014).toNat 10 0
  let ratio := if x.winReq = 0 then 0 else 1024 * x.winMiss / x.winReq
  let above := x.winReq != 0 && (if thresh = 0 then 0 < x.winMiss else thresh < ratio) && thresh < 1024
  let close (f : LlcHalf → LlcHalf) : Dev := d.modHalf h (fun x => f { x with winReq := 0, winMiss := 0, ratio := ratio })
  if above then
    if d.pinLinesOf h = 0 then close id
    else
      let run := min 8 (x.run + 1)
      let d' := close (fun x => { x with run := run, raised := x.raised || run = 8 })
      if run = 8 && !x.raised then d'.post 0x3001 (packB [(0, h), (2, ratio), (4, d.pinLinesOf h)]) else d'
  else close (fun x => { x with run := 0, raised := false })

/-- PRESSURE_WINDOW (R251). -/
def execPressureWindow (h : HalfId) (s : State) : Host.Outcome State Fault Refusal := s.onDev (fun d => if d.lt % 10000 = 0 then d.pressure h else d)

/-- LLC_PIN_LIMIT (R248): a value above 75 is ignored. -/
def execLlcPinLimit (h : HalfId) (val : Word) (s : State) : Host.Outcome State Fault Refusal :=
  s.onDev (fun d =>
    let p := bits val.toNat 6 0
    if 75 < p || !d.reaches .pcie 0xA0100 then d else d.setReg (0xA0100 + 0x100 * h.val) (BitVec.ofNat 32 p))

end Sys2Proof.Machine
end

