-- ==== Sys2Proof/Machine/Num.lean ====
section
/-!
DEFINITION. Sys2Proof/Machine/Num.lean: numbers (05; R158 to R186): the formats, exact values, rounding, conversions with their
scales, the cell step, stochastic rounding.
-/
namespace Sys2Proof.Machine

/-! ## Values and formats (R158) -/

/-- An exact value: NaN, an infinity, or (−1)^neg · m · 2^e. -/
inductive Val where
  | nan
  | inf (neg : Bool)
  | fin (neg : Bool) (m : Nat) (e : Int)
  deriving DecidableEq, Repr

/-- Exponent bits, mantissa bits and bias of a format code. -/
def fmtSpec (f : Nat) : Nat × Nat × Nat :=
  match f with
  | 0 => (2, 1, 1) | 1 => (3, 2, 3) | 2 => (2, 3, 1) | 3 => (4, 3, 7) | 4 => (5, 2, 15) | 5 => (8, 7, 127) | 6 => (5, 10, 15)
  | 7 => (8, 23, 127) | _ => (11, 52, 1023)

/-- The code of the largest finite magnitude. -/
def maxCode (f : Nat) : Nat :=
  match f with
  | 0 => 0x7 | 1 => 0x1F | 2 => 0x1F | 3 => 0x7E | 4 => 0x7B | 5 => 0x7F7F | 6 => 0x7BFF | 7 => 0x7F7FFFFF
  | _ => 0x7FEFFFFFFFFFFFFF

/-- The canonical NaN (R159); formats 0 to 2 have none. -/
def nanCode (f : Nat) : Nat :=
  match f with
  | 3 => 0x7F | 4 => 0x7E | 5 => 0x7FC0 | 6 => 0x7E00 | 7 => 0x7FC00000 | 8 => 0x7FF8000000000000 | _ => maxCode f

/-- The code of +infinity, for the formats that have one. -/
def infCode (f : Nat) : Nat :=
  match f with
  | 4 => 0x7C | 5 => 0x7F80 | 6 => 0x7C00 | 7 => 0x7F800000 | 8 => 0x7FF0000000000000 | _ => nanCode f

/-- A code with a sign. -/
def withSign (f : Nat) (neg : Bool) (code : Nat) : Nat := code + (if neg then 2 ^ (fmtBits f - 1) else 0)

/-- The value of a code (R158). -/
def decode (f x : Nat) : Val :=
  let (eb, mb, bias) := fmtSpec f
  let neg := bitOf x (eb + mb)
  let e := bits x (eb + mb - 1) mb
  let m := lowBits x mb
  if 4 ≤ f && e = 2 ^ eb - 1 then (if m = 0 then .inf neg else .nan)
  else if f = 3 && lowBits x 7 = 0x7F then .nan
  else if e = 0 then .fin neg m (1 - (bias : Int) - mb)
  else .fin neg (2 ^ mb + m) ((e : Int) - bias - mb)

/-- Zero. -/
def Val.zero (neg : Bool) : Val := .fin neg 0 0
/-- An integer power of two. -/
def Val.pow2 (e : Int) : Val := .fin false 1 e
/-- The value is zero. -/
def Val.isZero : Val → Bool
  | .fin _ m _ => m = 0
  | _ => false
/-- The value is NaN. -/
def Val.isNan : Val → Bool
  | .nan => true
  | _ => false
/-- The value is finite. -/
def Val.isFin : Val → Bool
  | .fin _ _ _ => true
  | _ => false
/-- The sign of a value. -/
def Val.sign : Val → Bool
  | .nan => false
  | .inf n => n
  | .fin n _ _ => n
/-- The sign replaced; a NaN stays NaN. -/
def Val.setSign (v : Val) (n : Bool) : Val :=
  match v with
  | .nan => .nan
  | .inf _ => .inf n
  | .fin _ m e => .fin n m e
/-- The negated value. -/
def Val.neg (v : Val) : Val := v.setSign (!v.sign)
/-- The magnitude. -/
def Val.abs (v : Val) : Val := v.setSign false

/-- ⌊log2⌋ of a finite non-zero magnitude. -/
def Val.log2 : Val → Int
  | .fin _ m e => (Nat.log2 m : Int) + e
  | _ => 0

/-- A signed integer at a power of two: the value of n · 2^e, a zero taking the given sign. -/
def valOfInt (n : Int) (e : Int) (zeroNeg : Bool) : Val :=
  if n = 0 then .fin zeroNeg 0 0 else .fin (n < 0) n.natAbs e

/-- A finite value as an integer at a power of two not above its own. -/
def Val.at (v : Val) (g : Int) : Int :=
  match v with
  | .fin n m e => (if n then -1 else 1) * ((m * 2 ^ (e - g).toNat : Nat) : Int)
  | _ => 0

/-- The exponent of a finite value. -/
def Val.exp : Val → Int
  | .fin _ _ e => e
  | _ => 0

/-- The exact sum under IEEE rules; an exact zero of differing signs is +0. -/
def Val.add (a b : Val) : Val :=
  match a, b with
  | .nan, _ => .nan
  | _, .nan => .nan
  | .inf s, .inf t => if s = t then .inf s else .nan
  | .inf s, _ => .inf s
  | _, .inf t => .inf t
  | .fin s m e, .fin t n f =>
    let g := min e f
    valOfInt (Val.at (.fin s m e) g + Val.at (.fin t n f) g) g (s && t)

/-- The exact product under IEEE rules. -/
def Val.mul (a b : Val) : Val :=
  match a, b with
  | .nan, _ => .nan
  | _, .nan => .nan
  | .inf s, .inf t => .inf (s != t)
  | .inf s, .fin t n _ => if n = 0 then .nan else .inf (s != t)
  | .fin s m _, .inf t => if m = 0 then .nan else .inf (s != t)
  | .fin s m e, .fin t n f => .fin (s != t) (m * n) (e + f)

/-- a < b for values that are not NaN; the zeros are equal. -/
def Val.lt (a b : Val) : Bool :=
  match a, b with
  | .nan, _ => false
  | _, .nan => false
  | .inf s, .inf t => s && !t
  | .inf s, _ => s
  | _, .inf t => !t
  | .fin s m e, .fin t n f => Val.at (.fin s m e) (min e f) < Val.at (.fin t n f) (min e f)

/-- a = b for values that are not NaN. -/
def Val.eq (a b : Val) : Bool := !a.isNan && !b.isNan && !Val.lt a b && !Val.lt b a

/-! ## Rounding (R162 to R164) -/

/-- m · 2^(e − u) rounded to the nearest integer, ties to even. -/
def rneShift (m : Nat) (e u : Int) : Nat :=
  if u ≤ e then m * 2 ^ (e - u).toNat
  else
    let k := (u - e).toNat
    let q := m / 2 ^ k
    let r := m % 2 ^ k
    let h := 2 ^ (k - 1)
    if h < r || (r = h && q % 2 = 1) then q + 1 else q

/-- The exponent of the last place of a format at a magnitude m · 2^e, the subnormal range included. -/
def ulpExp (f m : Nat) (e : Int) : Int :=
  let (_, mb, bias) := fmtSpec f
  max ((Nat.log2 m : Int) + e) (1 - bias) - mb

/-- The magnitude code of an integer count of last places. -/
def codeOf (f n : Nat) (u : Int) : Nat :=
  let (_, mb, bias) := fmtSpec f
  n + (u + mb - (1 - bias)).toNat * 2 ^ mb

/-- The magnitude code of m · 2^e rounded to nearest even, with no bound above. -/
def roundMag (f m : Nat) (e : Int) : Nat :=
  if m = 0 then 0 else codeOf f (rneShift m e (ulpExp f m e)) (ulpExp f m e)

/-- A finite value rounded to a format's code, an overflow going to the infinity, or with sat to the largest finite (R163). -/
def roundFin (f : Nat) (sat : Bool) (n : Bool) (m : Nat) (e : Int) : Nat :=
  let c := roundMag f m e
  withSign f n (if c ≤ maxCode f then c else if sat || f ≤ 3 then maxCode f else infCode f)

/-- A value in FP32, nearest-even (RNE32). -/
def rne32 (v : Val) : Word :=
  BitVec.ofNat 32 (match v with
    | .nan => nanCode 7
    | .inf n => withSign 7 n (infCode 7)
    | .fin n m e => roundFin 7 false n m e)

/-- A value in FP64, nearest-even. -/
def rne64 (v : Val) : BitVec 64 :=
  BitVec.ofNat 64 (match v with
    | .nan => nanCode 8
    | .inf n => withSign 8 n (infCode 8)
    | .fin n m e => roundFin 8 false n m e)

/-- The value of an FP32 word. -/
def f32 (w : Word) : Val := decode 7 w.toNat

/-- RNE32 addition. -/
def add32 (a b : Word) : Word := rne32 (Val.add (f32 a) (f32 b))
/-- RNE32 multiplication. -/
def mul32 (a b : Word) : Word := rne32 (Val.mul (f32 a) (f32 b))
/-- FP32 fused multiply-add, one rounding. -/
def fma32 (a b c : Word) : Word := rne32 (Val.add (Val.mul (f32 a) (f32 b)) (f32 c))

/-- What a conversion did to an element: its code, whether it saturated, whether its source was not finite. -/
structure Conv where
  code : Nat
  sat : Bool
  bad : Bool
  deriving DecidableEq, Repr

/-- An unscaled conversion (R162 to R164); sel selects saturation. -/
def convert (f : Nat) (sel : Bool) (v : Val) : Conv :=
  match v with
  | .nan => ⟨nanCode f, false, f ≤ 2⟩
  | .inf n => ⟨if f = 3 then nanCode 3 else withSign f n (if f ≤ 2 then maxCode f else infCode f), false, f ≤ 2⟩
  | .fin n m e =>
    let c := roundMag f m e
    ⟨roundFin f sel n m e, maxCode f < c && (sel || f ≤ 3), false⟩

/-! ## Division, square root -/

/-- A positive quotient (m · 2^e) / (n · 2^f) with at least 64 significant bits and a sticky last bit. -/
def divMag (m : Nat) (e : Int) (n : Nat) (f : Int) : Nat × Int :=
  let s := 64 + Nat.log2 n + 1
  let q := m * 2 ^ s / n
  let r := m * 2 ^ s % n
  (2 * q + (if r = 0 then 0 else 1), e - f - s - 1)

/-- Integer square root by bits: the largest r of k bits with r² ≤ n. -/
def isqrtBits (n : Nat) : Nat → Nat → Nat
  | 0, r => r
  | k + 1, r => isqrtBits n k (if (r + 2 ^ k) * (r + 2 ^ k) ≤ n then r + 2 ^ k else r)

/-- Integer square root. -/
def isqrt (n : Nat) : Nat := isqrtBits n (Nat.log2 n / 2 + 1) 0

/-- √(m · 2^e) with a sticky last bit. -/
def sqrtMag (m : Nat) (e : Int) : Nat × Int :=
  let (m, e) := if e % 2 = 0 then (m, e) else (2 * m, e - 1)
  let n := m * 2 ^ 128
  let r := isqrt n
  (2 * r + (if r * r = n then 0 else 1), e / 2 - 65)

/-- 1 / √(m · 2^e) with a sticky last bit. -/
def rsqrtMag (m : Nat) (e : Int) : Nat × Int :=
  let (m, e) := if e % 2 = 0 then (m, e) else (2 * m, e - 1)
  let s := 128 + Nat.log2 m + 1
  let n := 2 ^ (2 * s)
  let r := isqrt (n / m)
  (2 * r + (if r * r * m = n then 0 else 1), -(e / 2) - s - 1)

/-- The exact quotient of two values, a zero divisor giving an infinity (IEEE). -/
def Val.div (a b : Val) : Val :=
  match a, b with
  | .nan, _ => .nan
  | _, .nan => .nan
  | .inf _, .inf _ => .nan
  | .inf s, .fin t _ _ => .inf (s != t)
  | .fin s _ _, .inf t => .zero (s != t)
  | .fin s m e, .fin t n f =>
    if n = 0 then (if m = 0 then .nan else .inf (s != t))
    else if m = 0 then .zero (s != t)
    else let (q, g) := divMag m e n f; .fin (s != t) q g

/-- The square root of a value: of −0 it is −0, of a negative value NaN. -/
def Val.sqrt (a : Val) : Val :=
  match a with
  | .nan => .nan
  | .inf s => if s then .nan else .inf false
  | .fin s m e => if m = 0 then .fin s 0 0 else if s then .nan else let (q, g) := sqrtMag m e; .fin false q g

/-! ## Block scales (R160, R161, R165 to R167) -/

/-- The value of a scale byte: none for unscaled data. -/
def scaleVal (scale b : Nat) : Val :=
  if scale = 1 then (if b = 255 then .nan else .pow2 ((b : Int) - 127))
  else if scale = 2 then (if bitOf b 7 then .nan else decode 3 b)
  else .pow2 0

/-- The value of an element under its scale byte (R161). -/
def scaled (f scale x b : Nat) : Val := if scale = 0 then decode f x else Val.mul (decode f x) (scaleVal scale b)

/-- EMAX_ELEM of R166. -/
def emaxElem (f : Nat) : Int :=
  match f with
  | 0 => 2 | 1 => 4 | 2 => 2 | 3 => 8 | _ => 15

/-- The greater magnitude; NaN and infinities count as not finite. -/
def absMax : List Val → Val
  | [] => .zero false
  | v :: vs =>
    match v, absMax vs with
    | .nan, _ => .nan
    | _, .nan => .nan
    | v, m => if Val.lt m v.abs then v.abs else m

/-- The E8M0 scale byte for an absolute maximum (R166). -/
def scaleE8 (f : Nat) (a : Val) : Nat :=
  if !a.isFin then 255
  else if a.isZero then 127
  else (max 0 (min 254 (a.log2 - emaxElem f + 127))).toNat

/-- The E4M3 scale byte for an absolute maximum (R167): the smallest positive E4M3 value that is at least A / MAX_ELEM. -/
def scaleE4 (f : Nat) (a : Val) : Nat :=
  if !a.isFin then 0x7F
  else if a.isZero then 0x38
  else
    let top := decode f (maxCode f)
    ((List.range 126).map (· + 1)).find? (fun b => !Val.lt (Val.mul (decode 3 b) top) a) |>.getD 0x7E

/-- A block's scale byte. -/
def scaleOf (f scale : Nat) (a : Val) : Nat := if scale = 1 then scaleE8 f a else if scale = 2 then scaleE4 f a else 0

/-- What a block conversion gives: the scale byte, the codes, how many sources were not finite and how many codes saturated. -/
structure BlockConv where
  scale : Nat
  codes : List Nat
  bad : Nat
  sat : Nat

/-- An element under a formed scale: x / scale rounded once, saturating (R163, R166, R167). -/
def convScaled (f scale b : Nat) (v : Val) : Conv :=
  match Val.div v (scaleVal scale b) with
  | .fin n m e => ⟨roundFin f true n m e, maxCode f < roundMag f m e, false⟩
  | .inf n => ⟨withSign f n (maxCode f), true, false⟩
  | .nan => ⟨0, false, true⟩

/-- A block converted with the absolute maximum a given (R164 to R168); scale code 0 converts each element by itself. -/
def convBlock (f scale : Nat) (sel : Bool) (a : Val) (vs : List Val) : BlockConv :=
  if scale = 0 then
    let cs := vs.map (convert f sel)
    ⟨0, cs.map (·.code), (cs.filter (·.bad)).length, (cs.filter (·.sat)).length⟩
  else
    let bad := (vs.filter (fun v => !v.isFin)).length
    if 0 < bad || !a.isFin then ⟨if scale = 1 then 255 else 0x7F, vs.map (fun _ => 0), bad, 0⟩
    else
      let b := scaleOf f scale a
      let cs := vs.map (convScaled f scale b)
      ⟨b, cs.map (·.code), 0, (cs.filter (·.sat)).length⟩

/-! ## The cell step (R169 to R175) -/

/-- One level of the adder tree's fixed pairing (R171). -/
def pairSum : List Int → List Int
  | a :: b :: t => (a + b) :: pairSum t
  | t => t

/-- The tree. -/
def treeSum : Nat → List Int → Int
  | 0, xs => xs.headD 0
  | n + 1, xs => if xs.length ≤ 1 then xs.headD 0 else treeSum n (pairSum xs)

/-- The group sum S of finite products of which one is not zero (R170, R171). -/
def groupSum (ps : List Val) : Val :=
  let emax := ps.foldl (fun (r : Option Int) p => if p.isZero then r else match r with | none => some p.log2 | some x => some (max x p.log2)) none
  let g := emax.getD 0 - 28
  let q (p : Val) : Int :=
    match p with
    | .fin n m e =>
      let i : Int := if n then -(m : Int) else m
      if g ≤ e then i * ((2 ^ (e - g).toNat : Nat) : Int) else i / ((2 ^ (g - e).toNat : Nat) : Int)
    | _ => 0
  valOfInt (treeSum 3 (ps.map q)) g false

/-- A cell's slot after a step (R171, R172): first is the first step of an MMA_INIT. -/
def cellStep (acc : Word) (first : Bool) (ps : List Val) : Word :=
  let pos := ps.contains (.inf false)
  let neg := ps.contains (.inf true)
  if ps.any Val.isNan || (pos && neg) then BitVec.ofNat 32 (nanCode 7)
  else if pos || neg then rne32 (Val.add (if first then .zero false else f32 acc) (.inf neg))
  else if ps.all Val.isZero then
    let z : Val := .zero (ps.all Val.sign)
    if first then rne32 z else rne32 (Val.add (f32 acc) z)
  else if first then rne32 (groupSum ps)
  else rne32 (Val.add (f32 acc) (groupSum ps))

/-- An FP64 cell's step (R175). -/
def cellStep64 (acc : BitVec 64) (first : Bool) (a b : Val) : BitVec 64 :=
  if first then rne64 (Val.mul a b) else rne64 (Val.add (Val.mul a b) (decode 8 acc.toNat))

/-! ## Stochastic rounding (R182 to R184) -/

/-- Ten rounds of Philox-4×32 (R183). -/
def philoxRounds : Nat → Nat → Nat → Nat × Nat × Nat × Nat → Nat × Nat × Nat × Nat
  | 0, _, _, c => c
  | n + 1, k0, k1, (c0, c1, c2, c3) =>
    let p0 := 0xD2511F53 * c0
    let p1 := 0xCD9E8D57 * c2
    let n0 := (p1 / 2 ^ 32) ^^^ c1 ^^^ k0
    let n2 := (p0 / 2 ^ 32) ^^^ c3 ^^^ k1
    philoxRounds n ((k0 + 0x9E3779B9) % 2 ^ 32) ((k1 + 0xBB67AE85) % 2 ^ 32) (n0, p1 % 2 ^ 32, n2, p0 % 2 ^ 32)

/-- The random word of an element (R183). -/
def philoxWord (shard : Word) (step i purpose : Nat) : Nat :=
  let b := i / 4
  let (c0, c1, c2, c3) := philoxRounds 10 shard.toNat (step % 2 ^ 32) (b % 2 ^ 32, b / 2 ^ 32 % 2 ^ 32, step / 2 ^ 32 % 2 ^ 32, purpose)
  match i % 4 with
  | 0 => c0 | 1 => c1 | 2 => c2 | _ => c3

/-- Stochastic rounding with a random word (R184). -/
def srRound (f : Nat) (v : Val) (r : Nat) : Nat :=
  match v with
  | .nan => nanCode f
  | .inf n => withSign f n (maxCode f)
  | .fin n m e =>
    if m = 0 then withSign f n 0
    else
      let u := ulpExp f m e
      let k := (u - e).toNat
      let x := m * 2 ^ (e - u).toNat
      let q := x / 2 ^ k
      let up := r * 2 ^ k < (x % 2 ^ k) * 2 ^ 32
      withSign f n (min (maxCode f) (codeOf f (if up then q + 1 else q) u))

end Sys2Proof.Machine
end

