-- ==== Sys2Proof/Machine/Elementary.lean ====
section
/-!
DEFINITION. Sys2Proof/Machine/Elementary.lean: e^x, 2^x and ln x, each rounded once to FP32 (R194). Results are formed with 256
fractional bits and a sticky last bit, far beyond the FP32 inputs' closest approach to a rounding boundary (log 15).
-/
namespace Sys2Proof.Machine

/-- Fractional bits of the working precision. -/
def fxBits : Nat := 256
/-- One. -/
def fxOne : Nat := 2 ^ fxBits
/-- The product of two fixed-point numbers. -/
def fxMul (a b : Nat) : Nat := a * b / fxOne

/-- Σ z^(2k+1)/(2k+1): p is the running power of z, q its square, n the terms left. -/
def atanhSum : Nat → Nat → Nat → Nat → Nat
  | 0, _, _, _ => 0
  | n + 1, k, p, q => p / (2 * k + 1) + atanhSum n (k + 1) (fxMul p q) q

/-- 2·atanh(a/b) for 0 ≤ a/b ≤ 1/3. -/
def fxLogRatio (a b : Nat) : Nat :=
  let z := a * fxOne / b
  2 * atanhSum 90 0 z (fxMul z z)

/-- ln 2. -/
def fxLn2 : Nat := fxLogRatio 1 3

/-- Σ r^k/k! from term t on. -/
def expSum : Nat → Nat → Nat → Nat → Nat
  | 0, _, _, _ => 0
  | n + 1, k, t, r => t + expSum n (k + 1) (fxMul t r / (k + 1)) r

/-- e^r for 0 ≤ r < 1. -/
def fxExp (r : Nat) : Nat := expSum 70 0 fxOne r

/-- 2^n · t, t in fixed point, as an inexact value with its sticky bit. -/
def stickyPow (n : Int) (t : Nat) : Val := .fin false (2 * t + 1) (n - fxBits - 1)

/-- A finite value in fixed point; exact for |v| < 2^fxBits with no bit below 2^−256. -/
def fxOf (v : Val) : Int := match v with
  | .fin n m e =>
    let k := e + fxBits
    let x : Nat := if 0 ≤ k then m * 2 ^ k.toNat else m / 2 ^ (-k).toNat
    if n then -(x : Int) else x
  | _ => 0

/-- |v| ≥ 2^k for a finite non-zero value. -/
def Val.atLeastPow (v : Val) (k : Int) : Bool := !v.isZero && k ≤ v.log2

/-- e^x (R194). Beyond |x| = 256 the result overflows or rounds to +0. -/
def Val.expE (v : Val) : Val :=
  match v with
  | .nan => .nan
  | .inf n => if n then .zero false else .inf false
  | .fin n _ _ =>
    if v.isZero then .pow2 0
    else if v.atLeastPow 8 then (if n then .fin false 1 (-400) else .fin false 1 400)
    else
      let x := fxOf v
      let k := x / (fxLn2 : Int)
      stickyPow k (fxExp (x - k * fxLn2).toNat)

/-- 2^x (R194). An integer x gives an exact power. -/
def Val.exp2E (v : Val) : Val :=
  match v with
  | .nan => .nan
  | .inf n => if n then .zero false else .inf false
  | .fin n _ _ =>
    if v.isZero then .pow2 0
    else if v.atLeastPow 9 then (if n then .fin false 1 (-400) else .fin false 1 400)
    else
      let x := fxOf v
      let k := x / (fxOne : Int)
      let f := (x - k * fxOne).toNat
      if f = 0 then .pow2 k else stickyPow k (fxExp (fxMul f fxLn2))

/-- ln x (R194). The significand is taken in [3/4, 3/2), so nothing cancels near 1. -/
def Val.lnE (v : Val) : Val :=
  match v with
  | .nan => .nan
  | .inf n => if n then .nan else .inf false
  | .fin n m e =>
    if m = 0 then .inf true
    else if n then .nan
    else
      let b := Nat.log2 m
      let up := 3 * 2 ^ b ≤ 2 * m
      let k : Int := (b : Int) + e + (if up then 1 else 0)
      let c := if up then 2 * 2 ^ b else 2 ^ b
      if m = c then (if k = 0 then .zero false else (let x := k * (fxLn2 : Int); .fin (x < 0) (2 * x.natAbs + 1) (-257)))
      else
        let l : Int := if c < m then (fxLogRatio (m - c) (m + c) : Int) else -(fxLogRatio (c - m) (m + c) : Int)
        let x := k * (fxLn2 : Int) + l
        .fin (x < 0) (2 * x.natAbs + 1) (-257)

/-- 1/x (R194). -/
def Val.rcpE (v : Val) : Val := Val.div (.pow2 0) v

/-- 1/√x (R194). -/
def Val.rsqrtE (v : Val) : Val :=
  match v with
  | .nan => .nan
  | .inf n => if n then .nan else .zero false
  | .fin n m e => if m = 0 then .inf n else if n then .nan else (let (q, g) := rsqrtMag m e; .fin false q g)

end Sys2Proof.Machine
end

