-- ==== Sys2Proof/Machine/Save.lean ====
section
/-!
DEFINITION. Sys2Proof/Machine/Save.lean: the context save image (R124 to R126, R156, R204, R230): what a save writes and a restore
reads.
-/
namespace Sys2Proof.Machine

/-- n zero bytes. -/
def zeros (n : Nat) : List Byte := List.replicate n 0

/-- A run of n words of a table from a key, little-endian. -/
def wordsAt (t : Tbl Word) (k n : Nat) : List Byte := (List.range n).flatMap (fun i => bytesOf 4 (Tbl.get t (k + i) 0))

/-- A table of words from bytes, listed from a key, zeros unlisted. -/
def wordsOf (k : Nat) (bs : List Byte) : Tbl Word :=
  (List.range (bs.length / 4)).filterMap (fun i =>
    let v := BitVec.ofNat 32 (leNat ((bs.drop (4 * i)).take 4))
    if v = 0 then none else some (k + i, v))

/-! ## A core slot (R125) -/

/-- The state code a stage is saved with: an ACTIVE stage as READY (R107). -/
def SState.savedCode : SState → Nat
  | .unused => 0 | .ready => 1 | .active => 1 | .blocked => 3 | .ended => 4

/-- A stage record. -/
def Stage.image (s : Stage) : List Byte :=
  bytesOf 4 s.pc ++ natLe 4 (s.state.savedCode + fld s.hint 8) ++ natLe 8 s.blockLt ++ wordsAt s.regs 0 32 ++ bytesOf 4 s.exit
    ++ zeros 108

/-- A stage from its record; base and length come from the bundle, the WAIT of a blocked stage from its instruction. -/
def Stage.ofImage (bs : List Byte) (base len : Nat) (want : Option (Bool × Nat × Nat × Bool)) : Stage :=
  let code := leNat ((bs.drop 4).take 1)
  { state := if code = 1 then .ready else if code = 3 then .blocked else if code = 4 then .ended else .unused
    pc := BitVec.ofNat 32 (leNat (bs.take 4))
    regs := wordsOf 0 ((bs.drop 16).take 128)
    hint := leNat ((bs.drop 5).take 1)
    blockLt := leNat ((bs.drop 8).take 8)
    want := want
    exit := BitVec.ofNat 32 (leNat ((bs.drop 144).take 4))
    stall := none, base := base, len := len }

/-- An attention state set's 256 bytes (R230). -/
def ASet.image (a : ASet) : List Byte :=
  wordsAt a.m 0 16 ++ wordsAt a.l 0 16 ++ natLe 4 (b2n a.begun + 2 * b2n a.compat + fld a.dv16 8 + fld a.oslot 16) ++ zeros 124

/-- An attention state set from its bytes, and whether it had seen no block, which they do not tell. -/
def ASet.ofImage (bs : List Byte) (first : Bool) : ASet :=
  let f := leNat ((bs.drop 128).take 4)
  { begun := bitOf f 0, compat := bitOf f 1, dv16 := bits f 15 8, oslot := bits f 23 16
    m := wordsOf 0 (bs.take 64), l := wordsOf 0 ((bs.drop 64).take 64), first := first }

/-- An attention state set that is closed. -/
def ASet.empty : ASet := ⟨false, false, 0, 0, [], [], false⟩

/-- Bytes 0x0_0000 to 0x0_4FFF of a core slot: header, core tokens, resume record, stage records, Harrow and attention state. -/
def Core.imageLow (k : Core) (core c lt : Nat) (id : Word) (record : Option (BitVec 2048)) : List Byte :=
  let here := (setBits (2 ^ 24 - 1) 24).map (fun i => if (k.stage i).state = .unused then 0 else 2 ^ i)
  natLe 64 (packB [(0, core), (2, k.ways), (3, 1 + 2 * b2n record.isSome + 4 * b2n k.forced), (4, c), (8, lt % 2 ^ 64), (16, id.toNat),
      (20, here.sum)])
    ++ (List.range 32).flatMap (fun t => natLe 2 (Tbl.get k.tok t 0)) ++ zeros 128
    ++ (match record with | some r => bytesOf 256 r | none => zeros 256) ++ zeros 512
    ++ (List.range 24).flatMap (fun i => (k.stage i).image) ++ zeros 1024
    ++ wordsAt k.v 0 1024 ++ (List.range 8).flatMap (fun m => natLe 8 (if m = 0 then 2 ^ 64 - 1 else Tbl.get k.m m 0)) ++ zeros 4032
    ++ (List.range 4).flatMap (fun s => (Tbl.get k.sets s ASet.empty).image) ++ zeros 3072

/-- The key of an accumulator word: array, slot, cell (R131). -/
def accKey (arr slot cell : Nat) : Nat := (8 * arr + slot) * 256 + cell

/-- The accumulators' 16 KiB (R125). -/
def Core.imageAcc (k : Core) : List Byte :=
  (List.range 2).flatMap (fun a => (List.range 256).flatMap (fun cell => (List.range 8).flatMap (fun m =>
    bytesOf 4 (Tbl.get k.acc (accKey a m cell) 0))))

/-- The accumulators from their bytes. -/
def accOf (bs : List Byte) : Tbl Word :=
  (List.range 4096).foldl (fun t n =>
    let arr := n / 2048
    let slot := n / 256 % 8
    let cell := n % 256
    let o := arr * 0x2000 + cell * 32 + 4 * slot
    Tbl.set t n (BitVec.ofNat 32 (leNat ((bs.drop o).take 4))) 0) []

/-! ## A cluster block (R124, R156) -/

/-- A Drill queue entry's 128 bytes. -/
def DXfer.image (x : DXfer) (q : Nat) (idx : Word) : List Byte :=
  bytesOf 64 x.rcd ++ natLe 64 (packB [(0, x.id.toNat), (4, b2n x.tag.isNone), (5, x.stage / 8 + 4 * (x.stage % 8)), (6, x.core), (8, q),
    (12, idx.toNat), (16, x.progress % 2 ^ 64)])

/-- Bytes 0 to 4,095 of a cluster block. DESIGN CHOICE: R124 names the header in bytes 0 to 63 and gives it no contents; it is written as
zeros (log 52). -/
def Dev.imageCluster (d : Dev) (cl : Nat) (xs : List DXfer) : List Byte :=
  let x := d.cluster cl
  let h := xs.head?
  natLe 64 0 ++ (List.range 64).flatMap (fun t => natLe 2 (Tbl.get x.tok t 0)) ++ zeros 64
    ++ natLe 64 (packB [(0, xs.length), (2, b2n (h.any (fun y => y.started)) + 2 * b2n (h.any (fun y => y.faulted))), (4, x.nextNum.toNat)])
    ++ (List.range 16).flatMap (fun n => match xs[n]? with
      | some y =>
        let (q, idx) : Nat × Word := match y.tag with
          | none => (0, 0)
          | some t => match d.work t with | none => (0, 0) | some w => (w.q.val, w.idx)
        y.image q idx
      | none => zeros 128)
    ++ zeros (4096 - 320 - 2048)

/-! ## The save (R126) -/

/-- The clusters of a mask, ascending. -/
def clustersOf (mask : BitVec 72) : List Nat := setBits mask.toNat 72

/-- The cores of a context's mask that keep its program or local store: those whose last resident program was its own (R124). -/
def Dev.coresOfCtx (d : Dev) (c : CtxId) : List Nat :=
  (d.gr.cores.filter (fun e => e.2.ctx = some c && bitOf (d.ctx c).mask.toNat (clusterOf e.1))).map (·.1)

/-- Every stream of the context has stopped (R73, R126). In a parked context no stream runs. -/
def Dev.streamsStopped (d : Dev) (c : CtxId) : Bool :=
  (d.coresOfCtx c).all (fun n =>
    let k := d.core n
    k.tag.isNone || (d.ctx c).state = .parked || (List.range 3).all k.seqStopped)

/-- A Drill waits for the host's answer to a page request, at the boundary its PROGRESS names (R277, R283). -/
def Dev.drillWaits (d : Dev) (cl : Nat) : Bool :=
  d.mm.pri.any (fun p => p.alive && (match p.who with | .drill k => k.val = cl | _ => false))

/-- A Drill is at no unit of the context's: its head is another's, has not started, holds a resume point, or has paused (R126, R154). -/
def Dev.drillAtRest (d : Dev) (c : CtxId) (cl : Nat) : Bool :=
  match (d.cluster cl).drill with
  | [] => true
  | x :: _ => x.ctx != c || !x.moving || (d.cluster cl).paused || d.drillWaits cl

/-- Every sequencer of the context has stopped, every issued operation is complete, and its Drills have paused (R126). -/
def Dev.allStopped (d : Dev) (c : CtxId) : Bool :=
  d.streamsStopped c && (d.coresOfCtx c).all (fun n => (d.core n).fops.isEmpty) && (clustersOf (d.ctx c).mask).all (d.drillAtRest c)

/-- What a core keeps when a save or a reset takes its program away: the mismatch history and the last trap. -/
def Core.emptied (k : Core) : Core :=
  { Core.empty with mism := k.mism, lastLt := k.lastLt, lastWord := k.lastWord, lastCols := k.lastCols, trap := k.trap, peer := k.peer
                    hopper := k.hopper, hopOpen := k.hopOpen, imaged := k.imaged }

/-- One core saved into its slot: VALID comes with the header, written last. -/
def Dev.saveCore (d : Dev) (c : CtxId) (n : Nat) : Dev :=
  let x := d.ctx c
  let k := d.core n
  let id := match k.tag with
    | none => 0
    | some t => match d.work t with | none => 0 | some w => dId w.desc
  let record := match x.park with
    | some p => if p.core = some n then some p.record else none
    | none => none
  let a := x.coreSlot n
  let low := k.imageLow n c.val d.lt id record
  let d := d.dpaWrite (a + 0x8000) k.imageAcc
  let d := d.dpaWrite (a + 0xC000) (wordsAt k.t 0 8192)
  let d := (List.range (k.ways * 512)).foldl (fun d b =>
    (d.granWrite ((a + 0x20000) / 64 + b) (k.ls.readBlk b)).1) d
  let d := d.dpaWrite (a + 64) (low.drop 64)
  (d.dpaWrite a (low.take 64)).setCore n { k.emptied with imaged := true }

/-- Nothing waits any longer for the page requests of a Drill (R283). -/
def Dev.forsake (d : Dev) (cl : Nat) : Dev :=
  { d with mm := { d.mm with pri := d.mm.pri.map (fun p => match p.who with
      | .drill k => if k.val = cl then { p with alive := false } else p
      | _ => p) } }

/-- One cluster's block saved; the context's transfers leave the Drill paused at their resume points (R154). One that was to leave at this
boundary has left. -/
def Dev.saveCluster (d : Dev) (c : CtxId) (cl : Nat) : Dev :=
  let all := (d.cluster cl).drill.filter (fun x => x.ctx = c)
  let xs := all.filter (fun x => x.stop.isNone)
  let d := all.foldl (fun d x => match x.tag, x.stop with
    | some t, some st => d.finishWork t st 0
    | _, _ => d) d
  let d := d.dpaWrite ((d.ctx c).clusterSlot cl) (d.imageCluster cl xs)
  let d := if all.isEmpty then d else d.forsake cl
  (d.modCluster cl (fun y => { y with drill := y.drill.filter (fun x => !(x.ctx = c)), paused := !xs.isEmpty })).freeCluster cl

/-- The blocking WAITs of a context's stages, which its image does not hold. -/
def Dev.wantsOf (d : Dev) (c : CtxId) : List (Nat × Nat × Bool × Nat × Nat × Bool) :=
  (d.coresOfCtx c).flatMap (fun n => (d.core n).stages.filterMap (fun e =>
    match e.2.state, e.2.want with
    | .blocked, some (sc, t, k, inv) => some (n, e.1, sc, t, k, inv)
    | _, _ => none))

/-- The state sets of a context's cores that have seen no block since their BEGIN. -/
def Dev.firstsOf (d : Dev) (c : CtxId) : List (Nat × Nat) :=
  (d.coresOfCtx c).flatMap (fun n => ((d.core n).sets.filter (fun e => e.2.first)).map (fun e => (n, e.1)))

/-- The LAUNCHes of a context's transfers, which its image does not name. -/
def Dev.haulsOf (d : Dev) (c : CtxId) : List (Nat × Nat × Tag) :=
  (clustersOf (d.ctx c).mask).flatMap (fun cl => ((d.cluster cl).drill.filter (fun x => x.ctx = c)).filterMap (fun x =>
    x.launch.map (fun t => (cl, x.id.toNat, t))))

/-- A context saved: its cores, its clusters, then its state (R86, R126). A slot whose core holds nothing of the context is marked
not VALID. -/
def Dev.saveCtx (d : Dev) (c : CtxId) : Dev :=
  let x := d.ctx c
  let cls := clustersOf x.mask
  let ns := d.coresOfCtx c
  let wants := d.wantsOf c
  let hauls := d.haulsOf c
  let firsts := d.firstsOf c
  let tags := (ns.filterMap (fun n => (d.core n).tag)) ++ (cls.flatMap (fun cl => ((d.cluster cl).drill.filter (fun y => y.ctx = c)).filterMap (·.tag)))
  let d := (cls.flatMap coresOf).foldl (fun d n => if ns.contains n then d
    else d.dpaWrite (x.coreSlot n) (natLe 64 (if x.park.any (fun p => p.core = some n && !p.unsaved) then fld 2 24 else 0))) d
  let d := ns.foldl (fun d n => d.saveCore c n) d
  let d := cls.foldl (fun d cl => d.saveCluster c cl) d
  let d := tags.eraseDups.foldl (fun d t => d.modWork t (fun w => { w with
    preempted := true
    spent := w.spent + (match w.since with | none => 0 | some t => d.lt - t)
    since := none })) d
  d.modCtx c (fun x => { x with
    state := match x.state with | .parked => .parkedPreempted | _ => .preempted
    preemptReq := none
    withheld := false
    saved := true
    wants := wants
    hauls := hauls
    firsts := firsts })

/-- The cores whose local store has an uncorrectable block, which a save meets (R120). -/
def Dev.spoilt (d : Dev) (ns : List Nat) : List Nat := ns.filter (fun n => (d.core n).lsBad 0 ((d.core n).ways * 32768))

/-- A context saved; a core that could not give its local store retires with it (R120, R438). -/
def Dev.saveAll (d : Dev) (c : CtxId) : Dev := (d.spoilt (d.coresOfCtx c)).foldl (fun d n => d.retireCore n 9) (d.saveCtx c)

/-! ## The restore (R126, R127) -/

/-- The entry of a LAUNCH for a core. -/
def Work.entryOf (w : Work) (core : Nat) : Option Entry := w.entries.find? (fun e => e.core = core)

/-- The LAUNCH of a context that stands dispatched on a core. -/
def Dev.launchHeld (d : Dev) (c : CtxId) (core : Nat) : Option (Tag × Work) :=
  d.hq.infl.findSome? (fun e =>
    if h : e.1 < 16384 then
      if e.2.ctx = c && dOp e.2.desc = 0x100 && e.2.phase = .dispatched && (e.2.entryOf core).isSome then some (⟨e.1, h⟩, e.2) else none
    else none)

/-- One core restored from its slot; what was poisoned of it is told. A slot that is not VALID leaves the core empty. -/
def Dev.restoreCore (d : Dev) (c : CtxId) (n : Nat) : Dev × Option Nat :=
  let x := d.ctx c
  let a := x.coreSlot n
  let (d, low, bad0) := d.dpaRead a 0x5000
  let hdr := leNat (low.take 64)
  if bad0.isSome then (d, bad0)
  else if !bitOf hdr 24 || bits hdr 39 32 != c.val then (d, none)
  else
    let ways := min 8 (bits hdr 23 16)
    let (d, accB, bad1) := d.dpaRead (a + 0x8000) 0x4000
    let (d, tb, bad2) := d.dpaRead (a + 0xC000) 0x8000
    let (d, ls, bad3) := (List.range (ways * 512)).foldl (fun (r : Dev × Store × Option Nat) b =>
      let at_ := (a + 0x20000) / 64 + b
      let (d, y) := r.1.dpaBlock at_
      (d, r.2.1.putBlk b y, if y.poison then r.2.2.orElse (fun _ => some (64 * at_)) else r.2.2)) (d, Store.zero, none)
    let held := d.launchHeld c n
    let stageAt (i : Nat) : Stage :=
      let (base, len) : Nat × Nat := match held with
        | some (_, w) => match (w.entryOf n).bind (fun e => e.streams[i / 8]?) with | some (b, l, _) => (b, l) | none => (0, 0)
        | none => (0, 0)
      let want := (x.wants.find? (fun y => y.1 = n && y.2.1 = i)).map (fun y => (y.2.2.1, y.2.2.2.1, y.2.2.2.2.1, y.2.2.2.2.2))
      Stage.ofImage ((low.drop (0x400 + 256 * i)).take 256) base len want
    let k := d.core n
    let k' : Core := { k with
      ctx := some c
      tag := held.map (·.1)
      ways := ways
      stages := if held.isSome then (List.range 24).filterMap (fun i =>
          let s := stageAt i
          if s.state = .unused then none else some (i, s)) else []
      tok := (List.range 32).filterMap (fun t =>
        let v := leNat ((low.drop (0x40 + 2 * t)).take 2)
        if v = 0 then none else some (t, v))
      ls := ls
      acc := accOf accB
      v := wordsOf 0 ((low.drop 0x2000).take 4096)
      m := (List.range 8).filterMap (fun m =>
        let y := leNat ((low.drop (0x3000 + 8 * m)).take 8)
        if m = 0 || y = 0 then none else some (m, y))
      t := wordsOf 0 tb
      sets := (List.range 4).filterMap (fun s =>
        let y := ASet.ofImage ((low.drop (0x4000 + 256 * s)).take 256) (x.firsts.contains (n, s))
        if y = ASet.empty then none else some (s, y))
      l1 := []
      l1lru := []
      halted := 0
      forced := false
      imaged := true }
    (d.setCore n k', (bad1.orElse (fun _ => bad2)).orElse (fun _ => bad3))

/-- A Drill queue entry read back. Byte 258 tells whether the head had started; a fault mark holds no transfer, since a context is restored
only once it is no longer parked (R86). An entry whose LAUNCH or descriptor has ended meanwhile is gone (R154, R438). -/
def Dev.xferBack (d : Dev) (c : CtxId) (cl : Nat) (bs : List Byte) (first : Nat) : Option DXfer :=
  let rcd := recOf (bs.take 64)
  let v := leNat (bs.drop 64)
  let id : Word := BitVec.ofNat 32 (bits v 31 0)
  let progress := bits v 191 128
  let stage := 8 * bits v 41 40 + bits v 44 42
  let mk (tag : Option Tag) (core : Nat) (launch : Option Tag) : DXfer :=
    ⟨rcd, id, tag, core, stage, c, progress, false, bitOf first 0, launch, none⟩
  if bitOf v 32 then
    match (d.ctx c).hauls.find? (fun h => h.1 = cl && h.2.1 = id.toNat) with
    | none => some (mk none (bits v 63 48) none)
    | some h => if (d.work h.2.2).any (fun w => w.phase = .dispatched) then some (mk none (bits v 63 48) (some h.2.2)) else none
  else
    d.hq.infl.findSome? (fun e =>
      if h : e.1 < 16384 then
        if e.2.ctx = c && e.2.q.val = bits v 79 64 && e.2.idx.toNat = bits v 127 96 && e.2.phase = .dispatched then some (mk (some ⟨e.1, h⟩) 0 none)
        else none
      else none)

/-- One cluster's block restored: tokens and Drill queue. The next transfer number is the cluster's own (R150). -/
def Dev.restoreCluster (d : Dev) (c : CtxId) (cl : Nat) : Dev × Option Nat :=
  let (d, bs, bad) := d.dpaRead ((d.ctx c).clusterSlot cl) 4096
  if bad.isSome then (d, bad)
  else
    let n := leNat ((bs.drop 256).take 2)
    let xs := (List.range (min n 16)).filterMap (fun i =>
      d.xferBack c cl ((bs.drop (320 + 128 * i)).take 128) (if i = 0 then leNat ((bs.drop 258).take 1) else 0))
    (d.modCluster cl (fun y => { y with
      ctx := some c
      tok := (List.range 64).filterMap (fun t =>
        let v := leNat ((bs.drop (64 + 2 * t)).take 2)
        if v = 0 then none else some (t, v))
      drill := y.drill ++ xs
      paused := false }), none)

/-- BLOCKED WAITs evaluated again, and each sequencer's lowest READY stage made ACTIVE (R126). -/
def Dev.resumeStages (d : Dev) (c : CtxId) : Dev :=
  let ns := d.coresOfCtx c
  let d := (d.ctx c).wants.foldl (fun d y => Dev.grants 432 y.1 y.2.2.1 y.2.2.2.1 d) d
  ns.foldl (fun d n => d.modCore n (fun k => (List.range 3).foldl (fun k q =>
    let k := match k.active q with
      | none => k
      | some i => k.modStage i (fun s => { s with state := .ready })
    match firstWhere (fun s => (k.stage (8 * q + s)).state = .ready) 8 with
    | none => k
    | some s => k.modStage (8 * q + s) (fun y => { y with state := .active })) k)) d

end Sys2Proof.Machine
end

