-- ==== Sys2Proof/Machine/Furrow.lean ====
section
/-!
DEFINITION. Sys2Proof/Machine/Furrow.lean: the matrix arrays (04): the FURROW class, furrow layout as the feeders read it, the tile
checksum and the recompute that follows a mismatch (R129 to R147).
-/
namespace Sys2Proof.Machine

/-! ## Fields (R133) -/

/-- ARRAY. -/
def fuArr (w : IWord) : Nat := wf w 55 55
/-- SLOT. -/
def fuSlot (w : IWord) : Nat := wf w 54 52
/-- FMT of A (side 0) or B. -/
def fuFmt (w : IWord) (side : Nat) : Nat := if side = 0 then wf w 51 48 else wf w 47 44
/-- KSTEPS. -/
def fuSteps (w : IWord) : Nat := wf w 33 25
/-- Scale code of a side. -/
def fuScale (w : IWord) (side : Nat) : Nat := if side = 0 then wf w 24 23 else wf w 22 21
/-- DIR of a side. -/
def fuDir (w : IWord) (side : Nat) : Nat := if side = 0 then wf w 20 20 else wf w 19 19
/-- Block-size code of a side. -/
def fuBlk (w : IWord) (side : Nat) : Nat := if side = 0 then wf w 18 17 else wf w 16 15
/-- panel_bytes of a side. -/
def fuPanel (w : IWord) (side : Nat) : Nat := panelBytes (fuFmt w side) (fuScale w side) (fuDir w side) (fuBlk w side) (fuSteps w)

/-- The class of a format code (R132). -/
def fmtClass (f : Nat) : Nat := if f = 0 then 0 else if f ≤ 4 then 1 else if f ≤ 6 then 2 else if f = 7 then 3 else if f = 8 then 4 else 5

/-- An MMA or MMA_INIT that raises ILLEGAL_INSTRUCTION (R133, R135, R175). -/
def mmaIllegal (w : IWord) : Bool :=
  let a := fuFmt w 0
  let side (s : Nat) : Bool :=
    fuScale w s = 3 || (fuScale w s != 0 && 4 < fuFmt w s)
      || (fuScale w s != 0 && fuDir w s = 0 && fuSteps w * fmtKg (fuFmt w s) % blkSize (fuBlk w s) != 0)
  8 < a || 8 < fuFmt w 1 || fmtClass a != fmtClass (fuFmt w 1) || side 0 || side 1 || fuSteps w = 0 || wf w 14 0 != 0
    || (a = 8 && fuSlot w % 2 = 1)

/-! ## A panel as its feeder reads it (R137 to R139) -/

/-- A panel's bytes as one number and the fields that lay it out. -/
structure Panel where
  bytes : Nat
  fmt : Nat
  scale : Nat
  dir : Nat
  blk : Nat
  steps : Nat

/-- Element e of the K-group of row r at logical step t. -/
def Panel.code (p : Panel) (r t e : Nat) : Nat :=
  let o := 8 * (stepOffset p.fmt p.scale p.dir p.blk p.steps (t + r / 4) + r * fmtWb p.fmt) + fmtBits p.fmt * e
  bits p.bytes (o + fmtBits p.fmt - 1) o

/-- The scale byte of row r at K index k. -/
def Panel.scaleByte (p : Panel) (r k : Nat) : Nat :=
  if p.scale = 0 then 0
  else
    let b := k / blkSize p.blk
    let (line, i) := if p.dir = 0 then (b / 4, 16 * (b % 4) + r) else (k / 64, k % 64)
    let o := fmtSb p.fmt * (line * panelLs p.fmt p.dir p.blk) + 64 * line + i
    bits p.bytes (8 * o + 7) (8 * o)

/-- The scaled value of element e of row r at logical step t. -/
def Panel.val (p : Panel) (r t e : Nat) : Val :=
  scaled p.fmt p.scale (p.code r t e) (p.scaleByte r (t * fmtKg p.fmt + e))

/-- A side's panel read from the local store, with the DPA of the first poisoned block (R286). -/
def Core.panel (k : Core) (w : IWord) (side off : Nat) : Panel × Option Nat :=
  let (bs, bad) := k.lsRead off (fuPanel w side)
  (⟨leNat bs, fuFmt w side, fuScale w side, fuDir w side, fuBlk w side, fuSteps w⟩, bad)

/-! ## Running an operation (R129, R134, R171, R175) -/

/-- The first accumulator key of a slot. -/
def slotBase (w : IWord) : Nat := accKey (fuArr w) (fuSlot w) 0

/-- The accumulator words an operation writes: a slot, or a slot pair of FP64. -/
def slotWords (w : IWord) : Nat := if wf w 58 56 < 2 && fuFmt w 0 = 8 then 512 else 256

/-- An operand's values: row, logical step, element of the K-group. -/
abbrev Feed := Nat → Nat → Nat → Val

/-- An MMA's effect on the slot at a key, cell by cell, over the steps of a K-group size. -/
def runCells (acc : Tbl Word) (base kg steps : Nat) (init : Bool) (a b : Feed) : Tbl Word :=
  (List.range 256).foldl (fun t cell =>
    let products (s : Nat) : List Val := (List.range kg).map (fun e => Val.mul (a (cell / 16) s e) (b (cell % 16) s e))
    Tbl.set t (base + cell)
      ((List.range steps).foldl (fun x s => cellStep x (init && s = 0) (products s)) (Tbl.get acc (base + cell) 0)) 0) acc

/-- An FP64 MMA's effect on the slot pair at a key (R175). -/
def runCells64 (acc : Tbl Word) (base steps : Nat) (init : Bool) (a b : Feed) : Tbl Word :=
  (List.range 256).foldl (fun t cell =>
    let old := BitVec.ofNat 64 ((Tbl.get acc (base + cell) 0).toNat + fld (Tbl.get acc (base + 256 + cell) 0).toNat 32)
    let v := (List.range steps).foldl (fun x s => cellStep64 x (init && s = 0) (a (cell / 16) s 0) (b (cell % 16) s 0)) old
    Tbl.set (Tbl.set t (base + cell) (BitVec.ofNat 32 v.toNat) 0) (base + 256 + cell) (BitVec.ofNat 32 (v.toNat / 2 ^ 32)) 0) acc

/-- An MMA's effect on the accumulators. -/
def runMma (acc : Tbl Word) (base : Nat) (init : Bool) (a b : Panel) : Tbl Word :=
  if a.fmt = 8 then runCells64 acc base a.steps init a.val b.val else runCells acc base (fmtKg a.fmt) a.steps init a.val b.val

/-- An operation run from its panels as they stand, its slot's prior values in its shadow (R146). -/
def Core.runOp (k : Core) (o : FurrowOp) : Core × FurrowOp :=
  let w := o.word
  let base := slotBase w
  let n := slotWords w
  let o := { o with shadow := Tbl.slice k.acc base n }
  let acc := match wf w 58 56 with
    | 2 => Tbl.cut k.acc base 256
    | 3 => Tbl.paste k.acc base 256 (wordsOf 0 (k.lsRead o.offA 1024).1)
    | op => runMma k.acc base (op = 1) (k.panel w 0 o.offA).1 (k.panel w 1 o.offB).1
  ({ k with acc := acc }, o)

/-- The slot of an operation put back (R146). -/
def Core.unrun (k : Core) (o : FurrowOp) : Core := { k with acc := Tbl.paste k.acc (slotBase o.word) (slotWords o.word) o.shadow }

/-- What an operation reads of the local store: its panels, or LOAD_ACC's tile. -/
def FurrowOp.ranges (o : FurrowOp) : List (Nat × Nat) :=
  match wf o.word 58 56 with
  | 2 => []
  | 3 => [(o.offA, 1024)]
  | _ => [(o.offA, fuPanel o.word 0), (o.offB, fuPanel o.word 1)]

/-- The logical steps of an operation counted (R157). -/
def Dev.countSteps (d : Dev) (core : Nat) (o : FurrowOp) : Dev :=
  if wf o.word 58 56 < 2 then d.bump (furSet core) o.arr (fuSteps o.word) else d

/-- An operation accepted by its array: run, and held until its checksum has been compared (R142). ZERO and LOAD_ACC carry no
checksum; behind a held operation they stay with it, so that a recompute replays them. -/
def Dev.furrow (d : Dev) (core i : Nat) (c : CtxId) (w : IWord) (offA offB : Nat) : Res :=
  let k := d.core core
  let held := (k.fops.filter (fun o => o.arr = fuArr w)).length
  if 2 ≤ held then .stall d 2
  else
    let mma := wf w 58 56 < 2
    let (k', o) := k.runOp ⟨fuArr w, w, offA, offB, i, []⟩
    let bad := if mma then (k.panel w 0 offA).2.orElse (fun _ => (k.panel w 1 offB).2)
      else if wf w 58 56 = 3 then (k.lsRead offA 1024).2 else none
    let d := d.setCore core { k' with busy := k'.busy + 1, fops := if mma || held != 0 then k'.fops ++ [o] else k'.fops }
    let d := d.countSteps core o
    d.lsGuard core o.ranges (.done (match bad with | none => d | some a => d.consume c k.tag (clusterOf core) 1 a))

/-- The word is the FURROW instruction of an OP. -/
def isFurrow (op : Nat) (w : IWord) : Bool := iClass w = 5 && wf w 58 56 = op

/-- MMA and MMA_INIT. -/
def Dev.mma (d : Dev) (a : At) (w : IWord) (op : Nat) : Dev :=
  d.issue a w (isFurrow op w) (fun d c i =>
    let offA := (d.sreg a.core i (wf w 43 39)).toNat
    let offB := (d.sreg a.core i (wf w 38 34)).toNat
    let k := d.core a.core
    if mmaIllegal w then .trap d 1 0 none
    else if !k.inLocal offA (fuPanel w 0) || !k.inLocal offB (fuPanel w 1) then .trap d 2 0 none
    else d.furrow a.core i c w offA offB)

/-- MMA (R134). -/
def execMma (at_ : At) (w : IWord) (s : State) : Host.Outcome State Fault Refusal := s.onDev (fun d => d.mma at_ w 0)
/-- MMA_INIT (R134). -/
def execMmaInit (at_ : At) (w : IWord) (s : State) : Host.Outcome State Fault Refusal := s.onDev (fun d => d.mma at_ w 1)

/-- ZERO (R134): the slot at +0.0. -/
def execZero (at_ : At) (w : IWord) (s : State) : Host.Outcome State Fault Refusal :=
  s.onDev (fun d => d.issue at_ w (isFurrow 2 w) (fun d c i =>
    if wf w 51 44 != 0 || wf w 38 0 != 0 then .trap d 1 0 none else d.furrow at_.core i c w 0 0))

/-- LOAD_ACC (R134): the slot from 1 KiB of the local store. -/
def execLoadAcc (at_ : At) (w : IWord) (s : State) : Host.Outcome State Fault Refusal :=
  s.onDev (fun d => d.issue at_ w (isFurrow 3 w) (fun d c i =>
    let off := (d.sreg at_.core i (wf w 43 39)).toNat
    if wf w 51 44 != 0 || wf w 38 0 != 0 then .trap d 1 0 none
    else if !(d.core at_.core).inLocal off 1024 then .trap d 2 0 none
    else d.furrow at_.core i c w off 0))

/-! ## The checksum (R143 to R147) -/

/-- The residue of a value m · 2^e (R143). The manual gives none for an infinity or a NaN: 0 (log 54, DESIGN CHOICE). -/
def rho : Val → Nat
  | .fin neg m e =>
    let r := m * 2 ^ (e % 8).toNat % 255
    if neg then (255 - r) % 255 else r
  | _ => 0

/-- The sum of f 0 to f (n − 1). -/
def tot (n : Nat) (f : Nat → Nat) : Nat := ((List.range n).map f).sum

/-- The two operands as they leave the feeders, over the steps of a K-group size. -/
structure Feeds where
  a : Feed
  b : Feed
  kg : Nat
  steps : Nat

/-- A sum over every step s and element e of its K-group. -/
def Feeds.overK (f : Feeds) (g : Nat → Nat → Nat) : Nat := tot f.steps (fun s => tot f.kg (fun e => g s e))
/-- α_k. -/
def Feeds.alpha (f : Feeds) (s e : Nat) : Nat := tot 16 (fun i => rho (f.a i s e)) % 255
/-- β_k. -/
def Feeds.beta (f : Feeds) (s e : Nat) : Nat := tot 16 (fun j => rho (f.b j s e)) % 255
/-- Checksum-row cell j. -/
def Feeds.rowCell (f : Feeds) (j : Nat) : Nat := f.overK (fun s e => f.alpha s e * rho (f.b j s e))
/-- Checksum-column cell i. -/
def Feeds.colCell (f : Feeds) (i : Nat) : Nat := f.overK (fun s e => rho (f.a i s e) * f.beta s e)
/-- ρC[i][j]. -/
def Feeds.rhoC (f : Feeds) (i j : Nat) : Nat := f.overK (fun s e => rho (Val.mul (f.a i s e) (f.b j s e)))

/-- What upsets added at a kind of place. An upset is (place, value), its place 256 · kind + cell. Kind 0: the cell's exact products,
by the residue of their change; 1: its adder tree, by the residue of the change of the tree's output; 2: checksum-row cell j = cell mod
16, by a residue; 3: checksum-column cell i = cell mod 16; 4: a part R145 leaves uncovered, by the slot bits that flipped. -/
def hits (ups : List (Nat × Word)) (kind : Nat) (p : Nat → Bool) : Nat :=
  ((ups.filter (fun u => u.1 / 256 = kind && p (u.1 % 256))).map (fun u => u.2.toNat)).sum

/-- The columns j whose data cells' residues differ from checksum-row cell j (R144). -/
def Feeds.badCols (f : Feeds) (ups : List (Nat × Word)) : Nat :=
  tot 16 (fun j => if (tot 16 (fun i => f.rhoC i j) + hits ups 0 (fun c => c % 16 = j)) % 255
    = (f.rowCell j + hits ups 2 (fun c => c % 16 = j)) % 255 then 0 else 2 ^ j)

/-- The rows i whose data cells' residues differ from checksum-column cell i (R144). -/
def Feeds.badRows (f : Feeds) (ups : List (Nat × Word)) : Nat :=
  tot 16 (fun i => if (tot 16 (fun j => f.rhoC i j) + hits ups 0 (fun c => c / 16 = i)) % 255
    = (f.colCell i + hits ups 3 (fun c => c % 16 = i)) % 255 then 0 else 2 ^ i)

/-- A tree check failed: a tree's output changed by no multiple of 255 (R143, R145). -/
def treeFail (ups : List (Nat × Word)) : Bool := ups.any (fun u => u.1 / 256 = 1 && u.2.toNat % 255 != 0)

/-- What a comparison shows. -/
structure Verdict where
  cols : Nat
  rows : Nat
  tree : Bool
  deriving DecidableEq, Repr

/-- The operation passes (R144). -/
def Verdict.passes (v : Verdict) : Bool := v.cols = 0 && v.rows = 0 && !v.tree

/-- The comparison (R144). Residues are exact, so without an upset every sum agrees (Laws: verdict_agrees) and none is formed. -/
def Feeds.verdict (f : Feeds) (ups : List (Nat × Word)) : Verdict :=
  if ups.isEmpty then ⟨0, 0, false⟩ else ⟨f.badCols ups, f.badRows ups, treeFail ups⟩

/-- The operands of an MMA from its panels as they stand. -/
def Core.feeds (k : Core) (o : FurrowOp) : Feeds :=
  ⟨(k.panel o.word 0 o.offA).1.val, (k.panel o.word 1 o.offB).1.val, fmtKg (fuFmt o.word 0), fuSteps o.word⟩

/-- The ZEROs and LOAD_ACCs of an array up to its next MMA leave it. -/
def passPlain (arr : Nat) : List FurrowOp → List FurrowOp
  | [] => []
  | o :: os => if o.arr != arr then o :: passPlain arr os else if 2 ≤ wf o.word 58 56 then passPlain arr os else o :: os

/-- An operation that passed leaves its array, with the ZEROs and LOAD_ACCs right behind it. -/
def passOps (arr : Nat) : List FurrowOp → List FurrowOp
  | [] => []
  | o :: os => if o.arr != arr then o :: passOps arr os else passPlain arr os

/-- The effect on a slot of upsets a passing operation did not show: cells whose products or trees were struck hold free values (log 2); flips
in uncovered parts stand. -/
def Dev.unseen (d : Dev) (base : Nat) (ups : List (Nat × Word)) (acc : Tbl Word) : Dev × Tbl Word :=
  ups.foldl (fun (x : Dev × Tbl Word) u =>
    let key := base + u.1 % 256
    match u.1 / 256 with
    | 0 | 1 =>
      let (n, d) := x.1.takeFresh
      (d, Tbl.set x.2 key (Config.freeWord n) 0)
    | 4 => (x.1, Tbl.set x.2 key (Tbl.get x.2 key 0 ^^^ u.2) 0)
    | _ => x) (d, acc)

/-- The operations of an array run again from its first, latest restored first (R146). -/
def Dev.rerun (d : Dev) (core arr : Nat) : Dev :=
  let k := d.core core
  let mine := k.fops.filter (fun o => o.arr = arr)
  let k := mine.reverse.foldl Core.unrun k
  let (k, os) := mine.foldl (fun (r : Core × List FurrowOp) o => let (k, o) := r.1.runOp o; (k, r.2 ++ [o])) (k, [])
  let d := d.setCore core { k with fops := k.fops.filter (fun o => o.arr != arr) ++ os, redo := k.redo ||| 2 ^ arr }
  let d := os.foldl (fun d o => d.countSteps core o) d
  if (os.flatMap FurrowOp.ranges).any (fun x => k.lsBad x.1 x.2) then d.retireCore core 9 else d

/-- A mismatch counted and recorded (R147, R157), and whether it falls within 10 s of the mismatch two before it. -/
def Dev.noteMismatch (d : Dev) (core arr slot : Nat) (v : Verdict) : Dev × Bool :=
  let k := d.core core
  let third : Bool := match k.mism with | _ :: t :: _ => d.lt ≤ t + 1000000000 | _ => false
  ((d.setCore core { k with
    mism := (d.lt :: k.mism).take 2
    lastLt := d.lt
    lastWord := BitVec.ofNat 32 (arr + fld slot 1 + fld (b2n v.tree) 4 + fld v.rows 16)
    lastCols := BitVec.ofNat 32 v.cols }).bump (furSet core) 2 1, third)

/-- A mismatch: the third within 10 s retires the core, any other is recomputed (R146, R147). -/
def Dev.mismatch (d : Dev) (core : Nat) (o : FurrowOp) (v : Verdict) : Dev :=
  let (d, third) := d.noteMismatch core o.arr (fuSlot o.word) v
  if third then d.retireCore core 8 else d.rerun core o.arr

/-- TILE_CHECKSUM_COMPARE: the oldest MMA an array holds (R144). -/
def Dev.compare (d : Dev) (core arr : Nat) (ups : List (Nat × Word)) : Dev :=
  let k := d.core core
  match k.fops.find? (fun o => o.arr = arr) with
  | none => d
  | some o =>
    let v := (k.feeds o).verdict ups
    if v.passes then
      let d := d.setCore core { k with fops := passOps arr k.fops, redo := if bitOf k.redo arr then k.redo - 2 ^ arr else k.redo }
      let (d, acc) := d.unseen (slotBase o.word) ups k.acc
      let d := (d.modCore core (fun k => { k with acc := acc })).settleCost core
      match k.tag with
      | none => d
      | some t => d.tryFinish t
    else d.mismatch core o v

/-- TILE_CHECKSUM_COMPARE (R144). -/
def execTileChecksumCompare (core : CoreId) (arr : Fin 2) (ups : List (Nat × Word)) (s : State) : Host.Outcome State Fault Refusal :=
  s.onDev (fun d => d.compare core arr ups)

end Sys2Proof.Machine
end

