-- ==== Sys2Proof/Machine/Harrow.lean ====
section
/-!
DEFINITION. Sys2Proof/Machine/Harrow.lean: the vector engine (06; R188 to R203): the HARROW class, masking, scans and reductions,
accumulator reads, tile buffers, the local-store port, conversions.
-/
namespace Sys2Proof.Machine

/-! ## Fields (R190) -/

/-- VD. -/
def hVd (w : IWord) : Nat := wf w 52 49
/-- VA. -/
def hVa (w : IWord) : Nat := wf w 48 45
/-- VB. -/
def hVb (w : IWord) : Nat := wf w 44 41
/-- VC. -/
def hVc (w : IWord) : Nat := wf w 40 37
/-- MASK. -/
def hMask (w : IWord) : Nat := wf w 36 34
/-- MZ. -/
def hMz (w : IWord) : Bool := bitOf w.toNat 33
/-- BS. -/
def hBs (w : IWord) : Bool := bitOf w.toNat 32
/-- SB. -/
def hSb (w : IWord) : Nat := wf w 31 27
/-- CHAIN. -/
def hChain (w : IWord) : Bool := bitOf w.toNat 23
/-- FLAGS, and TB where the operation names a tile buffer. -/
def hTb (w : IWord) : Nat := wf w 26 24

/-- What an operation uses: VD, VA, VB (with BS and SB), VC always, VC under CHAIN, MASK, MZ, SB alone, and its AUX bits. -/
structure HUse where
  d : Bool := false
  a : Bool := false
  b : Bool := false
  c : Bool := false
  chain : Bool := false
  m : Bool := false
  z : Bool := false
  s : Bool := false
  aux : Nat := 0

/-- The fields of each operation (R191). The destination lanes of a reduction are all written, so it has no use for MZ. -/
def hUse (op : Nat) : HUse :=
  match op with
  | 0x00 | 0x01 | 0x02 | 0x04 | 0x05 | 0x0A | 0x0B | 0x0C => { d := true, a := true, b := true, m := true, z := true }
  | 0x03 => { d := true, a := true, b := true, c := true, m := true, z := true }
  | 0x06 | 0x07 | 0x08 | 0x10 | 0x11 | 0x12 | 0x13 | 0x14 => { d := true, a := true, m := true, z := true }
  | 0x18 | 0x19 => { d := true, a := true, chain := true, m := true, z := true, aux := fld 1 23 }
  | 0x1A | 0x1B => { d := true, a := true, chain := true, m := true, z := true, aux := fld 15 23 }
  | 0x20 | 0x21 | 0x22 => { d := true, a := true, chain := true, m := true, aux := fld 0x7F 17 }
  | 0x23 | 0x24 => { d := true, a := true, chain := true, m := true, aux := fld 15 23 }
  | 0x28 | 0x29 | 0x2A => { d := true, a := true, b := true }
  | 0x2B => { d := true, a := true }
  | 0x2C => { d := true, aux := fld 0x3FF 17 }
  | 0x2D => { d := true, s := true }
  | 0x30 => { d := true, m := true, z := true, aux := fld 0x3F 21 }
  | 0x32 => { d := true, m := true, z := true, s := true, aux := fld 7 24 }
  | 0x33 => { a := true, m := true, z := true, s := true, aux := fld 7 24 }
  | 0x34 => { d := true, m := true, z := true, s := true }
  | 0x35 => { a := true, m := true, z := true, s := true }
  | 0x36 | 0x37 => { s := true, aux := fld 7 24 }
  | 0x38 | 0x39 => { s := true, aux := fld 0xFFFFF 7 }
  | _ => {}

/-- A mask destination. -/
def hMaskDest (op : Nat) : Bool := (0x0A ≤ op && op ≤ 0x0C) || (0x28 ≤ op && op ≤ 0x2D)

/-- A CVT or CVTIN field breaks R202. Without a scale BLK is not used, but for KIND 2, which asks for code 3. -/
def cvtBad (w : IWord) (op : Nat) : Bool :=
  let fmt := wf w 23 20
  let scale := wf w 19 18
  let blk := wf w 17 16
  let kind := wf w 14 13
  7 < fmt || scale = 3 || (scale != 0 && 4 < fmt) || (scale = 0 && wf w 11 7 != 0) || (op = 0x39 && wf w 14 12 != 0)
    || (kind = 2 && blk != 3) || (scale = 0 && blk != 0 && kind != 2)

/-- An instruction that raises ILLEGAL_INSTRUCTION (R192). With BS = 1 the field VB is not used. -/
def harIllegal (w : IWord) (op : Nat) : Bool :=
  let u := hUse op
  (!u.d && hVd w != 0) || (!u.a && hVa w != 0) || (!(u.b && !hBs w) && hVb w != 0)
    || (!(u.c || (u.chain && hChain w)) && hVc w != 0) || (!u.m && hMask w != 0) || (!u.z && hMz w)
    || (hBs w && !(op ≤ 5 || (0x0A ≤ op && op ≤ 0x0C))) || (!(u.s || hBs w) && hSb w != 0)
    || wf w 26 0 &&& (2 ^ 27 - 1 - u.aux) != 0
    || (0x20 ≤ op && op ≤ 0x22 && !bitOf w.toNat 22 && wf w 21 17 != 0)
    || (hMaskDest op && (hVd w = 0 || 8 ≤ hVd w)) || (0x28 ≤ op && op ≤ 0x2B && (8 ≤ hVa w || 8 ≤ hVb w))
    || ((op = 0x38 || op = 0x39) && cvtBad w op)

/-! ## Registers (R188) -/

/-- The lanes. -/
def lanes : List Nat := List.range 64
/-- A vector register. -/
def Core.vec (k : Core) (v : Nat) : List Word := lanes.map (fun l => Tbl.get k.v (64 * v + l) 0)
/-- A vector register written. -/
def Core.setVec (k : Core) (v : Nat) (xs : List Word) : Core := { k with v := Tbl.paste k.v (64 * v) 64 (wordsOf 0 (xs.flatMap (bytesOf 4))) }
/-- A mask register; M0 reads as all ones. -/
def Core.mask (k : Core) (m : Nat) : Nat := if m = 0 then 2 ^ 64 - 1 else Tbl.get k.m m 0
/-- A mask register written; M0 cannot be. -/
def Core.setMask (k : Core) (m v : Nat) : Core := if m = 0 then k else { k with m := Tbl.set k.m m v 0 }
/-- The key of a tile-buffer word. -/
def tileKey (b r l : Nat) : Nat := 1024 * b + 64 * r + l
/-- A tile-buffer row. -/
def Core.row (k : Core) (b r : Nat) : List Word := lanes.map (fun l => Tbl.get k.t (tileKey b r l) 0)
/-- A tile-buffer row written. -/
def Core.setRow (k : Core) (b r : Nat) (xs : List Word) : Core :=
  { k with t := Tbl.paste k.t (tileKey b r 0) 64 (wordsOf 0 (xs.flatMap (bytesOf 4))) }

/-- New lanes where active, else the old ones or zeros (R195). -/
def merge (act : Nat) (mz : Bool) (old new : List Word) : List Word :=
  lanes.map (fun l => if bitOf act l then new.getD l 0 else if mz then 0 else old.getD l 0)

/-! ## Operations on lanes (R193, R200) -/

/-- The canonical NaN. -/
def nan32 : Word := 0x7FC00000
/-- Maximum: NaN if either is, −0 below +0. -/
def max32 (a b : Word) : Word :=
  let x := f32 a
  let y := f32 b
  if x.isNan || y.isNan then nan32
  else if Val.lt x y then b else if Val.lt y x then a else if x.sign then b else a
/-- Minimum: NaN if either is, −0 below +0. -/
def min32 (a b : Word) : Word :=
  let x := f32 a
  let y := f32 b
  if x.isNan || y.isNan then nan32
  else if Val.lt x y then a else if Val.lt y x then b else if x.sign then a else b
/-- Negation: the sign bit, a NaN canonical. -/
def neg32 (a : Word) : Word := if (f32 a).isNan then nan32 else a ^^^ 0x80000000
/-- Magnitude: the sign bit, a NaN canonical. -/
def abs32 (a : Word) : Word := if (f32 a).isNan then nan32 else a &&& 0x7FFFFFFF
/-- Difference. -/
def sub32 (a b : Word) : Word := rne32 (Val.add (f32 a) (f32 b).neg)

/-- A binary operation with its identity (R200). -/
structure Fold where
  op : Word → Word → Word
  unit : Word

/-- Addition, identity −0.0. -/
def foldAdd : Fold := ⟨add32, 0x80000000⟩
/-- Maximum, identity −∞. -/
def foldMax : Fold := ⟨max32, 0xFF800000⟩
/-- Minimum, identity +∞. -/
def foldMin : Fold := ⟨min32, 0x7F800000⟩

/-- One level of the scan network at distance s (R200): lanes and flags. -/
def scanLevel (op : Word → Word → Word) (s : Nat) (r : List Word × Nat) : List Word × Nat :=
  let (x, f) := r
  let joins (l : Nat) : Bool := s ≤ l && !bitOf f l
  (lanes.map (fun l => if joins l then op (x.getD (l - s) 0) (x.getD l 0) else x.getD l 0),
   (lanes.map (fun l => if bitOf f l || (joins l && bitOf f (l - s)) then 2 ^ l else 0)).sum)

/-- The six-level network (R200). -/
def segScan (op : Word → Word → Word) (x : List Word) (f : Nat) : List Word :=
  ([1, 2, 4, 8, 16, 32].foldl (fun r s => scanLevel op s r) (x, f)).1

/-- The reduction tree: 2h and 2h + 1 give h (R201). -/
def redLevel (op : Word → Word → Word) : List Word → List Word
  | a :: b :: t => op a b :: redLevel op t
  | t => t

/-- Six levels. -/
def redTree (op : Word → Word → Word) (x : List Word) : Word := (iter (redLevel op) 6 x).headD 0

/-! ## Issue -/

/-- The word is the HARROW instruction of an OP. -/
def isHarrow (op : Nat) (w : IWord) : Bool := iClass w = 6 && wf w 58 53 = op

/-- The part of the Harrow an OP occupies: special functions, reductions or conversions (R205). -/
def harMark (op : Nat) : Nat :=
  if 0x10 ≤ op && op ≤ 0x14 then 1 else if 0x20 ≤ op && op ≤ 0x24 then 2 else if op = 0x38 || op = 0x39 then 4 else 0

/-- A Harrow operation accepted: counted, the core busy (R121, R205). -/
def Dev.harDone (d : Dev) (core op : Nat) : Res :=
  .done ((d.modCore core (fun k => { k with busy := k.busy + 1, harBusy := k.harBusy ||| harMark op })).bump (harSet core) 0 1)

/-- A Harrow instruction of an OP (R192). -/
def Dev.harrow (d : Dev) (a : At) (w : IWord) (op : Nat) (f : Dev → CtxId → Nat → Res) : Dev :=
  d.issue a w (isHarrow op w) (fun d c i => if harIllegal w op then .trap d 1 0 none else f d c i)

/-- An operation whose effect is the core's alone. -/
def Dev.harCore (d : Dev) (a : At) (w : IWord) (op : Nat) (f : Core → Nat → Core) : Dev :=
  d.harrow a w op (fun d _ i => (d.modCore a.core (fun k => f k i)).harDone a.core op)

/-- The VB operand, or the broadcast scalar (R190). -/
def Core.vb (k : Core) (i : Nat) (w : IWord) : List Word := if hBs w then lanes.map (fun _ => (k.stage i).reg (hSb w)) else k.vec (hVb w)

/-- VD written under the mask. -/
def Core.result (k : Core) (w : IWord) (xs : List Word) : Core :=
  k.setVec (hVd w) (merge (k.mask (hMask w)) (hMz w) (k.vec (hVd w)) xs)

/-- A two-operand lane operation. -/
def Dev.lane2 (d : Dev) (a : At) (w : IWord) (op : Nat) (f : Word → Word → Word) : Dev :=
  d.harCore a w op (fun k i => k.result w (List.zipWith f (k.vec (hVa w)) (k.vb i w)))

/-- A one-operand lane operation. -/
def Dev.lane1 (d : Dev) (a : At) (w : IWord) (op : Nat) (f : Word → Word) : Dev :=
  d.harCore a w op (fun k _ => k.result w ((k.vec (hVa w)).map f))

/-- HARROW_ADD (R193). -/
def execHarrowAdd (at_ : At) (w : IWord) (s : State) : Host.Outcome State Fault Refusal := s.onDev (fun d => d.lane2 at_ w 0x00 add32)
/-- HARROW_SUB (R193). -/
def execHarrowSub (at_ : At) (w : IWord) (s : State) : Host.Outcome State Fault Refusal := s.onDev (fun d => d.lane2 at_ w 0x01 sub32)
/-- HARROW_MUL (R193). -/
def execHarrowMul (at_ : At) (w : IWord) (s : State) : Host.Outcome State Fault Refusal := s.onDev (fun d => d.lane2 at_ w 0x02 mul32)
/-- FMA (R193): one rounding. -/
def execFma (at_ : At) (w : IWord) (s : State) : Host.Outcome State Fault Refusal :=
  s.onDev (fun d => d.harCore at_ w 0x03 (fun k i =>
    k.result w (List.zipWith (fun f z => f z) (List.zipWith fma32 (k.vec (hVa w)) (k.vb i w)) (k.vec (hVc w)))))
/-- MAX (R193). -/
def execMax (at_ : At) (w : IWord) (s : State) : Host.Outcome State Fault Refusal := s.onDev (fun d => d.lane2 at_ w 0x04 max32)
/-- MIN (R193). -/
def execMin (at_ : At) (w : IWord) (s : State) : Host.Outcome State Fault Refusal := s.onDev (fun d => d.lane2 at_ w 0x05 min32)
/-- ABS (R193). -/
def execAbs (at_ : At) (w : IWord) (s : State) : Host.Outcome State Fault Refusal := s.onDev (fun d => d.lane1 at_ w 0x06 abs32)
/-- NEG (R193). -/
def execNeg (at_ : At) (w : IWord) (s : State) : Host.Outcome State Fault Refusal := s.onDev (fun d => d.lane1 at_ w 0x07 neg32)
/-- MOV (R191). -/
def execMov (at_ : At) (w : IWord) (s : State) : Host.Outcome State Fault Refusal := s.onDev (fun d => d.lane1 at_ w 0x08 id)

/-- A comparison into a mask (R193, R195): inactive bits keep their value or become 0. -/
def Dev.laneCmp (d : Dev) (a : At) (w : IWord) (op : Nat) (p : Val → Val → Bool) : Dev :=
  d.harCore a w op (fun k i =>
    let act := k.mask (hMask w)
    let old := k.mask (hVd w)
    let x := k.vec (hVa w)
    let y := k.vb i w
    k.setMask (hVd w) ((lanes.map (fun l =>
      let b := if bitOf act l then p (f32 (x.getD l 0)) (f32 (y.getD l 0)) else !hMz w && bitOf old l
      if b then 2 ^ l else 0)).sum))

/-- CMPLT (R193). -/
def execCmplt (at_ : At) (w : IWord) (s : State) : Host.Outcome State Fault Refusal := s.onDev (fun d => d.laneCmp at_ w 0x0A Val.lt)
/-- CMPLE (R193). -/
def execCmple (at_ : At) (w : IWord) (s : State) : Host.Outcome State Fault Refusal :=
  s.onDev (fun d => d.laneCmp at_ w 0x0B (fun x y => Val.lt x y || Val.eq x y))
/-- CMPEQ (R193). -/
def execCmpeq (at_ : At) (w : IWord) (s : State) : Host.Outcome State Fault Refusal := s.onDev (fun d => d.laneCmp at_ w 0x0C Val.eq)

/-- EXP (R194). -/
def execExp (at_ : At) (w : IWord) (s : State) : Host.Outcome State Fault Refusal :=
  s.onDev (fun d => d.lane1 at_ w 0x10 (fun x => rne32 (f32 x).expE))
/-- EXP2 (R194). -/
def execExp2 (at_ : At) (w : IWord) (s : State) : Host.Outcome State Fault Refusal :=
  s.onDev (fun d => d.lane1 at_ w 0x11 (fun x => rne32 (f32 x).exp2E))
/-- LN (R194). -/
def execLn (at_ : At) (w : IWord) (s : State) : Host.Outcome State Fault Refusal :=
  s.onDev (fun d => d.lane1 at_ w 0x12 (fun x => rne32 (f32 x).lnE))
/-- RCP (R194). -/
def execRcp (at_ : At) (w : IWord) (s : State) : Host.Outcome State Fault Refusal :=
  s.onDev (fun d => d.lane1 at_ w 0x13 (fun x => rne32 (f32 x).rcpE))
/-- RSQRT (R194). -/
def execRsqrt (at_ : At) (w : IWord) (s : State) : Host.Outcome State Fault Refusal :=
  s.onDev (fun d => d.lane1 at_ w 0x14 (fun x => rne32 (f32 x).rsqrtE))

/-! ## Scans and reductions (R199 to R201) -/

/-- VA with inactive lanes at the identity (R195). -/
def Core.inputs (k : Core) (w : IWord) (f : Fold) : List Word :=
  let act := k.mask (hMask w)
  let x := k.vec (hVa w)
  lanes.map (fun l => if bitOf act l then x.getD l 0 else f.unit)

/-- Inputs and flags after R199: without CHAIN lane 0 starts a segment; with it, and no start there, VC[63] is folded in. -/
def Core.chained (k : Core) (w : IWord) (f : Fold) (flags : Nat) : List Word × Nat :=
  let x := k.inputs w f
  if !hChain w then (x, flags ||| 1)
  else if bitOf flags 0 then (x, flags)
  else (f.op ((k.vec (hVc w)).getD 63 0) (x.getD 0 0) :: x.drop 1, flags)

/-- A scan, its segments from the FLAGS mask or none. -/
def Dev.scan (d : Dev) (a : At) (w : IWord) (op : Nat) (seg : Bool) (f : Fold) : Dev :=
  d.harCore a w op (fun k _ =>
    let (x, fl) := k.chained w f (if seg then k.mask (hTb w) else 0)
    k.result w (segScan f.op x fl))

/-- SCAN_ADD (R200). -/
def execScanAdd (at_ : At) (w : IWord) (s : State) : Host.Outcome State Fault Refusal := s.onDev (fun d => d.scan at_ w 0x18 false foldAdd)
/-- SCAN_MAX (R200). -/
def execScanMax (at_ : At) (w : IWord) (s : State) : Host.Outcome State Fault Refusal := s.onDev (fun d => d.scan at_ w 0x19 false foldMax)
/-- SEGSCAN_ADD (R199). -/
def execSegscanAdd (at_ : At) (w : IWord) (s : State) : Host.Outcome State Fault Refusal := s.onDev (fun d => d.scan at_ w 0x1A true foldAdd)
/-- SEGSCAN_MAX (R199). -/
def execSegscanMax (at_ : At) (w : IWord) (s : State) : Host.Outcome State Fault Refusal := s.onDev (fun d => d.scan at_ w 0x1B true foldMax)

/-- A tree reduction into every lane of VD, and with TOS into SD (R201). -/
def Dev.red (d : Dev) (a : At) (w : IWord) (op : Nat) (f : Fold) : Dev :=
  d.harCore a w op (fun k i =>
    let r := redTree f.op (k.inputs w f)
    let r := if hChain w then f.op ((k.vec (hVc w)).getD 0 0) r else r
    let k := k.setVec (hVd w) (lanes.map (fun _ => r))
    if bitOf w.toNat 22 then k.modStage i (fun s => s.setReg (wf w 21 17) r) else k)

/-- RED_ADD (R201). -/
def execRedAdd (at_ : At) (w : IWord) (s : State) : Host.Outcome State Fault Refusal := s.onDev (fun d => d.red at_ w 0x20 foldAdd)
/-- RED_MAX (R201). -/
def execRedMax (at_ : At) (w : IWord) (s : State) : Host.Outcome State Fault Refusal := s.onDev (fun d => d.red at_ w 0x21 foldMax)
/-- RED_MIN (R201). -/
def execRedMin (at_ : At) (w : IWord) (s : State) : Host.Outcome State Fault Refusal := s.onDev (fun d => d.red at_ w 0x22 foldMin)

/-- The last lane of a lane's segment. -/
def segEnd (flags l : Nat) : Nat := (firstWhere (fun j => l < j && bitOf flags j) 64).getD 64 - 1

/-- A segmented reduction: each lane gets the scan value at its segment's last lane (R201). -/
def Dev.segred (d : Dev) (a : At) (w : IWord) (op : Nat) (f : Fold) : Dev :=
  d.harCore a w op (fun k _ =>
    let (x, fl) := k.chained w f (k.mask (hTb w))
    let y := segScan f.op x fl
    k.setVec (hVd w) (lanes.map (fun l => y.getD (segEnd fl l) 0)))

/-- SEGRED_ADD (R201). -/
def execSegredAdd (at_ : At) (w : IWord) (s : State) : Host.Outcome State Fault Refusal := s.onDev (fun d => d.segred at_ w 0x23 foldAdd)
/-- SEGRED_MAX (R201). -/
def execSegredMax (at_ : At) (w : IWord) (s : State) : Host.Outcome State Fault Refusal := s.onDev (fun d => d.segred at_ w 0x24 foldMax)

/-! ## Masks (R191) -/

/-- A mask operation. -/
def Dev.maskOp (d : Dev) (a : At) (w : IWord) (op : Nat) (f : BitVec 64 → BitVec 64 → BitVec 64) : Dev :=
  d.harCore a w op (fun k _ =>
    k.setMask (hVd w) (f (BitVec.ofNat 64 (k.mask (hVa w))) (BitVec.ofNat 64 (k.mask (hVb w)))).toNat)

/-- MAND (R191). -/
def execMand (at_ : At) (w : IWord) (s : State) : Host.Outcome State Fault Refusal := s.onDev (fun d => d.maskOp at_ w 0x28 (fun x y => x &&& y))
/-- MOR (R191). -/
def execMor (at_ : At) (w : IWord) (s : State) : Host.Outcome State Fault Refusal := s.onDev (fun d => d.maskOp at_ w 0x29 (fun x y => x ||| y))
/-- MXOR (R191). -/
def execMxor (at_ : At) (w : IWord) (s : State) : Host.Outcome State Fault Refusal := s.onDev (fun d => d.maskOp at_ w 0x2A (fun x y => x ^^^ y))
/-- MNOT (R191). -/
def execMnot (at_ : At) (w : IWord) (s : State) : Host.Outcome State Fault Refusal := s.onDev (fun d => d.maskOp at_ w 0x2B (fun x _ => ~~~x))

/-- MSET (R191): S[SHI] : S[SLO]. -/
def execMset (at_ : At) (w : IWord) (s : State) : Host.Outcome State Fault Refusal :=
  s.onDev (fun d => d.harCore at_ w 0x2C (fun k i =>
    k.setMask (hVd w) (((k.stage i).reg (wf w 26 22)).toNat + fld ((k.stage i).reg (wf w 21 17)).toNat 32)))

/-- MPERIOD (R191): n is bits 6:0 of S[SB]; 0 or above 64 sets only bit 0. -/
def execMperiod (at_ : At) (w : IWord) (s : State) : Host.Outcome State Fault Refusal :=
  s.onDev (fun d => d.harCore at_ w 0x2D (fun k i =>
    let n := bits ((k.stage i).reg (hSb w)).toNat 6 0
    k.setMask (hVd w) (if n = 0 || 64 < n then 1 else (lanes.map (fun l => if l % n = 0 then 2 ^ l else 0)).sum)))

/-! ## Accumulators and tile buffers (R196) -/

/-- ACC (R196): a quarter of a slot, once the stage's operations on that slot are complete. -/
def execAcc (at_ : At) (w : IWord) (s : State) : Host.Outcome State Fault Refusal :=
  s.onDev (fun d => d.harrow at_ w 0x30 (fun d _ i =>
    let arr := wf w 26 26
    let slot := wf w 25 23
    let k := d.core at_.core
    if k.fops.any (fun o => o.stage = i && o.arr = arr && (fuSlot o.word = slot || (slotWords o.word = 512 && fuSlot o.word + 1 = slot))) then
      .stall d 2
    else
      (d.setCore at_.core (k.result w (lanes.map (fun l => Tbl.get k.acc (accKey arr slot (64 * wf w 22 21 + l)) 0)))).harDone at_.core 0x30))

/-- The row of TLD and TST: bits 3:0 of S[SB]. -/
def Core.tileRow (k : Core) (i : Nat) (w : IWord) : Nat := bits ((k.stage i).reg (hSb w)).toNat 3 0

/-- TLD (R191). -/
def execTld (at_ : At) (w : IWord) (s : State) : Host.Outcome State Fault Refusal :=
  s.onDev (fun d => d.harCore at_ w 0x32 (fun k i => k.result w (k.row (hTb w) (k.tileRow i w))))

/-- TST (R191, R195). -/
def execTst (at_ : At) (w : IWord) (s : State) : Host.Outcome State Fault Refusal :=
  s.onDev (fun d => d.harCore at_ w 0x33 (fun k i =>
    let r := k.tileRow i w
    k.setRow (hTb w) r (merge (k.mask (hMask w)) (hMz w) (k.row (hTb w) r) (k.vec (hVa w)))))

/-! ## The local-store port (R191, R197) -/

/-- A local-store offset from a scalar register, bits 5:0 taken as 0. -/
def Core.lsOff (k : Core) (i r : Nat) : Nat := ((k.stage i).reg r).toNat / 64 * 64

/-- The words of bytes. -/
def words32 (bs : List Byte) : List Word := (List.range (bs.length / 4)).map (fun i => BitVec.ofNat 32 (leNat ((bs.drop (4 * i)).take 4)))

/-- Poison consumed by a unit of a core on behalf of its LAUNCH (R286). -/
def Dev.eat (d : Dev) (core : Nat) (c : CtxId) (unit : Nat) (bad : Option Nat) : Dev :=
  match bad with
  | none => d
  | some a => d.consume c (d.core core).tag (clusterOf core) unit a

/-- LD (R191): a block all of whose lanes are inactive is not consumed (R195). -/
def execLd (at_ : At) (w : IWord) (s : State) : Host.Outcome State Fault Refusal :=
  s.onDev (fun d => d.harrow at_ w 0x34 (fun d c i =>
    let k := d.core at_.core
    let off := k.lsOff i (hSb w)
    if !k.inLocal off 256 then .trap d 2 0 none
    else
      let act := k.mask (hMask w)
      let used := (List.range 4).filter (fun b => bits act (16 * b + 15) (16 * b) != 0)
      let bad := used.findSome? (fun b => (k.lsRead (off + 64 * b) 64).2)
      d.lsGuard at_.core (used.map (fun b => (off + 64 * b, 64)))
        (((d.setCore at_.core (k.result w (words32 (k.lsRead off 256).1))).eat at_.core c 2 bad).harDone at_.core 0x34)))

/-- A 64-byte block of a masked store: whole when every lane is written, else lane by lane (R195, R288). -/
def Core.stBlock (k : Core) (off : Nat) (act : Nat) (mz : Bool) (xs : List Word) (b : Nat) : Core :=
  let ls := (List.range 16).map (fun j => 16 * b + j)
  let val (l : Nat) : Word := if bitOf act l then xs.getD l 0 else 0
  if mz || ls.all (bitOf act) then k.lsWrite (off + 64 * b) (ls.flatMap (fun l => bytesOf 4 (val l)))
  else ls.foldl (fun k l => if bitOf act l then k.lsWrite (off + 4 * l) (bytesOf 4 (val l)) else k) k

/-- ST (R191, R195). -/
def execSt (at_ : At) (w : IWord) (s : State) : Host.Outcome State Fault Refusal :=
  s.onDev (fun d => d.harrow at_ w 0x35 (fun d _ i =>
    let k := d.core at_.core
    let off := k.lsOff i (hSb w)
    if !k.inLocal off 256 then .trap d 2 0 none
    else
      (d.setCore at_.core ((List.range 4).foldl (fun k b => k.stBlock off (k.mask (hMask w)) (hMz w) (k.vec (hVa w)) b) k)).harDone at_.core 0x35))

/-- TFILL (R191). -/
def execTfill (at_ : At) (w : IWord) (s : State) : Host.Outcome State Fault Refusal :=
  s.onDev (fun d => d.harrow at_ w 0x36 (fun d c i =>
    let k := d.core at_.core
    let off := k.lsOff i (hSb w)
    if !k.inLocal off 4096 then .trap d 2 0 none
    else
      let (bs, bad) := k.lsRead off 4096
      d.lsGuard at_.core [(off, 4096)]
        (((d.setCore at_.core { k with t := Tbl.paste k.t (tileKey (hTb w) 0 0) 1024 (wordsOf 0 bs) }).eat at_.core c 2 bad).harDone at_.core 0x36)))

/-- TSPILL (R191). -/
def execTspill (at_ : At) (w : IWord) (s : State) : Host.Outcome State Fault Refusal :=
  s.onDev (fun d => d.harrow at_ w 0x37 (fun d _ i =>
    let k := d.core at_.core
    let off := k.lsOff i (hSb w)
    if !k.inLocal off 4096 then .trap d 2 0 none
    else (d.setCore at_.core (k.lsWrite off (wordsAt k.t (tileKey (hTb w) 0 0) 1024))).harDone at_.core 0x37))

/-! ## Conversion (R202, R203) -/

/-- FMT, SCALE and BLK of a conversion. -/
def cvFmt (w : IWord) : Nat := wf w 23 20
/-- SCALE. -/
def cvScale (w : IWord) : Nat := wf w 19 18
/-- The block length. -/
def cvBlk (w : IWord) : Nat := blkSize (wf w 17 16)
/-- The word of a tile buffer that is element n under ORDER. -/
def cvKey (w : IWord) (n : Nat) : Nat := if bitOf w.toNat 15 then tileKey (hTb w) (n % 16) (n / 16) else tileKey (hTb w) (n / 64) (n % 64)
/-- Bytes of scales. -/
def cvScales (w : IWord) : Nat := if cvScale w = 0 then 0 else 1024 / cvBlk w
/-- The delayed recipe of KIND 2 applies (R168): a scale is formed. -/
def cvDelayed (w : IWord) : Bool := wf w 14 13 = 2 && cvScale w != 0

/-- Codes packed w bits each, element 0 lowest. -/
def packCodes (w : Nat) (cs : List Nat) : List Byte := natLe (cs.length * w / 8) (cs.foldr (fun c acc => c + 2 ^ w * acc) 0)

/-- The local-store ranges of a conversion lie in the local store. -/
def Core.cvLocal (k : Core) (i : Nat) (w : IWord) : Bool :=
  k.inLocal (k.lsOff i (hSb w)) (128 * fmtBits (cvFmt w))
    && (cvScale w = 0 || k.inLocal (k.lsOff i (wf w 11 7)) (if cvDelayed w then 96 else cvScales w))

/-- Blocks converted in order: scale bytes, codes, non-finite count, saturated count; the words give each block's delayed maximum
when it is valid. -/
def cvBlocks (w : IWord) (vals : List Val) (delayed : Nat → Option Val) : List BlockConv :=
  let n := if cvScale w = 0 then 1024 else cvBlk w
  (List.range (1024 / n)).map (fun b =>
    let vs := (vals.drop (n * b)).take n
    convBlock (cvFmt w) (cvScale w) (bitOf w.toNat 12) ((delayed b).getD (absMax vs)) vs)

/-- CVT (R202, R203). -/
def execCvt (at_ : At) (w : IWord) (s : State) : Host.Outcome State Fault Refusal :=
  s.onDev (fun d => d.harrow at_ w 0x38 (fun d c i =>
    let k := d.core at_.core
    if !k.cvLocal i w then .trap d 2 0 none
    else
      let off := k.lsOff i (hSb w)
      let sc := k.lsOff i (wf w 11 7)
      let vals := (List.range 1024).map (fun n => f32 (Tbl.get k.t (cvKey w n) 0))
      let (old, bad) := if cvDelayed w then k.lsRead (sc + 64) 32 else ([], none)
      let word (b : Nat) : Word := BitVec.ofNat 32 (leNat ((old.drop (4 * b)).take 4))
      let rs := cvBlocks w vals (fun b => if cvDelayed w && word b != 0xFFFFFFFF then some (f32 (word b)) else none)
      let k := k.lsWrite off (packCodes (fmtBits (cvFmt w)) (rs.flatMap (·.codes)))
      let k := if cvScale w = 0 then k else k.lsWrite sc (rs.map (fun r => BitVec.ofNat 8 r.scale))
      let k := if cvDelayed w then
          k.lsWrite (sc + 64) ((List.range 8).flatMap (fun b => bytesOf 4 (rne32 (absMax ((vals.drop (128 * b)).take 128)))))
        else k
      let e := (d.setCore at_.core k).eat at_.core c 2 bad
      let e := e.bump (harSet at_.core) 1 (rs.map (·.bad)).sum
      d.lsGuard at_.core (if cvDelayed w then [(sc + 64, 32)] else []) ((e.bump (harSet at_.core) 2 (rs.map (·.sat)).sum).harDone at_.core 0x38)))

/-- CVTIN (R161, R202): decoded exactly to FP32. -/
def execCvtin (at_ : At) (w : IWord) (s : State) : Host.Outcome State Fault Refusal :=
  s.onDev (fun d => d.harrow at_ w 0x39 (fun d c i =>
    let k := d.core at_.core
    if !k.cvLocal i w then .trap d 2 0 none
    else
      let fb := fmtBits (cvFmt w)
      let (bs, bad) := k.lsRead (k.lsOff i (hSb w)) (128 * fb)
      let (sc, bad2) := if cvScale w = 0 then ([], none) else k.lsRead (k.lsOff i (wf w 11 7)) (cvScales w)
      let x := leNat bs
      let t := (List.range 1024).foldl (fun t n =>
        Tbl.set t (cvKey w n) (rne32 (scaled (cvFmt w) (cvScale w) (bits x (fb * n + fb - 1) (fb * n)) (sc.getD (n / cvBlk w) 0).toNat)) 0) k.t
      d.lsGuard at_.core ((k.lsOff i (hSb w), 128 * fb) :: if cvScale w = 0 then [] else [(k.lsOff i (wf w 11 7), cvScales w)])
        (((d.setCore at_.core { k with t := t }).eat at_.core c 2 (bad.orElse (fun _ => bad2))).harDone at_.core 0x39)))

end Sys2Proof.Machine
end

