-- ==== Sys2Proof/Machine/Attention.lean ====
section
/-!
DEFINITION. Sys2Proof/Machine/Attention.lean: the fused attention path (07; R206 to R223): the ATTN class.
-/
namespace Sys2Proof.Machine

/-! ## The parameter record (R210) -/

/-- The fields of a parameter record. -/
structure AttRec where
  fmt : Nat
  scale : Nat
  blk : Nat
  fmtV : Nat
  compat : Bool
  dq : Nat
  nv : Nat
  sslot : Nat
  oslot : Nat
  nb : Nat
  mask : Nat
  rows : Nat
  mult : Word
  qBase : Nat
  keyBase : Nat
  keyLen : Nat
  qOff : Nat
  kvOff : Nat
  kvStride : Nat
  bitmap : Nat
  out : Nat
  stride : Nat
  /-- A reserved or unlisted bit is set. -/
  reserved : Bool

/-- The record's fields. -/
def attRec (x : Rec64) : AttRec :=
  let b (i : Nat) : Nat := fieldB x i 1
  let u (i : Nat) : Nat := fieldB x i 4
  { fmt := bits (b 0) 3 0, scale := bits (b 0) 5 4, blk := bits (b 0) 7 6, fmtV := bits (b 1) 3 0, compat := bitOf (b 1) 4
    dq := b 2, nv := b 3, sslot := bits (b 4) 2 0, oslot := bits (b 4) 6 4, nb := b 5, mask := bits (b 6) 2 0, rows := bits (b 7) 4 0
    mult := BitVec.ofNat 32 (u 8), qBase := u 12, keyBase := u 16, keyLen := u 20, qOff := u 24, kvOff := u 28, kvStride := u 32
    bitmap := u 36, out := u 40, stride := u 44
    reserved := bits (b 1) 7 5 != 0 || bitOf (b 4) 3 || bitOf (b 4) 7 || bits (b 6) 7 3 != 0 || bits (b 7) 7 5 != 0 || fieldB x 48 16 != 0 }

/-- Keys of a key block, and score panels of it (R208, R220). -/
def AttRec.keys (r : AttRec) : Nat := if r.compat then 32 else 64
/-- K panels of a block. -/
def AttRec.kPanels (r : AttRec) : Nat := r.keys / 16
/-- Steps of a score MMA. -/
def AttRec.kSteps (r : AttRec) : Nat := 16 * r.dq / fmtKg r.fmt
/-- PK. -/
def AttRec.pk (r : AttRec) : Nat := panelBytes r.fmt r.scale 0 r.blk r.kSteps
/-- Steps of a value MMA. -/
def AttRec.vSteps (r : AttRec) : Nat := r.keys / fmtKg r.fmtV
/-- PV. -/
def AttRec.pv (r : AttRec) : Nat := panelBytes r.fmtV 0 0 0 r.vSteps
/-- The bytes of a block. -/
def AttRec.blockBytes (r : AttRec) : Nat := 4 * r.pk + r.nv * r.pv
/-- The bytes of a partial record (R218). -/
def AttRec.recBytes (r : AttRec) : Nat := 192 + 64 * 16 * r.nv

/-- NV and OSLOT out of range. -/
def AttRec.oBad (r : AttRec) : Bool := r.nv = 0 || 8 < r.nv || 8 < r.oslot + r.nv

/-- A field an operation reads is out of range (R210, R211). -/
def AttRec.bad (r : AttRec) (op : Nat) : Bool :=
  match op with
  | 0 => (r.fmtV != 5 && r.fmtV != 6) || r.oBad
  | 1 =>
    r.fmt < 3 || 6 < r.fmt || 2 < r.scale || (r.scale != 0 && 4 < r.fmt) || 16 * r.dq % blkSize r.blk != 0
      || (r.fmtV != 5 && r.fmtV != 6) || r.dq = 0 || 16 < r.dq || r.oBad || r.sslot % (if r.compat then 2 else 4) != 0
      || r.nb = 0 || 16 < r.nb || r.rows = 0 || 16 < r.rows || r.qOff % 64 != 0 || r.kvOff % 64 != 0 || r.bitmap % 64 != 0
      || r.kvStride < r.blockBytes
  | 4 => r.oBad || r.nb = 0 || 35 < r.nb || r.out % 64 != 0 || r.stride < r.recBytes
  | _ => r.oBad || r.rows = 0 || 16 < r.rows || r.out % 64 != 0

/-- The local-store ranges an operation uses, as (offset, length). -/
def AttRec.ranges (r : AttRec) (op : Nat) : List (Nat × Nat) :=
  match op with
  | 1 => (r.qOff, r.pk) :: (r.kvOff, (r.nb - 1) * r.kvStride + r.blockBytes) :: (if bitOf r.mask 2 then [(r.bitmap, 128 * r.nb)] else [])
  | 2 => [(r.out, 128)]
  | 3 => [(r.out, r.recBytes)]
  | 4 => [(r.out, (r.nb - 1) * r.stride + r.recBytes)]
  | _ => []

/-! ## Issue (R207, R209, R211) -/

/-- The word is the ATTN instruction of an OP. -/
def isAttn (op : Nat) (w : IWord) : Bool := iClass w = 7 && wf w 58 56 = op

/-- A state set. -/
def Core.aset (k : Core) (n : Nat) : ASet := Tbl.get k.sets n ASet.empty
/-- A state set written. -/
def Core.setAset (k : Core) (n : Nat) (a : ASet) : Core := { k with sets := Tbl.set k.sets n a ASet.empty }

/-- What an operation leaves: the device, whether the core retired within it, its empty rows and its rows not finite. -/
structure AttOut where
  dev : Dev
  gone : Bool
  empty : Nat
  nonfin : Nat

/-- An operation that leaves its core as k. -/
def attOut (d : Dev) (core : Nat) (k : Core) (empty nonfin : Nat) : AttOut := ⟨d.setCore core k, false, empty, nonfin⟩

/-- An ATTN operation: encoding, licence, the record and its ranges checked; it waits while an array holds an operation (R207). -/
def Dev.attn (d : Dev) (a : At) (w : IWord) (op : Nat) (f : Dev → Core → AttRec → ASet → AttOut) : Dev :=
  d.issue a w (isAttn op w) (fun d c i =>
    let k := d.core a.core
    let off := k.lsOff i (wf w 53 49)
    if !bitOf (d.licOf a.core) 3 then .trap d 6 0 none
    else if wf w 48 0 != 0 then .trap d 1 0 none
    else if !k.inLocal off 64 then .trap d 2 0 none
    else
      let (bs, bad) := k.lsRead off 64
      let r := attRec (recOf bs)
      let n := wf w 55 54
      let s := k.aset n
      d.lsGuard a.core [(off, 64)] (
        if r.reserved || r.bad op || (op != 0 && (!s.begun || s.compat != r.compat || s.dv16 != r.nv)) || (3 ≤ op && r.compat) then
          .trap d 1 0 none
        else if (r.ranges op).any (fun x => !k.inLocal x.1 x.2) then .trap d 2 0 none
        else if !k.fops.isEmpty then .stall d 2
        else
          let ins := if op = 1 || op = 4 then r.ranges op else []
          let bad := ins.foldl (fun (b : Option Nat) x => b.orElse (fun _ => (k.lsRead x.1 x.2).2)) bad
          let o := f d k r s
          let d := (o.dev.modCore a.core (fun k => { k with busy := k.busy + 1, harBusy := k.harBusy ||| 8 })).eat a.core c 3 bad
          let d := ((d.bump (attSet a.core) 0 1).bump (attSet a.core) 1 o.empty).bump (attSet a.core) 2 o.nonfin
          o.dev.lsGuard a.core ins (if o.gone then .left (d.retireCore a.core 8) else .done d)))

/-! ## Rows -/

/-- Minus infinity. -/
def negInf : Word := 0xFF800000
/-- e^x of a word. -/
def exp32 (x : Word) : Word := rne32 (f32 x).expE
/-- ln x of a word. -/
def ln32 (x : Word) : Word := rne32 (f32 x).lnE

/-- The key of O of row i, column c. -/
def oKey (r : AttRec) (i c : Nat) : Nat := accKey 1 (r.oslot + c / 16) (16 * i + c % 16)

/-- A key is visible to a row (R212). -/
def AttRec.visible (r : AttRec) (k : Core) (b i j : Nat) : Bool :=
  let key := r.keyBase + r.keys * b + j
  i < r.rows && (!bitOf r.mask 0 || key < r.keyLen) && (!bitOf r.mask 1 || key ≤ r.qBase + i)
    && (!bitOf r.mask 2 || bitOf (leNat (k.lsRead (r.bitmap + 128 * b + 8 * i) 8).1) j)

/-- A row after a block: m, l, α and its p values (R213). -/
def softRow (m l : Word) (t : List Word) : Word × Word × Word × List Word :=
  let bm := t.tail.foldl max32 (t.headD negInf)
  let mn := max32 m bm
  let (a, p) := if mn = negInf then ((0x3F800000 : Word), t.map (fun _ => (0 : Word)))
    else (exp32 (sub32 m mn), t.map (fun x => exp32 (sub32 x mn)))
  (mn, add32 (mul32 a l) (redTree add32 (p ++ List.replicate (64 - p.length) 0x80000000)), a, p)

/-- The panel at a local-store offset, its steps along K. -/
def Core.panelAt (k : Core) (off fmt scale blk steps : Nat) : Panel :=
  ⟨leNat (k.lsRead off (panelBytes fmt scale 0 blk steps)).1, fmt, scale, 0, blk, steps⟩

/-- How a multiply of a block runs: on a state, by its number among the block's multiplies, its slot's key, and whether the slot is
replaced; it gives the accumulators with the product of its operands in them. -/
abbrev AttMma (σ : Type) := σ → Nat → Nat → Bool → Feeds → Tbl Word → σ × Tbl Word

/-- A multiply without its checksum. -/
def plainMma {σ : Type} : AttMma σ := fun x _ base init f acc => (x, runCells acc base f.kg f.steps init f.a f.b)

/-- One key block of a BLOCK (R213) on a core's local store, from the accumulators and the set. -/
def attBlock {σ : Type} (mma : AttMma σ) (k : Core) (r : AttRec) (b : Nat) (x : σ × Tbl Word × ASet) : σ × Tbl Word × ASet :=
  let (x, acc, s) := x
  let at_ := r.kvOff + b * r.kvStride
  let q := k.panelAt r.qOff r.fmt r.scale r.blk r.kSteps
  let (x, acc) := (List.range r.kPanels).foldl (fun (y : σ × Tbl Word) g =>
    let p := k.panelAt (at_ + g * r.pk) r.fmt r.scale r.blk r.kSteps
    mma y.1 g (accKey 0 (r.sslot + g) 0) true ⟨q.val, p.val, fmtKg r.fmt, r.kSteps⟩ y.2) (x, acc)
  let score (i j : Nat) : Word := Tbl.get acc (accKey 0 (r.sslot + j / 16) (16 * i + j % 16)) 0
  let t (i : Nat) : List Word :=
    (List.range r.keys).map (fun j => if r.visible k b i j then mul32 (score i j) r.mult else negInf)
  let rows := (List.range 16).map (fun i => softRow (Tbl.get s.m i 0) (Tbl.get s.l i 0) (t i))
  let row (i : Nat) : Word × Word × Word × List Word := rows.getD i (0, 0, 0, [])
  let skip := rows.all (fun x => x.2.2.1 = 0x3F800000) || s.first
  let acc := if skip then acc else
    (List.range 16).foldl (fun u i => (List.range (16 * r.nv)).foldl (fun u c =>
      Tbl.set u (oKey r i c) (mul32 (row i).2.2.1 (Tbl.get u (oKey r i c) 0)) 0) u) acc
  let p (i j : Nat) : Val := decode r.fmtV (convert r.fmtV false (f32 ((row i).2.2.2.getD j 0))).code
  let kg := fmtKg r.fmtV
  let (x, acc) := (List.range r.nv).foldl (fun (y : σ × Tbl Word) n =>
    let v := k.panelAt (at_ + 4 * r.pk + n * r.pv) r.fmtV 0 0 r.vSteps
    mma y.1 (r.kPanels + n) (accKey 1 (r.oslot + n) 0) false ⟨fun i st e => p i (st * kg + e), v.val, kg, r.vSteps⟩ y.2) (x, acc)
  (x, acc, { s with
     m := (List.range 16).foldl (fun u i => Tbl.set u i (row i).1 0) s.m
     l := (List.range 16).foldl (fun u i => Tbl.set u i (row i).2.1 0) s.l
     first := false })

/-- A set with every row at m = −∞ and l = +0 (R213). -/
def freshRows : Tbl Word := (List.range 16).map (fun i => (i, negInf))

/-- BEGIN (R213). -/
def execBegin (at_ : At) (w : IWord) (s : State) : Host.Outcome State Fault Refusal :=
  s.onDev (fun d => d.attn at_ w 0 (fun d k r _ =>
    attOut d at_.core (({ k with acc := Tbl.cut k.acc (accKey 1 r.oslot 0) (256 * r.nv) }).setAset (wf w 55 54)
      ⟨true, r.compat, r.nv, r.oslot, freshRows, [], true⟩) 0 0))

/-- The runs of a multiply up to one that passes (R223), from a run's number: each counts its steps, and each mismatch those of the
multiply behind it, which is redone too (R146). None passes before the core retires: then no run is given (R147). -/
def Dev.attRuns (d : Dev) (core arr slot behind : Nat) (f : Feeds) (ups : Nat → List (Nat × Word)) : Nat → Nat → Dev × Option Nat
  | 0, run => (d, some run)
  | fuel + 1, run =>
    let v := f.verdict (ups run)
    let d := d.bump (furSet core) arr f.steps
    if v.passes then (d, some run)
    else
      let (d, third) := d.noteMismatch core arr slot v
      if third then (d, none) else (d.bump (furSet core) arr behind).attRuns core arr slot behind f ups fuel (run + 1)

/-- A multiply of key block b of a BLOCK with its checksum (R223). Once the core has retired the rest does not run. -/
def attMma (core : Nat) (r : AttRec) (b : Nat) (ups : List AttUpset) : AttMma (Dev × Bool) := fun x n base init f acc =>
  if x.2 then (x, acc)
  else
    let mine := ups.filter (fun u => u.block = b && u.mma = n)
    let struck (run : Nat) : List (Nat × Word) := (mine.filter (fun u => u.run = run)).map (fun u => (u.place, u.value))
    let last := n + 1 = r.kPanels || n + 1 = r.kPanels + r.nv
    let (d, run) := x.1.attRuns core (base / 2048) (base / 256 % 8) (if last then 0 else f.steps) f struck (mine.length + 1) 0
    match run with
    | none => ((d, true), acc)
    | some run =>
      let (d, acc) := d.unseen base (struck run) (runCells acc base f.kg f.steps init f.a f.b)
      ((d, false), acc)

/-- BLOCK (R213): its key blocks in ascending order. -/
def execBlock (at_ : At) (w : IWord) (s : State) : Host.Outcome State Fault Refusal :=
  s.onDev (fun d => d.attn at_ w 1 (fun d k r a =>
    let (x, acc, a) := (List.range r.nb).foldl (fun y b => attBlock (attMma at_.core r b at_.runs) k r b y) ((d, false), k.acc, a)
    ⟨x.1.modCore at_.core (fun k => ({ k with acc := acc }).setAset (wf w 55 54) a), x.2, 0, 0⟩))

/-- What FINAL makes of a row (R214, R220): its o values, its LSE, whether it is empty, whether it is active and not finite. -/
def finalRow (k : Core) (r : AttRec) (s : ASet) (i : Nat) : List Word × Word × Bool × Bool :=
  let cols := List.range (16 * r.nv)
  let m := Tbl.get s.m i 0
  let l := Tbl.get s.l i 0
  if r.rows ≤ i then (cols.map (fun _ => 0), negInf, false, false)
  else if m = negInf then (cols.map (fun _ => 0), negInf, true, true)
  else
    let o := cols.map (fun c =>
      let x := Tbl.get k.acc (oKey r i c) 0
      if r.compat then mul32 x (rne32 (f32 l).rcpE) else rne32 (Val.div (f32 x) (f32 l)))
    let e := add32 m (ln32 l)
    (o, e, false, !(f32 e).isFin || o.any (fun x => !(f32 x).isFin))

/-- FINAL (R214). -/
def execFinalAcc (at_ : At) (w : IWord) (s : State) : Host.Outcome State Fault Refusal :=
  s.onDev (fun d => d.attn at_ w 2 (fun d k r a =>
    let rows := (List.range 16).map (finalRow k r a)
    let acc := (List.range 16).foldl (fun u i => (List.range (16 * r.nv)).foldl (fun u c =>
      Tbl.set u (oKey r i c) ((rows.getD i ([], 0, false, false)).1.getD c 0) 0) u) k.acc
    let empty := ((List.range 16).map (fun i => if (rows.getD i ([], 0, false, false)).2.2.1 then 2 ^ i else 0)).sum
    let line := rows.flatMap (fun x => bytesOf 4 x.2.1) ++ natLe 2 empty ++ natLe 2 (2 ^ r.rows - 1) ++ zeros 60
    attOut d at_.core ((({ k with acc := acc }).lsWrite r.out line).setAset (wf w 55 54) { a with begun := false })
      (rows.filter (fun x => x.2.2.1)).length (rows.filter (fun x => x.2.2.2)).length))

/-- PARTIAL (R218). -/
def execPartialAcc (at_ : At) (w : IWord) (s : State) : Host.Outcome State Fault Refusal :=
  s.onDev (fun d => d.attn at_ w 3 (fun d k r a =>
    let o := (List.range 16).flatMap (fun i => (List.range (16 * r.nv)).flatMap (fun c => bytesOf 4 (Tbl.get k.acc (oKey r i c) 0)))
    let line := natLe 64 (packB [(0, at_.core.val), (2, 2 ^ r.rows - 1), (4, r.nv)]) ++ wordsAt a.m 0 16 ++ wordsAt a.l 0 16 ++ o
    attOut d at_.core ((k.lsWrite r.out line).setAset (wf w 55 54) { a with begun := false }) 0 0))

/-- One row of one record folded in (R219). -/
def mergeRow (k : Core) (r : AttRec) (off i : Nat) (x : Tbl Word × ASet) : Tbl Word × ASet :=
  let word (o : Nat) : Word := BitVec.ofNat 32 (leNat (k.lsRead (off + o) 4).1)
  let (acc, s) := x
  let m := Tbl.get s.m i 0
  let mb := word (64 + 4 * i)
  let mn := max32 m mb
  if mn = negInf then (acc, s)
  else
    let a := exp32 (sub32 m mn)
    let b := exp32 (sub32 mb mn)
    let acc := (List.range (16 * r.nv)).foldl (fun u c =>
      Tbl.set u (oKey r i c) (add32 (mul32 a (Tbl.get u (oKey r i c) 0)) (mul32 b (word (192 + 4 * (16 * r.nv * i + c))))) 0) acc
    (acc, { s with
      l := Tbl.set s.l i (add32 (mul32 a (Tbl.get s.l i 0)) (mul32 b (word (128 + 4 * i)))) 0
      m := Tbl.set s.m i mn 0 })

/-- MERGE (R219): the records in order. -/
def execMerge (at_ : At) (w : IWord) (s : State) : Host.Outcome State Fault Refusal :=
  s.onDev (fun d => d.attn at_ w 4 (fun d k r a =>
    let (acc, a) := (List.range r.nb).foldl (fun x n =>
      (List.range 16).foldl (fun x i => mergeRow k r (r.out + n * r.stride) i x) x) (k.acc, a)
    attOut d at_.core (({ k with acc := acc }).setAset (wf w 55 54) a) 0 0))

end Sys2Proof.Machine
end

