-- ==== Sys2Proof/Machine/Fec.lean ====
section
/-!
DEFINITION. Sys2Proof/Machine/Fec.lean: the RS(544,514) code of a port and the dealing of its symbols to lanes (R304, R305). The field
polynomial x^10 + x^3 + 1, the generator with roots 1 to α^29, and the parity after the message are those of IEEE 802.3, which R304 names
(log 58).
-/
namespace Sys2Proof.Machine

/-- The product in GF(2^10). -/
def gfMul (a b : Nat) : Nat :=
  (List.range 10).reverse.foldl (fun r i =>
    let r := if 512 ≤ r then (2 * r) ^^^ 0x409 else 2 * r
    if bitOf b i then r ^^^ a else r) 0

/-- The generator polynomial below its leading term, the highest coefficient first. -/
def rsGenerator : List Nat :=
  let g := ((List.range 30).foldl (fun (e : List Nat × Nat) _ =>
    (List.zipWith (· ^^^ ·) (0 :: e.1) (e.1.map (gfMul e.2) ++ [0]), gfMul 2 e.2)) ([1], 1)).1
  (g.take 30).reverse

/-- The 30 parity symbols of a message. -/
def rsParity (message : List Nat) : List Nat :=
  message.foldl (fun r m =>
    let fb := m ^^^ r.headD 0
    List.zipWith (· ^^^ ·) (r.drop 1 ++ [0]) (rsGenerator.map (gfMul fb))) (List.replicate 30 0)

/-- The codeword of 5,140 message bits: its symbols in the order sent. -/
def codeword (v : Nat) : List Nat :=
  let message := (List.range 514).map (fun i => v / 2 ^ (10 * i) % 1024)
  message ++ rsParity message

/-- The lanes of a mask, ascending. -/
def lanesOf (mask : Nat) : List Nat := (List.range 8).filter (bitOf mask)

/-- The lane that carries symbol i of a codeword, each of which starts at the lowest lane. -/
def laneOfSymbol (mask i : Nat) : Nat := (lanesOf mask).getD (i % (lanesOf mask).length) 0

/-- The symbols of a codeword that each lane carries, as bits: lane, number of bits, value. -/
def deal (mask : Nat) (symbols : List Nat) : List (Nat × Nat × Nat) :=
  (lanesOf mask).map (fun l =>
    let own := ((List.range symbols.length).zip symbols).filterMap (fun e => if laneOfSymbol mask e.1 = l then some e.2 else none)
    (l, 10 * own.length, own.foldr (fun s v => s + 1024 * v) 0))

/-- The lane sync block of a lane and a countdown. -/
def syncBlock (lane countdown : Nat) : Nat := 0xC3A59E10 + lane + countdown * 2 ^ 32 + (65535 - countdown) * 2 ^ 48

/-- The 64 lane sync blocks of a lane, in the order sent. -/
def syncRun (lane : Nat) : Nat := (List.range 64).foldl (fun v c => syncBlock lane c + 2 ^ 64 * v) 0

/-- The UI at which codeword 0 begins on a lane, from a sync block of it: none where the block is not one of this lane. -/
def syncStart (lane : Nat) (b : LaneSync) : Option Nat :=
  let c := bits b.block.toNat 47 32
  if c ≤ 63 && b.block.toNat = syncBlock lane c then some (b.ui + 32 * (c + 1)) else none

/-- The lanes of a mask are aligned: every one carries its own marker, and they differ by at most 2,048 UI. -/
def aligned (mask : Nat) (sync : List LaneSync) : Bool :=
  let starts := (lanesOf mask).map (fun l => (sync[l]?).bind (syncStart l))
  starts.all (·.isSome) &&
    (let us := starts.filterMap id
     us.foldl max 0 ≤ us.foldl min (us.headD 0) + 2048)

/-- The codeword that begins in flit k, if one does. -/
def codewordIn (k : Nat) : Option Nat :=
  let c := ceilDiv (4128 * k) 5140
  if 5140 * c < 4128 * (k + 1) then some c else none

/-- Flit k starts on a codeword's first bit, so no earlier codeword carries part of it. -/
def codewordEdge (k : Nat) : Bool := 4128 * k % 5140 = 0

end Sys2Proof.Machine
end

