-- ==== Sys2Proof/Machine/Fabric.lean ====
section
/-!
DEFINITION. Sys2Proof/Machine/Fabric.lean: the fabric's operations (10; R297 to R332): packets and flits, link-level retry,
credits, routing, partitions, transactions, and the states of a port. What an own packet or transaction came to is left in
Fab.returned and Fab.ended, and a lost lane or port in Fab.lost, for the engines to take up (Engines.lean).
-/
namespace Sys2Proof
open Sys2Proof.Machine

/-! ## Packets (R310 to R312) -/

/-- A header field. -/
def Packet.f (p : Packet) (hi lo : Nat) : Nat := fieldb p.hdr hi lo
/-- A header field replaced. -/
def Packet.put (p : Packet) (hi lo v : Nat) : Packet := { p with hdr := BitVec.ofNat 256 (putBits p.hdr.toNat hi lo v) }
/-- TYPE. -/
def Packet.type (p : Packet) : Nat := p.f 3 0
/-- VC. -/
def Packet.vc (p : Packet) : Nat := p.f 5 4
/-- LEN64. -/
def Packet.len (p : Packet) : Nat := p.f 12 8
/-- The queue it travels on, 2·VC + DL. -/
def Packet.queue (p : Packet) : Nat := 2 * p.vc + p.f 14 14
/-- TAG. -/
def Packet.tag (p : Packet) : Nat := p.f 31 16
/-- DST. -/
def Packet.dst (p : Packet) : Nat := p.f 49 32
/-- SRC. -/
def Packet.src (p : Packet) : Nat := p.f 81 64
/-- PART. -/
def Packet.part (p : Packet) : Nat := p.f 89 82
/-- FLOW_SEQ. -/
def Packet.seq (p : Packet) : Word := BitVec.ofNat 32 (p.f 127 96)
/-- POISON of unit u. -/
def Packet.bad (p : Packet) (u : Nat) : Bool := bitOf (p.f 143 128) u
/-- COLL_ID. -/
def Packet.collId (p : Packet) : Nat := p.f 159 144
/-- COLL_STEP. -/
def Packet.step (p : Packet) : Nat := p.f 175 160
/-- OP. -/
def Packet.op (p : Packet) : Nat := p.f 183 176
/-- FLOW. -/
def Packet.flow (p : Packet) : Nat := p.f 191 184
/-- ADDR. -/
def Packet.addr (p : Packet) : Nat := p.f 255 192

/-- The TYPEs that carry a payload. -/
def hasPayload (t : Nat) : Bool := t = 2 || t = 4 || t = 6 || t = 7

/-- A packet's bytes on the wire (R310). -/
def Packet.bytes (p : Packet) : List Byte := bytesOf 32 p.hdr ++ p.data.flatMap (bytesOf 64)

/-- The bytes of a packet's payload. -/
def Packet.payload (p : Packet) : List Byte := p.data.flatMap (bytesOf 64)

/-- Payload bytes cut into units of 64, the last filled with zeros. -/
def unitsOf (bs : List Byte) : List Rec64 := (List.range (ceilDiv bs.length 64)).map (fun i => recOf ((bs.drop (64 * i)).take 64))

/-- The TYPE, VC, length, OP or reserved bits break R311, R312 or R397. -/
def Packet.broken (p : Packet) : Bool :=
  let t := p.type
  let reserved := p.f 63 50 != 0 || p.f 95 90 != 0 || 16 < p.len
  match t with
  | 0 => p.hdr != 0
  | 1 => p.f 31 4 != 0 || p.f 55 53 != 0 || p.f 255 208 != 0
  | 2 => reserved || p.len = 0 || p.op != 0x20 || p.vc < 2
  | 3 => reserved || !((p.vc = 0 && 0x10 ≤ p.op && p.op ≤ 0x14) || (p.vc = 3 && p.op = 0x21))
  | 4 => reserved || p.vc < 2 || 4 < p.op
  | 5 => reserved || p.vc != 0 || p.len != 0 || 4 < p.op
  | 6 => reserved || p.vc != 1 || !(p.op ≤ 2 || (0x80 ≤ p.op && p.op ≤ 0x83))
  | 7 => reserved || p.vc != 1 || p.len = 0 || p.op != 0
  | _ => true

end Sys2Proof

namespace Sys2Proof.Machine

/-! ## Flits (R306, R307) -/

/-- One bit of the CRC-24. -/
def crcBit (c : Nat) : Nat := if bitOf c 23 then ((2 * c) % 2 ^ 24) ^^^ 0x864CFB else 2 * c

/-- The CRC-24 of R307 over bytes. -/
def crc24 (bs : List Byte) : Nat := bs.foldl (fun c b => iter crcBit 8 (c ^^^ (b.toNat * 2 ^ 16))) 0xFFFFFF

/-- The CRC of a flit of a sequence number: FSEQ high byte first, then bytes 0 to 512. -/
def flitCrc (seq : Nat) (body : List Byte) : Nat := crc24 (BitVec.ofNat 8 (seq / 256) :: BitVec.ofNat 8 seq :: body)

/-- The 516 bytes of a flit. -/
def flitBytes (seq : Nat) (payload : List Byte) (flags : Nat) : List Byte :=
  let body := payload ++ [BitVec.ofNat 8 flags]
  body ++ natLe 3 (flitCrc seq body)

/-- FSEQ a is newer than b, half-range 2^15 (R307). -/
def newer16 (a b : Nat) : Bool :=
  let d := (a + 65536 - b) % 65536
  0 < d && d < 32768

/-! ## Ports -/

/-- A port at reset (R332). -/
def Port.empty : Port :=
  { en := false, lr := false, role := 31, state := .disabled, lanes := 255, peerLanes := 255, width := 0, active := 0, attempts := 0
    since := 0, peer := none, said := none, msg := 0, msgLen := 0, rxFlits := 0, rxBad := false, badRun := 0, txSeq := 0, rxSeq := 0, replay := [], nakSeq := 0, nakRun := 0, nakSent := 0, waiting := false, unrep := 0
    unrepLt := none, cred := [], shared := 0, back := [], backShared := 0, links := [], tx := [], rx := [], part := [], tally := []
    laneDone := false, rejoin := false, half := false }

/-- Port p. -/
def Dev.port (d : Dev) (p : Nat) : Port := Tbl.get d.fab.ports p Port.empty
/-- Port p replaced. -/
def Dev.setPort (d : Dev) (p : Nat) (x : Port) : Dev := { d with fab := { d.fab with ports := Tbl.set d.fab.ports p x Port.empty } }
/-- Port p changed. -/
def Dev.modPort (d : Dev) (p : Nat) (f : Port → Port) : Dev := d.setPort p (f (d.port p))

/-- FAB counters (R332). -/
def fabSet : CtrSet := ⟨0x8005C, 0x80060, some 0x80010, (List.range 6).map (fun i => (0x80040 + 4 * i, 32))⟩
/-- The base of a port's registers. -/
def portBase (p : Nat) : Nat := 0x81000 + 0x100 * p
/-- Counters of a port: TX_FLITS, RX_FLITS, CREDIT_STALL, NAK_SENT, REPLAYED, FEC_UNCORR, RETRAINS, FEC_CORRECTED, BAD_PACKET. -/
def portSet (p : Nat) : CtrSet :=
  let b := portBase p
  ⟨b + 0x78, b + 0x7C, some 0x80010,
   [(b + 0x40, 64), (b + 0x48, 64), (b + 0x50, 64), (b + 0x58, 32), (b + 0x5C, 32), (b + 0x60, 32), (b + 0x64, 32), (b + 0x68, 64),
    (b + 0x70, 32)]⟩

/-- A port's headland quadrant is powered. -/
def Dev.portOn (d : Dev) (p : Nat) : Bool := d.on (80 + hqOf p)

/-- The role of a port (R297, R298). -/
def Dev.roleOf (d : Dev) (p : Nat) : Nat := if p = 17 then (d.port 17).role else p

/-- The port that holds a role: the spare where it is enabled with it (R298). -/
def Dev.portFor (d : Dev) (r : Nat) : Nat := if (d.port 17).en && (d.port 17).role = r then 17 else r

/-- The role that doubles a role. -/
def doubleOf (r : Nat) : Option Nat := if 7 ≤ r && r ≤ 10 then some (r + 6) else if 13 ≤ r && r ≤ 16 then some (r - 6) else none

/-- The dimension of a role: 1 X, 2 Y, 3 Z, 0 the yoke (R297). -/
def dimOfRole (r : Nat) : Nat :=
  if r = 7 || r = 8 || r = 13 || r = 14 then 1 else if r = 9 || r = 10 || r = 15 || r = 16 then 2 else if r = 11 || r = 12 then 3 else 0

/-- A role leads in the + direction. -/
def roleUp (r : Nat) : Bool := r = 7 || r = 9 || r = 11 || r = 13 || r = 15

/-- An address with one coordinate replaced. -/
def withCoord (addr k v : Nat) : Nat :=
  match k with
  | 0 => putBits addr 2 0 v
  | 1 => putBits addr 17 13 v
  | 2 => putBits addr 12 8 v
  | _ => putBits addr 7 3 v

/-- The address and role the peer of a role must have (R297). -/
def Dev.peerOf (d : Dev) (r : Nat) : Nat × Nat :=
  if r ≤ 6 then (withCoord d.addr 0 (coordOf d.addr 0 ^^^ (r + 1)), r)
  else
    let k := dimOfRole r
    let s := d.dimSize k
    let c := coordOf d.addr k
    (withCoord d.addr k (if roleUp r then (c + 1) % s else (c + s - 1) % s), if roleUp r then r + 1 else r - 1)

/-- A port can be given packets: it is not DOWN, RETIRED or DISABLED (R318). -/
def Dev.usable (d : Dev) (p : Nat) : Bool :=
  d.portOn p && match (d.port p).state with
    | .training | .up | .retraining | .quiesced => true
    | _ => false

/-- The credits of a queue's reserve, 4 KiB units of 64 credits (R314). -/
def Dev.reserve (d : Dev) (p q : Nat) : Nat := 64 * bits (d.reg (portBase p + 0xC)).toNat (4 * q + 3) (4 * q)

/-- Full credits (R314). The manual has no exchange of reserves, so both ends are taken to be set alike (log 20). -/
def Dev.fullCredits (d : Dev) (p : Nat) (x : Port) : Port :=
  let rs := (List.range 8).map (d.reserve p)
  { x with cred := rs, shared := 6144 - rs.sum, back := [], backShared := 0 }

/-! ## Sending (R308, R314) -/

/-- What may be sent from a port's queues: sent and left, the credits, the bytes so far, the queues whose head waits. -/
structure Pick where
  sent : List Packet
  left : List Packet
  cred : List Nat
  shared : Nat
  size : Nat
  stuck : List Nat

/-- The next packet in order: it waits behind its queue's head, for room to replay, or for credits; the reserve pays before the
shared pool. -/
def Pick.take (room : Nat) (k : Pick) (p : Packet) : Pick :=
  let q := p.queue
  let c := p.len + 1
  let size := k.size + p.bytes.length
  if k.stuck.contains q || 512 * room < size then { k with left := k.left ++ [p], stuck := q :: k.stuck }
  else if c ≤ k.cred.getD q 0 then
    { k with sent := k.sent ++ [p.put 7 7 0], cred := k.cred.set q (k.cred.getD q 0 - c), size := size }
  else if c ≤ k.shared then { k with sent := k.sent ++ [p.put 7 7 1], shared := k.shared - c, size := size }
  else { k with left := k.left ++ [p], stuck := q :: k.stuck }

/-- What a port can send now, after its LINK records. -/
def Port.pick (x : Port) : Pick :=
  let room := 768 - x.replay.length
  x.tx.foldl (Pick.take room) ⟨[], [], x.cred, x.shared, 32 * (x.links.take (16 * room)).length, []⟩

/-- A head of a queue of a port waits (R314). -/
def Port.stalled (x : Port) : Bool := x.state = .up && !x.pick.stuck.isEmpty

/-- The positions at which packets that follow each other end. -/
def endsFrom : Nat → List Packet → List (Nat × Packet)
  | _, [] => []
  | a, p :: ps => (a + p.bytes.length, p) :: endsFrom (a + p.bytes.length) ps

/-- Flits of a run of bytes: cut at 512, the last filled with NULL packets, which are zeros (R306, R311). -/
def flitsOf (seq : Nat) (bs : List Byte) (ends : List (Nat × Packet)) : List Kept :=
  (List.range (ceilDiv bs.length 512)).map (fun i =>
    let part := (bs.drop (512 * i)).take 512
    ⟨(seq + i) % 65536, part ++ List.replicate (512 - part.length) 0,
      (ends.filter (fun e => 512 * i < e.1 && e.1 ≤ 512 * (i + 1))).map (·.2)⟩)

/-- Bits put on the lanes of a port. -/
def Dev.lanesSend (d : Dev) (p : Nat) (runs : List (Nat × Nat × Nat)) : Dev :=
  { d with fab := { d.fab with laneOut := d.fab.laneOut ++ runs.map (fun r => ⟨p, r.1, r.2.1, r.2.2⟩) } }

/-- A flit packed into the message; a codeword that has all its message bits is dealt to the active lanes (R304, R305). -/
def Dev.encode (d : Dev) (p : Nat) (flit : List Byte) : Dev :=
  let x := d.port p
  let v := x.msg + leNat flit * 2 ^ x.msgLen
  let n := x.msgLen + 4128
  if n < 5140 then d.setPort p { x with msg := v, msgLen := n }
  else (d.setPort p { x with msg := v / 2 ^ 5140, msgLen := n - 5140 }).lanesSend p (deal x.active (codeword (v % 2 ^ 5140)))

/-- Flits put on the wire. -/
def Dev.wireOut (d : Dev) (p : Nat) (flits : List (List Byte)) : Dev :=
  let d := { d with fab := { d.fab with wire := d.fab.wire ++ flits.map (fun f => (p, f)) } }
  let d := flits.foldl (fun d f => d.encode p f) d
  if flits.isEmpty then d else d.bump (portSet p) 0 flits.length

/-- Kept flits as bytes; the first of a replay is marked (R308). -/
def keptBytes (replay : Bool) (ks : List Kept) : List (List Byte) :=
  ((List.range ks.length).zip ks).map (fun e => flitBytes e.2.seq e.2.payload (b2n (replay && e.1 = 0)))

/-- An IDLE flit of a port: NULL packets and the CRC of the next flit's FSEQ (R306, R307). -/
def Port.idleFlit (x : Port) : List Byte := flitBytes x.txSeq (List.replicate 512 0) 2

/-- A port sends all it can: LINK records first, then packets, closed into flits that are kept for replay. While the replay buffer is
full it sends an IDLE flit (R308). -/
def Dev.pump (d : Dev) (p : Nat) : Dev :=
  let x := d.port p
  if x.state != .up || !d.portOn p then d
  else if 768 ≤ x.replay.length then d.wireOut p [x.idleFlit]
  else
    let room := 768 - x.replay.length
    let links := x.links.take (16 * room)
    let k := x.pick
    let ks := flitsOf x.txSeq (links.flatMap Packet.bytes ++ k.sent.flatMap Packet.bytes) (endsFrom (32 * links.length) k.sent)
    let d := if k.sent.any (fun q => 6 ≤ q.type && q.src = d.addr) then { d with fab := { d.fab with handed := true } } else d
    (d.setPort p { x with
      links := x.links.drop (16 * room)
      tx := k.left
      cred := k.cred
      shared := k.shared
      txSeq := (x.txSeq + ks.length) % 65536
      replay := x.replay ++ ks }).wireOut p (keptBytes false ks)

/-- A packet handed to a port. -/
def Dev.sendPkt (d : Dev) (p : Nat) (pkt : Packet) : Dev := (d.modPort p (fun x => { x with tx := x.tx ++ [pkt] })).pump p

/-- A LINK record (R312): the bits of byte 6, its ACK_FSEQ and LANES, with the credits that are due. -/
def Port.linkRecord (x : Port) (flags fseq lanes : Nat) : Packet :=
  ⟨BitVec.ofNat 256 (packB ([(0, 1), (4, fseq), (6, flags), (7, lanes), (24, min x.backShared 65535)]
    ++ (List.range 8).map (fun q => (8 + 2 * q, min (x.back.getD q 0) 65535)))), []⟩

/-- A LINK record sent. All but a NAK also acknowledge. Every record returns the credits that are due. -/
def Dev.sendLink (d : Dev) (p : Nat) (flags lanes : Nat) : Dev :=
  let x := d.port p
  let nak := bitOf flags 1
  let r := x.linkRecord (if nak then flags else flags ||| 1) (if nak then x.rxSeq else (x.rxSeq + 65535) % 65536) lanes
  (d.setPort p { x with
    links := x.links ++ [r]
    unrep := if nak then x.unrep else 0
    unrepLt := if nak then x.unrepLt else none
    back := x.back.map (· - 65535)
    backShared := x.backShared - 65535 }).pump p

/-! ## Receiving -/

/-- A packet leaves a port's receive buffer: the pool that paid gets its credits back (R314). -/
def Dev.takeRx (d : Dev) (p : Nat) (pkt : Packet) : Dev :=
  let x := d.port p
  if x.rx.contains pkt then
    let x := { x with rx := x.rx.erase pkt }
    let c := pkt.len + 1
    if pkt.type < 2 then d.setPort p x
    else
      let x := { x with unrepLt := some (x.unrepLt.getD d.lt) }
      if pkt.f 7 7 = 1 then d.setPort p { x with backShared := x.backShared + c }
      else
        let b := (List.range 8).map (fun q => x.back.getD q 0 + (if q = pkt.queue then c else 0))
        d.setPort p { x with back := b }
  else d

/-- A packet stays in its port's receive buffer, its credits withheld (R315, R343, R368). -/
def Dev.holdRx (d : Dev) (p : Nat) (pkt : Packet) : Dev :=
  d.modPort p (fun x => if x.rx.contains pkt then x else { x with rx := x.rx ++ [pkt] })

/-- The whole packets at the head of a byte stream, NULLs passed over, and what is left of it (R306). A TYPE that is reserved has
no payload. -/
def parsePackets : Nat → List Byte → List Packet × List Byte
  | 0, bs => ([], bs)
  | n + 1, bs =>
    if bs.length < 32 then ([], bs)
    else
      let hdr := BitVec.ofNat 256 (leNat (bs.take 32))
      let k := if hasPayload (bits hdr.toNat 3 0) then bits hdr.toNat 12 8 else 0
      if bs.length < 32 + 64 * k then ([], bs)
      else
        let (ps, rest) := parsePackets n (bs.drop (32 + 64 * k))
        if bits hdr.toNat 3 0 = 0 && hdr = 0 then (ps, rest)
        else (⟨hdr, (List.range k).map (fun i => recOf ((bs.drop (32 + 64 * i)).take 64))⟩ :: ps, rest)

/-! ## Partitions (R301, R329, R330) -/

/-- An address lies in the domain (R301). -/
def Dev.inDomain (d : Dev) (a : Nat) : Bool := [1, 2, 3].all (fun k => coordOf a k < d.dimSize k)

/-- FAB_PART. -/
def Dev.part (d : Dev) : Nat := bits (d.reg 0x8000C).toNat 7 0

/-- An address lies in a valid partition entry whose PART is the device's own (R329, R330). -/
def Dev.inPart (d : Dev) (a : Nat) : Bool :=
  (List.range 16).any (fun e =>
    let w0 := (d.reg (0x83000 + 16 * e)).toNat
    let w1 := (d.reg (0x83004 + 16 * e)).toNat
    let inside (lo hi c : Nat) : Bool := lo ≤ c && c ≤ hi
    bitOf w1 31 && bits (d.reg (0x83008 + 16 * e)).toNat 7 0 = d.part
      && inside (bits w0 4 0) (bits w0 12 8) (coordOf a 1) && inside (bits w0 20 16) (bits w0 28 24) (coordOf a 2)
      && inside (bits w1 4 0) (bits w1 12 8) (coordOf a 3) && bitOf w1 (16 + coordOf a 0))

/-- PART_DENIED's payload (R445). -/
def partPayload (p : Packet) : Nat := packB [(0, p.src), (4, p.dst), (8, p.part)]

/-! ## Routing (R316 to R318) -/

/-- Where a packet goes next. -/
inductive Hop where
  | here
  | out (port : Nat) (dl : Bool)
  | dead

/-- Credits a port holds for a queue, with the shared pool (R318). -/
def Port.credit (x : Port) (q : Nat) : Nat := x.cred.getD q 0 + x.shared

/-- The port of a hop by a role (R318): the primary, its double where the primary is unusable, where the engine sends on the second
route (R340), or where an ADAPT packet finds more credits. -/
def Dev.pickPort (d : Dev) (pkt : Packet) (r : Nat) (dl second : Bool) : Hop :=
  let p := d.portFor r
  match doubleOf r with
  | none => if d.usable p then .out p dl else .dead
  | some r2 =>
    let p2 := d.portFor r2
    if d.usable p && d.usable p2 then
      let q := 2 * pkt.vc + b2n dl
      let other := second || (pkt.f 13 13 = 1 && (d.port p).credit q < (d.port p2).credit q)
      .out (if other then p2 else p) dl
    else if d.usable p then .out p dl
    else if d.usable p2 then .out p2 dl
    else .dead

/-- Dimension order, X then Y then Z then the yoke. The dateline class starts at 0 in each dimension and is 1 from the hop that
crosses its dateline (R316, R317). Between the two members of a dimension of size 2, which both directions join, a direction that is
given is the one taken (R340). -/
def Dev.route (d : Dev) (from_ : Option Nat) (pkt : Packet) (second : Bool) (dir : Option Bool := none) : Hop :=
  let a := d.addr
  match [1, 2, 3].find? (fun k => coordOf pkt.dst k != coordOf a k) with
  | some k =>
    let s := d.dimSize k
    let c := coordOf a k
    let t := (coordOf pkt.dst k + s - c) % s
    let up : Bool := if s = 2 then dir.getD true else t ≤ s - t
    let r := (match k with | 1 => 7 | 2 => 9 | _ => 11) + b2n (!up)
    let same := match from_ with | some r => dimOfRole r = k | none => false
    let crosses := if up then c + 1 = s else c = 0
    d.pickPort pkt r ((same && pkt.f 14 14 = 1) || crosses) second
  | none =>
    let x := coordOf a 0 ^^^ coordOf pkt.dst 0
    if x = 0 then .here else d.pickPort pkt (x - 1) false false

/-- A request's answer (R313): RESP to a WRITE, READ_RESP to a READ_REQ, on the VC R311 names, carrying the request's TAG, FLOW and
FLOW_SEQ. It names the request's DST as its origin and carries the request's PART, so that the originator accepts it. -/
def answerTo (q : Packet) (status : Nat) (data : List Rec64) (bad : Nat) : Packet :=
  let read := q.type = 3
  let vc := if read then (if q.vc = 0 then 2 else 3) else 0
  ⟨BitVec.ofNat 256 (fld (if read then 4 else 5) 0 + fld vc 4 + fld data.length 8 + fld 1 15 + fld q.tag 16 + fld q.src 32 + fld q.dst 64
    + fld q.part 82 + fld q.seq.toNat 96 + fld bad 128 + fld status 176 + fld q.flow 184), data⟩

/-- The device's throttle indicator in a packet it originates (R321). -/
def Dev.mark (d : Dev) (pkt : Packet) : Packet := pkt.put 6 6 (b2n d.pw.throttle)

/-- A packet sent on its way; one that has none is dealt with as R318 says: an own packet returns to its engine, a transit request is
answered, any other is dropped and counted. The first argument bounds the answers to answers. -/
def Dev.forward : Nat → Dev → Option Nat → Packet → Bool → Option Bool → Dev
  | 0, d, _, _, _, _ => d
  | n + 1, d, from_, pkt, second, dir =>
    match d.route from_ pkt second dir with
    | .here => d
    | .out p dl => d.sendPkt p (pkt.put 14 14 (b2n dl))
    | .dead =>
      if pkt.src = d.addr then { d with fab := { d.fab with returned := d.fab.returned ++ [pkt] } }
      else if pkt.type = 2 || pkt.type = 3 then
        if d.inDomain pkt.src then Dev.forward n d none (d.mark (answerTo pkt 3 [] 0)) false none else d
      else d.bump fabSet 5 1

/-- A request answered. No answer goes to an address outside the domain (R301). -/
def Dev.answer (d : Dev) (q : Packet) (status : Nat) (data : List Rec64) (bad : Nat) : Dev :=
  if d.inDomain q.src then Dev.forward 2 d none (d.mark (answerTo q status data bad)) false none else d

/-- The key of a flow. -/
def flowKey (addr vc flow : Nat) : Nat := (addr * 4 + vc) * 256 + flow

/-- An endpoint packet originated for a context (R301, R320, R321, R330): false when it is not sent or has no way, and its originator
receives UNREACHABLE. -/
def Dev.originate (d : Dev) (c : CtxId) (pkt : Packet) (dir : Option Bool := none) : Dev × Bool :=
  let pkt := d.mark ((pkt.put 81 64 d.addr).put 89 82 d.part)
  if !d.inDomain pkt.dst then (d, false)
  else if !d.inPart pkt.dst then ((d.postCtx c 0x6006 (partPayload pkt)).bump fabSet 0 1, false)
  else
    let key := flowKey pkt.dst pkt.vc pkt.flow
    let seq := Tbl.get d.fab.txFlow key 0
    let pkt := pkt.put 127 96 seq.toNat
    match d.route none pkt (pkt.type = 6 && pkt.f 184 184 = 1) dir with
    | .out p dl =>
      (({ d with fab := { d.fab with txFlow := Tbl.set d.fab.txFlow key (seq + 1) 0 } } : Dev).sendPkt p (pkt.put 14 14 (b2n dl)), true)
    | _ => (d, false)

/-! ## Transactions (R319, R460, R461) -/

/-- What issuing a transaction comes to. -/
inductive Issued where
  | sent (d : Dev) (tag : Nat)
  | unreachable (d : Dev)
  | wait

/-- The lowest free transaction tag. -/
def freeXact : Tbl Xact → Nat → Nat
  | [], n => n
  | (k, _) :: t, n => if k = n then freeXact t (n + 1) else n

/-- In the interval of R461 the device issues no transaction. -/
def Dev.quiet (d : Dev) : Bool := match d.fab.quiet with | some t => d.lt < t | none => false

/-- A WRITE or READ_REQ issued for a descriptor; at the bound of 65,536 tags it waits. -/
def Dev.transact (d : Dev) (c : CtxId) (work : Nat) (pkt : Packet) : Issued :=
  if d.quiet || 65536 ≤ d.fab.tags.length then .wait
  else
    let t := freeXact d.fab.tags 0
    let pkt := pkt.put 31 16 t
    match d.originate c pkt with
    | (d, false) => .unreachable d
    | (d, true) =>
      let seq := (Tbl.get d.fab.txFlow (flowKey pkt.dst pkt.vc pkt.flow) 0) - 1
      .sent { d with fab := { d.fab with tags := Tbl.put d.fab.tags t ⟨pkt.put 127 96 seq.toNat, work, d.lt, 0⟩ } } t

/-- A transaction freed with what it came to. -/
def Dev.endXact (d : Dev) (t : Nat) (x : Xact) (status : Nat) (pkt : Packet) : Dev :=
  { d with fab := { d.fab with
      tags := Tbl.erase d.fab.tags t
      ended := d.fab.ended ++ [(x.work, status, pkt)] } }

/-- RETRY of RST_TR_CFG (R460). -/
def Dev.trRetry (d : Dev) : Nat := bits (d.reg 0x160028).toNat 2 0

/-- A response (R313, R319, R460, R461): one that nothing awaits is late; TARGET_RESET re-issues with the same TAG and FLOW_SEQ, at most
RETRY times. -/
def Dev.response (d : Dev) (pkt : Packet) (type : Nat) : Dev :=
  match Tbl.find d.fab.tags pkt.tag with
  | none => d.bump fabSet 4 1
  | some x =>
    if d.quiet || x.pkt.type != type then d.bump fabSet 4 1
    else if pkt.op = 1 then
      let d := d.modWork x.work (fun w => w.blame 3 5 d.lt)
      if d.trRetry ≤ x.tries then d.endXact pkt.tag x 3 pkt
      else
        let d := d.bump rstSet 7 1
        let d := { d with fab := { d.fab with tags := Tbl.put d.fab.tags pkt.tag { x with lt := d.lt, tries := x.tries + 1 } } }
        if d.inDomain x.pkt.dst then Dev.forward 2 d none ((d.mark (x.pkt.put 81 64 d.addr)).put 89 82 d.part) false none
        else d.endXact pkt.tag x 3 pkt
    else d.endXact pkt.tag x pkt.op pkt

/-- When a transaction times out (R319, R460). -/
def Dev.xactDue (d : Dev) (x : Xact) : Nat :=
  x.lt + (if x.tries = 0 then 100 * bits (d.reg 0x80014).toNat 23 0 else 100000 * bits (d.reg 0x160028).toNat 31 16)

/-! ## Port states (R322 to R328) -/

/-- Packets without a home are routed again; those unacknowledged go ahead of newer ones to the double where it is UP, else they are
dropped and counted (R318, R322). A packet keeps its dateline class and its direction, for it still has the same dimension to go (R317). -/
def Dev.evacuate (d : Dev) (p : Nat) : Dev :=
  let x := d.port p
  let r := d.roleOf p
  let old := x.replay.flatMap (·.pkts)
  let d := d.setPort p { x with replay := [], tx := [], links := [], waiting := false }
  let p2 : Option Nat := (doubleOf r).map d.portFor
  let d := match p2 with
    | some p2 =>
      if (d.port p2).state = .up && d.portOn p2 then (d.modPort p2 (fun y => { y with tx := old ++ y.tx })).pump p2
      else if old.isEmpty then d else d.bump fabSet 5 old.length
    | none => if old.isEmpty then d else d.bump fabSet 5 old.length
  x.tx.foldl (fun d pkt => Dev.forward 2 d (some r) pkt false (some (roleUp r))) d

/-- A port enters RETRAINING: replay buffer, credits and queues are kept (R322). -/
def Dev.startRetrain (d : Dev) (p : Nat) : Dev :=
  (d.modPort p (fun x => { x with state := .retraining, attempts := 0, since := d.lt, nakRun := 0, nakSent := 0 })).bump (portSet p) 6 1

/-- A port retired (R326, R435): floor plan, PORT_RETIRED, FLOOR_PLAN_CHANGED, its packets handed on, and the work bound to it told. -/
def Dev.retirePort (d : Dev) (p cause : Nat) : Dev :=
  let d := d.modPort p (fun x => { x with state := .retired, width := 0 })
  let d := d.fpUpdate (fun f => { f with ports := Tbl.set f.ports p 2 0 }.note 3 p 0 cause)
  let d := d.post 0x6004 (packB [(0, p), (1, cause)])
  let d := (d.fpChanged 3 p 0).evacuate p
  { d with fab := { d.fab with lost := d.fab.lost ++ [p] } }

/-- Lanes active after a retrain: those that neither end has retired. -/
def Port.left (x : Port) : Nat := x.lanes &&& x.peerLanes

/-- A lane retired, here or by the peer (R325, R435, R452): floor plan REDUCED, LANE_RETIRED, FLOOR_PLAN_CHANGED. -/
def Dev.loseLane (d : Dev) (p lane : Nat) : Dev :=
  let d := d.modPort p (fun x => { x with lanes := x.lanes &&& (255 - 2 ^ lane), laneDone := true })
  let d := d.fpUpdate (fun f => { f with ports := Tbl.set f.ports p 3 0 }.note 2 p lane 0)
  let x := d.port p
  let d := d.post 0x6003 (packB [(0, p), (1, lane), (2, ones x.left 8), (4, Tbl.get x.tally lane 0)])
  let d := d.fpChanged 2 p lane
  { d with fab := { d.fab with lost := d.fab.lost ++ [p] } }

/-- The detecting end: the lane is retired, LANE_RETIRE goes out with the new mask, and the port retrains. -/
def Dev.retireLane (d : Dev) (p lane : Nat) : Dev :=
  let d := d.loseLane p lane
  (d.sendLink p 16 (255 - (d.port p).lanes)).startRetrain p

/-- The codeword and flit counts restart (R305). -/
def Port.recount (x : Port) : Port := { x with msg := 0, msgLen := 0, rxFlits := 0, rxBad := false, badRun := 0 }

/-- The link starts afresh: FSEQ 0 both ways and full credits (R322). -/
def Dev.freshLink (d : Dev) (p : Nat) : Dev :=
  d.modPort p (fun x => d.fullCredits p { x.recount with
    txSeq := 0
    rxSeq := 0
    replay := []
    tx := x.replay.flatMap (·.pkts) ++ x.tx
    waiting := false
    nakRun := 0
    nakSent := 0
    unrep := 0
    unrepLt := none
    part := []
    links := [] })

/-- The unacknowledged flits sent again, the first marked REPLAY (R308). -/
def Dev.resend (d : Dev) (p : Nat) : Dev :=
  let ks := (d.port p).replay
  if ks.isEmpty then d else (d.wireOut p (keptBytes true ks)).bump (portSet p) 4 ks.length

/-- The training mode in force: 0 PARALLEL, 1 SAVED, 2 SEARCH (R465). -/
def Dev.trainMode (d : Dev) : Nat := bits (d.reg 0x160020).toNat 1 0

/-- The key of the settings a training uses: the unit with its reach class or data rate (R465). -/
def Dev.trainKey (d : Dev) (u : Nat) : Nat :=
  8 * u + (if u < 18 then b2n (d.port u).lr else bits (d.reg 0xC0004).toNat 1 0)

end Sys2Proof.Machine
end

