-- ==== Sys2Proof/Machine/Drill.lean ====
section
/-!
DEFINITION. Sys2Proof/Machine/Drill.lean: the Drills: transfer records, queues, units and resume points (R148 to R156), the
key-value descriptors that run there (R224 to R226).
-/
namespace Sys2Proof.Machine

/-! ## The queue (R150 to R152) -/

/-- A cluster whose Drill may take a transfer of a context: its domain admits requests (R31), and not another context's (R96). -/
def Dev.drillOpen (d : Dev) (cl : Nat) (c : CtxId) : Bool :=
  d.admits cl && match (d.cluster cl).ctx with | none => true | some k => k = c

/-- A transfer put at the end of a Drill's queue. A queue that was empty does not start paused. -/
def Dev.enqueue (d : Dev) (cl : Nat) (x : DXfer) : Dev :=
  d.modCluster cl (fun y => { y with ctx := some x.ctx, drill := y.drill ++ [x], paused := y.paused && !y.drill.isEmpty })

/-- A LAUNCH ended because its transfer's TARGET_CORE is not GOOD, with the cause R76 gives a retirement. -/
def Dev.endForCore (d : Dev) (tag : Option Tag) : Dev :=
  match tag with
  | none => d
  | some t => (d.modWork t (fun w => w.blame 4 1 d.lt)).endLaunch t 9

/-- ENQUEUE (R150): the record is read at issue; SD gets the transfer number. A full queue stalls the stage as a token with HINT 1
(R152). A core that is not GOOD accepts nothing (R23): a transfer to it ends as one whose TARGET_CORE has retired (R120, R154; log 55,
DEDUCED). -/
def execEnqueue (at_ : At) (w : IWord) (s : State) : Host.Outcome State Fault Refusal :=
  s.onDev (fun d => d.issue at_ w (iClass w = 8 && wf w 58 56 = 0) (fun d c i =>
    let k := d.core at_.core
    let off := k.lsOff i (wf w 55 51)
    if wf w 45 0 != 0 then .trap d 1 0 none
    else if !k.inLocal off 64 then .trap d 2 0 none
    else
      let rcd := recOf (k.lsRead off 64).1
      d.lsGuard at_.core [(off, 64)] (
        if xferBad rcd (d.ctx c).mask then .trap d 1 0 none
        else
          let cl := clusterOf (xferOf rcd).core
          let y := d.cluster cl
          if !d.admits cl then .done (d.markUnreachable k.tag)
          else if !d.coreGood (xferOf rcd).core then .left (d.endForCore k.tag)
          else if 16 ≤ y.drill.length || !d.drillOpen cl c then .stall d 14
          else
            let d := d.enqueue cl ⟨rcd, y.nextNum, none, at_.core, i, c, 0, false, false, k.tag, none⟩
            let d := d.modCluster cl (fun z => { z with nextNum := z.nextNum + 1 })
            .done (d.setSreg at_.core i (wf w 50 46) y.nextNum))))

/-- A dispatched descriptor already lies in a Drill's queue. -/
def Dev.inDrill (d : Dev) (tag : Tag) : Bool := d.gr.clusters.any (fun e => e.2.drill.any (fun x => x.tag = some tag))

/-- The Drill a descriptor runs on: TARGET_CORE's, or for key-value descriptors that of the mask's lowest cluster (R151, R225). -/
def Dev.drillOf (d : Dev) (w : Work) : Option Nat :=
  if dOp w.desc = 0x200 then some (clusterOf (xferOf w.desc).core) else (setBits (d.ctx w.ctx).mask.toNat 72).head?

/-- A dispatched Drill descriptor enqueued once an entry is free (R151, R152, R225). DESIGN CHOICE: the transfer numbers of R150 advance
by one per ENQUEUE instruction only; a descriptor's transfer is known by its DESC_ID (log 56). -/
def Dev.drillDesc (d : Dev) (tag : Tag) (op : Nat) (ready : Work → Bool) : Dev :=
  match d.running tag op with
  | none => d
  | some w =>
    match d.drillOf w with
    | none => d.finishWork tag 10 0
    | some cl =>
      if d.inDrill tag || !ready w then d
      else if !d.admits cl then d.finishWork tag 10 0
      else if op = 0x200 && !d.coreGood (xferOf w.desc).core then (d.modWork tag (fun w => w.blame 4 1 d.lt)).finishWork tag 9 0
      else if 16 ≤ (d.cluster cl).drill.length || !d.drillOpen cl w.ctx then d
      else d.enqueue cl ⟨w.desc, dId w.desc, some tag, 0, 0, w.ctx, 0, false, false, none, none⟩

/-- DRILL (R151). -/
def execDrill (tag : Tag) (s : State) : Host.Outcome State Fault Refusal := s.onDev (fun d => d.drillDesc tag 0x200 (fun _ => true))

/-- KV_CREATE (R225). -/
def execKvCreate (tag : Tag) (s : State) : Host.Outcome State Fault Refusal := s.onDev (fun d => d.drillDesc tag 0x300 (fun _ => true))

/-- Work accepted before other work. -/
def Work.before (a b : Work) : Bool :=
  a.acceptedLt < b.acceptedLt || (a.acceptedLt = b.acceptedLt && (a.q < b.q || (a.q = b.q && newer b.idx a.idx)))

/-! ## Source and destination bytes -/

/-- A byte on its way: none where its source was UNREACHABLE (R27); with the DPA of the block it came from when that is poisoned. -/
abbrev Flow := Option (Byte × Option Nat)

/-- A plain byte. -/
def flowByte (b : Byte) : Flow := some (b, none)

/-- Of bytes in the order they are needed, the first in each page. -/
def firstOfPages (as : List Nat) : List Nat := as.foldl (fun r a => if r.any (fun b => b / 4096 = a / 4096) then r else r ++ [a]) []

/-- The byte at an address among blocks that were read. -/
def flowAt (addrs : List Nat) (gs : List Got) (a : Nat) : Flow :=
  match gs[addrs.idxOf (a / 64 * 64)]? with
  | some ⟨some b, dpa⟩ => some (b.bytes.getD (a % 64) 0, if b.poison then some dpa else none)
  | _ => none

/-- Source blocks read once each, every page first (R282): `firsts` are the bytes in the order they are needed, so a fault names the first
that meets it (R280). -/
def Dev.sources (d : Dev) (ac : Acc) (firsts addrs : List Nat) : Mv (Nat → Flow) :=
  (d.probe ac false (firstOfPages firsts)).bind (fun d _ =>
    (d.trapProbe ac addrs).bind (fun d _ =>
      (d.readBlocks ac addrs).bind (fun d r => .ok d (flowAt addrs r.1))))

/-- A range read as source. -/
def Dev.sourceRange (d : Dev) (ac : Acc) (iova n : Nat) : Mv (Nat → Flow) := d.sources ac (pageStarts iova n) (blockAddrs iova n)

/-- The first poisoned source of some bytes. -/
def flowPoison (fs : List Flow) : Option Nat := fs.findSome? (fun f => match f with | some (_, some a) => some a | _ => none)

/-- The values of bytes. -/
def flowBytes (fs : List Flow) : List Byte := fs.map (fun f => match f with | some (b, _) => b | none => 0)

/-- Bytes placed in a local store, block by block; a block with an unreachable byte stays as it was, one with a poisoned byte is
poisoned (R285). -/
def Core.place (k : Core) (off : Nat) (fs : List Flow) : Core :=
  (blockPieces off fs.length).foldl (fun k p =>
    let part := (fs.drop p.2.2.1).take p.2.2.2
    if part.any Option.isNone then k
    else match flowPoison part with
      | some a => k.lsPut p.1 Blk.bad a
      | none => k.lsWrite (64 * p.1 + p.2.1) (flowBytes part)) k

/-- Bytes inside one block at an address as a store: none where one is unreachable, the marker where one is poisoned (R285). -/
def flowPiece (a : Nat) (fs : List Flow) : List Piece :=
  if fs.isEmpty || fs.any Option.isNone then [] else [⟨a, flowBytes fs, if (flowPoison fs).isSome then [Blk.bad] else []⟩]

/-- Bytes inside one 128-byte sector at an address as stores: in one where that can be. -/
def sectorPieces (a : Nat) (fs : List Flow) : List Piece :=
  let n := min fs.length (64 - a % 64)
  let lo := fs.take n
  let hi := fs.drop n
  let blk (fs : List Flow) : Blk := if (flowPoison fs).isSome then Blk.bad else ⟨flowBytes fs, false⟩
  if fs.any Option.isNone then flowPiece a lo ++ flowPiece (a + n) hi
  else if fs.length = 128 then [⟨a, flowBytes fs, [blk lo, blk hi]⟩]
  else if (flowPoison fs).isNone then [⟨a, flowBytes fs, []⟩]
  else flowPiece a lo ++ flowPiece (a + n) hi

/-- Bytes placed at an IOVA in the same way; every page first. -/
def Dev.placeAt (d : Dev) (ac : Acc) (iova : Nat) (fs : List Flow) : Mv Unit :=
  (d.probe ac true (pageStarts iova fs.length)).bind (fun d _ =>
    d.writePieces ac ((bytePieces iova (flowBytes fs)).flatMap (fun p => sectorPieces p.iova ((fs.drop (p.iova - iova)).take p.bs.length))))

/-! ## The byte stream of a transfer (R149, R153) -/

/-- A run of the destination stream in one piece: its destination and what it holds. -/
structure Piece2 where
  dst : Nat
  fs : List Flow

/-- Scale bytes for a line: the source address of each, none for a byte the layout leaves open. -/
def Xfer.scaleAddr (t : Xfer) (panel line i : Nat) : Option Nat :=
  let k := 16 * t.k16
  let bs := blkSize t.blk
  if t.dir = 0 then
    let b := 4 * line + i / 16
    if b < k / bs then some (t.scaleSrc + (16 * panel + i % 16) * (k / bs) + b) else none
  else
    let kk := 64 * line + i
    if kk < k then some (t.scaleSrc + (16 * panel / bs) * k + kk) else none

/-- The bit offset from SRC of an element (R149). -/
def Xfer.bitOff (t : Xfer) (r k : Nat) : Nat :=
  if t.order = 0 then 8 * t.stride * r + fmtBits t.fmt * k else 8 * t.stride * k + fmtBits t.fmt * r

/-- What lies at a panel offset: a scale line and the byte in it, or a physical step and the byte in it. -/
def Xfer.slot (t : Xfer) (o : Nat) : Nat × Nat ⊕ Nat × Nat :=
  let sb := fmtSb t.fmt
  let nl := panelNl t.fmt t.scale t.dir t.blk t.steps
  let ls := panelLs t.fmt t.dir t.blk
  if nl = 0 then .inr (o / sb, o % sb)
  else
    let grp := 64 + sb * ls
    let g := min (o / grp) (nl - 1)
    let q := o - grp * g
    if q < 64 then .inl (g, q) else .inr (g * ls + (q - 64) / sb, (q - 64) % sb)

/-- The elements of a row word of a physical step: (row of the panel, first K index), none where the skew leaves zero (R138). -/
def Xfer.word (t : Xfer) (p j : Nat) : Option (Nat × Nat) :=
  let r := j / fmtWb t.fmt
  if r / 4 ≤ p && p - r / 4 < t.steps then some (r, (p - r / 4) * fmtKg t.fmt) else none

/-- The source addresses a panel offset needs. -/
def Xfer.needs (t : Xfer) (panel o : Nat) : List Nat :=
  match t.slot o with
  | .inl (line, i) => (t.scaleAddr panel line i).toList
  | .inr (p, j) =>
    match t.word p j with
    | none => []
    | some (r, k) => (List.range (fmtKg t.fmt)).flatMap (fun e =>
        let b := t.bitOff (16 * panel + r) (k + e)
        [t.src + b / 8, t.src + (b + fmtBits t.fmt - 1) / 8])

/-- The byte at a panel offset from its sources. A byte the layout leaves open is a free byte. -/
def Xfer.make (t : Xfer) (src : Nat → Flow) (fresh panel o : Nat) : Flow :=
  match t.slot o with
  | .inl (line, i) =>
    match t.scaleAddr panel line i with
    | some a => src a
    | none => flowByte (Config.freeByte fresh o)
  | .inr (p, j) =>
    match t.word p j with
    | none => flowByte 0
    | some (r, k) =>
      let w := fmtBits t.fmt
      let parts := (List.range (fmtKg t.fmt)).map (fun e =>
        let b := t.bitOff (16 * panel + r) (k + e)
        let lo := src (t.src + b / 8)
        let hi := src (t.src + (b + w - 1) / 8)
        let n := (w + b % 8 + 7) / 8
        let v := leNat (flowBytes ((List.range n).map (fun x => src (t.src + b / 8 + x))))
        (lo, hi, bits v (b % 8 + w - 1) (b % 8)))
      if parts.any (fun x => x.1.isNone || x.2.1.isNone) then none
      else
        let v := parts.foldr (fun x acc => x.2.2 + 2 ^ w * acc) 0
        some (BitVec.ofNat 8 (bits v (8 * (j % fmtWb t.fmt) + 7) (8 * (j % fmtWb t.fmt))),
          flowPoison (parts.flatMap (fun x => [x.1, x.2.1])))

/-- A unit of a transfer: its stream bytes from lo to hi as pieces. -/
def Dev.unitPieces (d : Dev) (ac : Acc) (t : Xfer) (lo hi : Nat) : Mv (List Piece2) :=
  let n := hi - lo
  if t.layout = 2 then .ok d [⟨t.dst + lo, List.replicate n (flowByte 0)⟩]
  else if t.layout = 0 then
    (d.sourceRange ac (t.src + lo) n).bind (fun d src => .ok d [⟨t.dst + lo, (List.range n).map (fun i => src (t.src + lo + i))⟩])
  else
    let pb := t.panel
    let panels := (List.range ((hi - 1) / pb + 1 - lo / pb)).map (fun x => lo / pb + x)
    let part (m : Nat) : Nat × Nat := (max lo (pb * m) - pb * m, min hi (pb * m + pb) - pb * m)
    let offs (m : Nat) : List Nat := (List.range ((part m).2 - (part m).1)).map (fun x => (part m).1 + x)
    let needs := panels.flatMap (fun m => (offs m).flatMap (t.needs m))
    let (fresh, d) := d.takeFresh
    (d.sources ac needs ((needs.map (fun a => a / 64 * 64)).eraseDups)).bind (fun d src =>
      .ok d (panels.map (fun m => ⟨t.dst + t.len * m + (part m).1, (offs m).map (t.make src fresh m)⟩)))

/-- Pieces written one after another. -/
def Dev.placeAll (d : Dev) (ac : Acc) : List Piece2 → Mv Unit
  | [] => .ok d ()
  | p :: ps => (d.placeAt ac p.dst p.fs).bind (fun d _ => d.placeAll ac ps)

/-- Pieces written to where a transfer goes; a core that is not GOOD accepts none (R23). -/
def Dev.putPieces (d : Dev) (ac : Acc) (t : Xfer) (ps : List Piece2) : Mv Unit :=
  if !t.toLocal then d.placeAll ac ps
  else .ok (if d.coreGood t.core then d.modCore t.core (fun k => ps.foldl (fun k p => k.place p.dst p.fs) k) else d) ()

/-! ## Key-value streams (R224 to R226) -/

/-- A key-value region's shape. -/
structure KvShape where
  maxLen : Nat
  len : Nat
  heads : Nat
  dq : Nat
  dv : Nat
  fk : Nat
  fv : Nat

/-- The 64 bytes of the header that are not zero. -/
def KvShape.pk (s : KvShape) : Nat := panelBytes (bits s.fk 3 0) (bits s.fk 5 4) 0 (bits s.fk 7 6) (16 * s.dq / fmtKg (bits s.fk 3 0))
/-- PV of a region. -/
def KvShape.pv (s : KvShape) : Nat := panelBytes s.fv 0 0 0 (64 / fmtKg s.fv)
/-- BLOCK_BYTES. -/
def KvShape.block (s : KvShape) : Nat := 4 * s.pk + s.dv * s.pv
/-- Bytes of the region. -/
def KvShape.total (s : KvShape) : Nat := 4096 + s.heads * (s.maxLen / 64) * s.block
/-- The header. -/
def KvShape.header (s : KvShape) : List Byte :=
  natLe 4096 (packB [(0, 0x564B5442), (4, s.maxLen), (8, s.len), (12, s.heads), (14, s.dq), (15, s.dv), (16, s.fk), (17, s.fv), (20, s.block)])

/-- The shape a KV_CREATE asks for. -/
def kvOf (x : Rec64) : KvShape := ⟨fieldB x 24 4, 0, fieldB x 28 2, fieldB x 30 1, fieldB x 31 1, fieldB x 32 1, fieldB x 33 1⟩

/-- The shape a header states. -/
def kvHead (bs : List Byte) : KvShape :=
  let f (i n : Nat) : Nat := leNat ((bs.drop i).take n)
  ⟨f 4 4, f 8 4, f 12 2, f 14 1, f 15 1, f 16 1, f 17 1⟩

/-- A unit of KV_CREATE: header bytes, then zeros. -/
def Dev.kvUnit (d : Dev) (ac : Acc) (x : Rec64) (lo hi : Nat) : Mv Unit :=
  let bs := if lo = 0 then (kvOf x).header else List.replicate (hi - lo) 0
  d.placeAt ac (fieldB x 16 8 + lo) (bs.map flowByte)

/-- A run of the stream of a KV_APPEND: where it goes, where it comes from, its bytes. -/
structure KvSeg where
  dst : Nat
  src : Nat
  n : Nat

/-- The stream of one key of one head (R226), key-head number m counting heads first: the row words of its K panel, its elements in the V
panels. -/
def KvShape.segs (s : KvShape) (x : Rec64) (m : Nat) : List KvSeg :=
  let p := s.len + m / s.heads
  let base := fieldB x 16 8 + 4096 + (m % s.heads * (s.maxLen / 64) + p / 64) * s.block
  let f := bits s.fk 3 0
  let steps := 16 * s.dq / fmtKg f
  let kOff := base + p % 64 / 16 * s.pk
  let vKg := fmtKg s.fv
  let r := p % 16
  (List.range steps).map (fun t =>
      ⟨kOff + stepOffset f 0 0 0 steps (t + r / 4) + r * fmtWb f, fieldB x 24 8 + m * (2 * s.dq * fmtBits f) + t * fmtWb f, fmtWb f⟩)
    ++ (List.range (16 * s.dv)).map (fun c =>
      ⟨base + 4 * s.pk + c / 16 * s.pv + stepOffset s.fv 0 0 0 (64 / vKg) (p % 64 / vKg + c % 16 / 4) + c % 16 * 4 + 2 * (p % 64 % vKg),
        fieldB x 32 8 + m * (2 * s.dv * fmtBits s.fv) + 2 * c, 2⟩)

/-- Stream bytes of one key of one head. -/
def KvShape.keyBytes (s : KvShape) : Nat := 2 * s.dq * fmtBits (bits s.fk 3 0) + 2 * s.dv * fmtBits s.fv

/-- Runs cut to the stream bytes from lo to hi, the first run beginning at stream byte o. -/
def cutSegs (lo hi : Nat) : Nat → List KvSeg → List KvSeg
  | _, [] => []
  | o, g :: gs =>
    let a := max lo o
    let b := min hi (o + g.n)
    if a < b then ⟨g.dst + (a - o), g.src + (a - o), b - a⟩ :: cutSegs lo hi (o + g.n) gs else cutSegs lo hi (o + g.n) gs

/-- The runs of stream bytes lo to hi of a KV_APPEND. -/
def KvShape.run (s : KvShape) (x : Rec64) (lo hi : Nat) : List KvSeg :=
  let k := s.keyBytes
  (List.range (ceilDiv hi k - lo / k)).flatMap (fun i => let m := lo / k + i; cutSegs lo hi (m * k) (s.segs x m))

/-- The stream bytes of a KV_APPEND before its header write. -/
def KvShape.appendBytes (s : KvShape) (x : Rec64) : Nat := fieldB x 40 2 * s.heads * s.keyBytes

/-- A unit of a KV_APPEND. -/
def Dev.kvAppendUnit (d : Dev) (ac : Acc) (x : Rec64) (s : KvShape) (lo hi : Nat) : Mv Unit :=
  let gs := s.run x lo hi
  let needs := gs.flatMap (fun g => [g.src, g.src + g.n - 1])
  (d.sources ac needs ((gs.flatMap (fun g => blockAddrs g.src g.n)).eraseDups)).bind (fun d src =>
    d.placeAll ac (gs.map (fun g => ⟨g.dst, (List.range g.n).map (fun j => src (g.src + j))⟩)))

/-- A header KV_APPEND may append to (R224, R225): unscaled, and as KV_CREATE writes one. -/
def KvShape.appendable (s : KvShape) (bs : List Byte) : Bool :=
  leNat (bs.take 4) = 0x564B5442 && bits s.fk 5 4 = 0 && !kvFmtBad s.fk s.fv s.dq s.dv && s.heads != 0 && s.heads ≤ 256
    && s.maxLen % 64 = 0 && s.maxLen != 0 && s.maxLen ≤ 1048576 && s.len ≤ s.maxLen

/-- The shape of the region a KV_APPEND names, none where it may not append to it. -/
def Dev.kvRegion (d : Dev) (ac : Acc) (x : Rec64) : Mv (Option KvShape) :=
  (d.readRange ac (fieldB x 16 8) 64).bind (fun d r =>
    let bs := gotBytes r.1 (fieldB x 16 8) 64
    .ok d (if (kvHead bs).appendable bs then some (kvHead bs) else none))

/-- KV_APPEND (R225, R226): those of one REGION run one at a time in acceptance order. One whose region it may not append to is refused as
R57 says a reserved encoding is, before it enters the Drill. -/
def execKvAppend (tag : Tag) (s : State) : Host.Outcome State Fault Refusal :=
  s.onDev (fun d =>
    let ready (w : Work) : Bool := !d.hq.infl.any (fun e => e.2.ctx = w.ctx && dOp e.2.desc = 0x301
      && fieldB e.2.desc 16 8 = fieldB w.desc 16 8 && e.2.before w && (match e.2.phase with | .finished _ _ => false | _ => true))
    match d.running tag 0x301 with
    | none => d
    | some w =>
      match d.kvRegion ⟨w.ctx, some tag, none, 2, .both, none, 0x100000 + tag.val⟩ w.desc with
      | .ok d' none => if d.inDrill tag || !ready w then d else d'.finishWork tag 3 0
      | _ => d.drillDesc tag 0x301 ready)

/-! ## Running (R152 to R154) -/

/-- The LAUNCH or descriptor a transfer belongs to. -/
def DXfer.owner (x : DXfer) : Option Tag := x.tag.orElse (fun _ => x.launch)

/-- A Drill as an agent: it lies in its cluster and reaches host memory (R278). -/
def drillAcc (cl : ClusterId) (x : DXfer) : Acc :=
  ⟨x.ctx, x.owner, some cl, cl.val % 6 / 3, .both, some (.drill cl), 0x200000 + cl.val⟩

/-- The head of a Drill's queue replaced. -/
def Dev.setHead (d : Dev) (cl : Nat) (f : DXfer → DXfer) : Dev :=
  d.modCluster cl (fun y => { y with drill := match y.drill with | [] => [] | x :: xs => f x :: xs })

/-- The head of a Drill's queue that may run: powered, not paused, its context ACTIVE or STOPPING. -/
def Dev.drillHead (d : Dev) (cl : Nat) : Option DXfer :=
  let y := d.cluster cl
  match y.drill with
  | [] => none
  | x :: _ =>
    let st : CState := (d.ctx x.ctx).state
    if d.on cl && !y.paused && !x.faulted && (st = .active || st = .stopping) then some x else none

/-- The total length of a transfer's destination stream. -/
def DXfer.total (x : DXfer) : Nat := if x.isKv then (kvOf x.rcd).total else (xferOf x.rcd).total

/-- A Drill fault or trap parks the context (R114, R154, R253, R280, R447); the transfer holds its resume point. In a STOPPING context it
ends (R86). -/
def Dev.drillPark (d : Dev) (cl : ClusterId) (x : DXfer) (cause : Nat) (fault : Option (XFault × Nat)) : Dev :=
  let d := d.setHead cl (fun y => { y with faulted := true })
  let core := if x.isKv then 0xFFFF else (xferOf x.rcd).core
  let (q, idx) : Nat × Nat := match x.tag with
    | none => (0, 0)
    | some t => match d.work t with | none => (0, 0) | some w => (w.q.val, w.idx.toNat)
  let slot := if x.isKv then d.spareSlot x.ctx else some core
  let kind := if cause = 7 then 2 else 1
  let d := if (d.ctx x.ctx).state = CState.stopping then d.modCluster cl (fun y => { y with drill := y.drill.drop 1 }) else d
  d.park x.ctx ⟨cause, kind, 3, 0, core, 0, if kind = 2 then x.id else 0, if kind = 2 then b2n x.tag.isNone else 0, q, idx, x.progress,
    if cause = 7 then fault else none, 0, x.owner, some cl⟩ slot

/-- The places of the destination stream's bytes from lo to its end: address and length. -/
def Xfer.spans (t : Xfer) (lo : Nat) : List (Nat × Nat) :=
  if t.layout = 1 then
    (List.range (t.rows / 16)).filterMap (fun m =>
      let a := max lo (t.panel * m)
      let b := t.panel * m + t.panel
      if a < b then some (t.dst + t.len * m + (a - t.panel * m), b - a) else none)
  else if lo < t.len then [(t.dst + lo, t.len - lo)] else []

/-- The places of the bytes a transfer would still write: beyond its PROGRESS. -/
def Dev.unwritten (d : Dev) (ac : Acc) (x : DXfer) : List (Nat × Nat) :=
  if !x.isKv then (xferOf x.rcd).spans x.progress
  else if dOp x.rcd = 0x300 then [(fieldB x.rcd 16 8 + x.progress, (kvOf x.rcd).total - x.progress)]
  else
    match d.kvRegion ac x.rcd with
    | .ok _ (some s) => (s.run x.rcd x.progress (s.appendBytes x.rcd)).map (fun g => (g.dst, g.n)) ++ [(fieldB x.rcd 16 8 + 8, 4)]
    | _ => []

/-- Bytes of a transfer's destination beyond PROGRESS are undefined after a fault (R154): they become free bytes, outside a local store
wherever they can be written. -/
def Dev.blur (d : Dev) (ac : Acc) (x : DXfer) : Dev :=
  let t := xferOf x.rcd
  let (n, d) := d.takeFresh
  let free (a m : Nat) : List Flow := (List.range m).map (fun i => flowByte (Config.freeByte n (a + i)))
  let page (d : Dev) (a m : Nat) : Dev := match d.placeAt ac a (free a m) with | .ok e _ => e | _ => d
  (d.unwritten ac x).foldl (fun d p =>
    if !x.isKv && t.toLocal then d.modCore t.core (fun k => if k.inLocal p.1 p.2 then k.place p.1 (free p.1 p.2) else k)
    else (pageStarts p.1 p.2).foldl (fun d a => page d a (min (p.1 + p.2) (a / 4096 * 4096 + 4096) - a)) d) d

/-- DRILL_TRANSFER_START (R152, R154). -/
def Dev.drillStart (d : Dev) (cl : ClusterId) : Dev :=
  match d.drillHead cl with
  | none => d
  | some x =>
    let t := xferOf x.rcd
    let reach := if t.layout = 1 then (t.rows / 16 - 1) * t.len + t.panel else t.len
    if x.started then d
    else if !x.isKv && t.toLocal && !(d.core t.core).inLocal t.dst reach then d.drillPark cl x 2 none
    else d.setHead cl (fun y => { y with started := true })

/-- DRILL_TRANSFER_START (R152). -/
def execDrillTransferStart (cl : ClusterId) (s : State) : Host.Outcome State Fault Refusal := s.onDev (fun d => d.drillStart cl)

/-- One unit of the head transfer. -/
def Dev.drillUnit (d : Dev) (cl : ClusterId) (x : DXfer) (hi : Nat) : Mv Unit :=
  let ac := drillAcc cl x
  if x.isKv then d.kvUnit ac x.rcd x.progress hi
  else (d.unitPieces ac (xferOf x.rcd) x.progress hi).bind (fun d ps => d.putPieces ac (xferOf x.rcd) ps)

/-- At most n units in ascending order, until the stream of `total` bytes ends or one cannot complete (R153). -/
def Dev.drillUnits (d : Dev) (cl : ClusterId) (total : Nat) (unit : Dev → DXfer → Nat → Mv Unit) : Nat → Mv Unit
  | 0 => .ok d ()
  | n + 1 =>
    match (d.cluster cl).drill with
    | [] => .ok d ()
    | x :: _ =>
      if total ≤ x.progress then .ok d ()
      else
        let hi := min total (x.progress + 4096)
        (unit d x hi).bind (fun d _ =>
          ((d.setHead cl (fun y => { y with progress := hi })).bump (drillSet cl) 0 (hi - x.progress)).drillUnits cl total unit n)

/-- The head transfer leaves its Drill with a status, not counted as complete: stopped, or refused. -/
def Dev.drillLeave (d : Dev) (cl : ClusterId) (x : DXfer) (status : Nat) (result : Word) : Dev :=
  let d := d.modCluster cl (fun y => { y with drill := y.drill.drop 1 })
  let d := match x.tag with
    | none => d
    | some t => d.finishWork t status result
  d.freeCluster cl

/-- The head transfer leaves its Drill complete. -/
def Dev.drillDone (d : Dev) (cl : ClusterId) (x : DXfer) (result : Word) : Dev := (d.bump (drillSet cl) 1 1).drillLeave cl x 0 result

/-- A transfer whose units are complete signals its token and ends (R113, R153). -/
def Dev.drillEnd (d : Dev) (cl : ClusterId) (x : DXfer) : Dev :=
  let t := xferOf x.rcd
  if x.isKv then d.drillDone cl x (BitVec.ofNat 32 (kvOf x.rcd).block)
  else if t.sigEn then
    match d.signal t.core t.scope t.token t.count with
    | none => d.drillPark cl { x with progress := t.total } 4 none
    | some d => d.drillDone cl x (BitVec.ofNat 32 t.total)
  else d.drillDone cl x (BitVec.ofNat 32 t.total)

/-- The head transfer after its fault: stopped at PROGRESS, its context parked (R154). One that was to stop at this boundary ends
instead. -/
def Dev.drillFault (d : Dev) (cl : ClusterId) (f : XFault) (a : Nat) : Dev :=
  match (d.cluster cl).drill with
  | [] => d
  | x :: _ =>
    match x.stop with
    | some st => d.drillLeave cl x st 0
    | none => (d.blur (drillAcc cl x) x).drillPark cl x f.cause (some (f, a))

/-- What a run of the head transfer came to. -/
inductive DrillRun where
  | done (d : Dev)
  | fault (d : Dev) (f : XFault) (iova : Nat)
  | wait (d : Dev)

/-- The units of a run and then its end. -/
def DrillRun.after (m : Mv Unit) (f : Dev → DrillRun) : DrillRun :=
  match m with
  | .ok d _ => f d
  | .fault d g a => .fault d g a
  | .wait d _ => .wait d
  | .stall d _ => .wait d

/-- How many units a run may take: all, or where the transfer is to stop or its context waits for a save, those up to some unit boundary
(R126, R154; log 57). -/
def Dev.drillQuota (d : Dev) (x : DXfer) (total : Nat) : Dev × Nat :=
  if x.stop.isNone && (d.ctx x.ctx).preemptReq.isNone then (d, total / 4096 + 1)
  else
    let (n, d) := d.takeFresh
    (d, min (total / 4096) (Config.freeWord n).toNat + 1)

/-- After its units: a transfer to stop leaves without a signal; one that is whole ends; one cut short pauses its Drill. -/
def Dev.drillAfter (d : Dev) (cl : ClusterId) (x : DXfer) (total : Nat) (whole : Dev → Dev) : DrillRun :=
  match x.stop with
  | some st => .done (d.drillLeave cl x st 0)
  | none =>
    match (d.cluster cl).drill with
    | [] => .done d
    | y :: _ => .done (if total ≤ y.progress then whole d else d.modCluster cl (fun z => { z with paused := true }))

/-- A KV_APPEND run from its PROGRESS (R225, R226): the panels' bytes in units, then LEN in the header. -/
def Dev.appendRun (d : Dev) (cl : ClusterId) (x : DXfer) : DrillRun :=
  let ac := drillAcc cl x
  match d.kvRegion ac x.rcd with
  | .fault d f a => .fault d f a
  | .wait d _ => .wait d
  | .stall d _ => .wait d
  | .ok d none => .done (d.drillLeave cl x 3 0)
  | .ok d (some s) =>
    let n := fieldB x.rcd 40 2
    if s.maxLen < s.len + n then .done (d.drillDone cl x (BitVec.ofNat 32 (0x80000000 + s.len)))
    else
      let total := s.appendBytes x.rcd
      let (d, quota) := d.drillQuota x total
      .after (d.drillUnits cl total (fun d y hi => d.kvAppendUnit ac x.rcd s y.progress hi) quota) (fun d =>
        match x.stop, (d.cluster cl).drill with
        | none, y :: _ =>
          if total ≤ y.progress then
            .after (d.writeRange ac (fieldB x.rcd 16 8 + 8) (natLe 4 (s.len + n))) (fun d =>
              .done ((d.bump (drillSet cl) 0 4).drillDone cl x (BitVec.ofNat 32 (s.len + n))))
          else d.drillAfter cl x total id
        | _, _ => d.drillAfter cl x total id)

/-- The head transfer of a Drill run to its end, a stop, a fault or a wait. -/
def Dev.drillRun (d : Dev) (cl : ClusterId) (x : DXfer) : DrillRun :=
  if x.isKv && dOp x.rcd = 0x301 then d.appendRun cl x
  else
    let (d, quota) := d.drillQuota x x.total
    .after (d.drillUnits cl x.total (fun d y hi => d.drillUnit cl y hi) quota) (fun d =>
      d.drillAfter cl x x.total (fun d => d.drillEnd cl x))

/-- DRILL_TRANSFER_COMPLETE (R153): the head's units complete, up to its end or to where it is to stop. -/
def execDrillTransferComplete (cl : ClusterId) (s : State) : Host.Outcome State Fault Refusal :=
  s.onDev (fun d =>
    match d.drillHead cl with
    | none => d
    | some x =>
      if !x.started then d
      else
        match d.drillRun cl x with
        | .done d => d
        | .fault d f a => d.drillFault cl f a
        | .wait d => d)

/-- DRILL_TRANSLATION_FAULT (R154): a running transfer meets a fault; one that meets none goes on as it was. -/
def execDrillTranslationFault (cl : ClusterId) (s : State) : Host.Outcome State Fault Refusal :=
  s.onDev (fun d =>
    match d.drillHead cl with
    | none => d
    | some x =>
      if !x.started then d
      else
        match d.drillRun cl x with
        | .fault d f a => d.drillFault cl f a
        | _ => d)

end Sys2Proof.Machine
end

