-- ==== Sys2Proof/Machine/Shard.lean ====
section
/-!
DEFINITION. Sys2Proof/Machine/Shard.lean: what the update engine keeps in memory: shard records, step records, images and folds
(R356 to R360, R378, R385), arrivals as they form (R367, R374), the local part of a Winnow (R376, R377, R383, R185) and the journal
header (R393).
-/
namespace Sys2Proof.Machine

/-! ## Accesses chained -/

/-- Accesses made one after another. -/
def Mv.each {α : Type} (d : Dev) (f : Dev → α → Mv Unit) : List α → Mv Unit
  | [] => .ok d ()
  | x :: xs => (f d x).bind (fun d _ => Mv.each d f xs)

/-- A part whose memory is as another's, with all that has been counted, posted or kept waiting since. -/
def Dev.undo (d0 d : Dev) : Dev :=
  { d with mm := { d.mm with
      gran := d0.mm.gran, lines := d0.mm.lines, lru := d0.mm.lru, tags := d0.mm.tags, queued := d0.mm.queued, halves := d0.mm.halves } }

/-- Accesses made as one write of the engine (R360, R382): where they do not come to their end, nothing of it is written. -/
def Mv.whole {α : Type} (d0 : Dev) (m : Mv α) : Mv α :=
  match m with
  | .ok d x => .ok d x
  | .fault d f a => .fault (d0.undo d) f a
  | .wait d a => .wait (d0.undo d) a
  | .stall d c => .stall (d0.undo d) c

/-- Bytes read by a headland engine (unit 5 or 6), poison consumed as zeros (R286). -/
def Dev.engRead (d : Dev) (ac : Acc) (unit iova n : Nat) : Mv (List Byte) :=
  (d.readRange ac iova n).bind (fun d r =>
    let d := match gotPoison r.1 with
      | some a => d.consume ac.ctx ac.tag (ac.cl.getD 255) unit a
      | none => d
    .ok d (gotBytes r.1 iova n))

/-- The sector at an address written back if it is dirty (R360). -/
def Dev.flushSector (d : Dev) (ac : Acc) (iova : Nat) : Mv Unit :=
  match d.xlate ac.ctx ac.cl ac.ag ac.who iova true with
  | (d, .fault f) => .fault d f iova
  | (d, .wait) => .wait d iova
  | (d, .host _) => .ok d ()
  | (d, .gran dpa place home) =>
    let (h, s, x) := locOf place home (dpa / 256)
    match d.findLine h s x (dpa / 256) with
    | none => .ok d ()
    | some l =>
      let sec := dpa / 128 % 2
      if !bitOf l.dirty sec then .ok d ()
      else if d.wbHeld l then .stall (d.heldBacks [l]) 6
      else .ok ((d.wbSector l sec).putLine { l with dirty := l.dirty &&& (3 - 2 ^ sec) }) ()

/-- Every sector a range touches written back. -/
def Dev.flushRange (d : Dev) (ac : Acc) (iova n : Nat) : Mv Unit :=
  if n = 0 then .ok d ()
  else Mv.each d (fun d a => d.flushSector ac a) ((List.range ((iova + n - 1) / 128 + 1 - iova / 128)).map (fun i => 128 * (iova / 128 + i)))

/-- A record's first sector written once and written back (R360). -/
def Dev.putSector (d : Dev) (ac : Acc) (iova : Nat) (bs : List Byte) : Mv Unit :=
  ((d.writeRange ac iova bs).bind (fun d _ => d.flushSector ac iova)).whole d

/-- The half of the lowest-numbered powered headland quadrant, whose shard unit serves a peer (R361, log 24). -/
def Dev.hqHalf (d : Dev) : Nat := (firstWhere (fun q => d.on (80 + q)) 4).getD 0 / 2

/-- The update engine serving a peer (R386, R397): no descriptor of this device is concerned. -/
def Dev.updAcc (d : Dev) (c : CtxId) : Acc := ⟨c, none, none, d.hqHalf, .granary, none, 0x300000⟩

/-! ## Shard records (R357) -/

/-- A shard record's 256 bytes. -/
structure Shard where
  bs : List Byte

/-- A little-endian field. -/
def Shard.f (s : Shard) (off n : Nat) : Nat := leNat ((s.bs.drop off).take n)
/-- A field replaced. -/
def Shard.put (s : Shard) (off n v : Nat) : Shard := ⟨patch s.bs off (natLe n v)⟩
/-- SHARD_ID. -/
def Shard.id (s : Shard) : Word := BitVec.ofNat 32 (s.f 0 4)
/-- ELEMS. -/
def Shard.elems (s : Shard) : Nat := s.f 4 4
/-- ROLE: 1 OWNED, 2 REPLICA. -/
def Shard.role (s : Shard) : Nat := bits (s.f 8 1) 1 0
/-- MODE is short. -/
def Shard.short (s : Shard) : Bool := bitOf (s.f 8 1) 2
/-- EPOCH. -/
def Shard.epoch (s : Shard) : Nat := bits (s.f 8 1) 3 3
/-- CORRUPT. -/
def Shard.corrupt (s : Shard) : Bool := bitOf (s.f 8 1) 4
/-- FMT. -/
def Shard.fmt (s : Shard) : Nat := bits (s.f 9 1) 3 0
/-- SCALE. -/
def Shard.scale (s : Shard) : Nat := bits (s.f 9 1) 5 4
/-- The scale block size. -/
def Shard.blk (s : Shard) : Nat := blkSize (bits (s.f 9 1) 7 6)
/-- GROUP. -/
def Shard.group (s : Shard) : Nat := bits (s.f 10 2) 11 0
/-- CORE. -/
def Shard.core (s : Shard) : Nat := bits (s.f 12 2) 10 0
/-- HOP_TOKEN. -/
def Shard.hopToken (s : Shard) : Nat := bits (s.f 14 1) 5 0
/-- NSTATE. -/
def Shard.nstate (s : Shard) : Nat := bits (s.f 15 1) 2 0
/-- SWEEP. -/
def Shard.sweep (s : Shard) : Nat := bits (s.f 15 1) 7 4
/-- STOOK_STATE. -/
def Shard.stook (s : Shard) : Nat := bits (s.f 16 1) 3 0
/-- A flag of STEP_FLAGS: 0 OPEN, 1 SEALED, 2 NONFINITE, 3 ABSURD, 4 COUNT_BAD, 5 LATE. -/
def Shard.flag (s : Shard) (i : Nat) : Bool := bitOf (s.f 17 1) i
/-- Flags of STEP_FLAGS set. -/
def Shard.setFlags (s : Shard) (m : Nat) : Shard := s.put 17 1 (s.f 17 1 ||| m)
/-- Weight slot e. -/
def Shard.wslot (s : Shard) (e : Nat) : Nat := s.f (24 + 8 * (e % 2)) 8
/-- OWNER. -/
def Shard.owner (s : Shard) : Nat := bits (s.f 40 8) 17 0
/-- OWNER_INDEX. -/
def Shard.ownerIndex (s : Shard) : Nat := bits (s.f 40 8) 33 18
/-- FOLD. -/
def Shard.fold (s : Shard) : Nat := s.f 48 8
/-- FOLD_LO. -/
def Shard.foldLo (s : Shard) : Nat := s.f 56 8
/-- STEP. -/
def Shard.step (s : Shard) : Nat := s.f 64 8
/-- STAGED_COUNT. -/
def Shard.staged (s : Shard) : Nat := s.f 88 4
/-- SHARD_SSQ. -/
def Shard.ssq (s : Shard) : Word := BitVec.ofNat 32 (s.f 92 4)
/-- SSQ_ADDR. -/
def Shard.ssqAddr (s : Shard) : Nat := s.f 96 8
/-- SWEEP_POS. -/
def Shard.sweepPos (s : Shard) : Nat := s.f 104 4
/-- Slot e of state array a. -/
def Shard.stateSlot (s : Shard) (a e : Nat) : Nat := s.f (128 + 32 * a + 8 * (e % 2)) 8
/-- BYTES of state array a. -/
def Shard.stateBytes (s : Shard) (a : Nat) : Nat := s.f (128 + 32 * a + 16) 4
/-- FMT of state array a. -/
def Shard.stateFmt (s : Shard) (a : Nat) : Nat := s.f (128 + 32 * a + 20) 1
/-- The state arrays that take part in the clip sweep: those with their SWEEP bit set that are FP32 (R359, R382). -/
def Shard.sweptArrays (s : Shard) : List Nat := (List.range s.nstate).filter (fun a => bitOf s.sweep a && s.stateFmt a = 7)
/-- Bit k of byte 8 set to a value: 3 EPOCH, 4 CORRUPT. -/
def Shard.setBit (s : Shard) (k : Nat) (v : Bool) : Shard := s.put 8 1 (putBits (s.f 8 1) k k (b2n v))

/-- The bytes of a shard's elements in a slot: the high halves, or the packed elements. -/
def Shard.elemBytes (s : Shard) : Nat := if s.short then s.elems * fmtBits s.fmt / 8 else 2 * s.elems
/-- The length of the fetch image (R359). -/
def Shard.imageLen (s : Shard) : Nat := s.elemBytes + (if s.short && s.scale != 0 then s.elems / s.blk else 0)
/-- The length of a weight slot. -/
def Shard.slotLen (s : Shard) : Nat := if s.short then s.imageLen else 4 * s.elems

/-- UPD_SHARD_COUNT. -/
def Dev.shardCount (d : Dev) : Nat := bits (d.reg 0x120010).toNat 16 0
/-- The IOVA of a shard record. -/
def Dev.shardAt (d : Dev) (i : Nat) : Nat := d.wide64 0x12000C + 256 * i

/-- A shard record read. -/
def Dev.shard (d : Dev) (ac : Acc) (i : Nat) : Mv Shard := (d.engRead ac 6 (d.shardAt i) 256).bind (fun d bs => .ok d ⟨bs⟩)
/-- A shard record's first sector written (R360). -/
def Dev.putShard (d : Dev) (ac : Acc) (i : Nat) (s : Shard) : Mv Unit := d.putSector ac (d.shardAt i) (s.bs.take 128)

/-! ## Step records (R378) -/

/-- A step record's 64 bytes. -/
structure StepRec where
  bs : List Byte

/-- A little-endian field. -/
def StepRec.f (r : StepRec) (off n : Nat) : Nat := leNat ((r.bs.drop off).take n)
/-- The record is in a state (1 OPEN, 2 DECIDED, 3 ABORTED) for a step. -/
def StepRec.is (r : StepRec) (state step : Nat) : Bool := r.f 8 1 = state && r.f 0 8 = step

/-- The IOVA of a step's record. -/
def Dev.stepAt (d : Dev) (n : Nat) : Nat := d.wide64 0x120018 + 64 * (n % 16)
/-- A step's record read. -/
def Dev.stepRec (d : Dev) (ac : Acc) (n : Nat) : Mv StepRec := (d.engRead ac 6 (d.stepAt n) 64).bind (fun d bs => .ok d ⟨bs⟩)
/-- A step's record written. -/
def Dev.putStep (d : Dev) (ac : Acc) (n : Nat) (bs : List Byte) : Mv Unit := d.putSector ac (d.stepAt n) bs

/-- The bytes of a decided record. -/
def decidedBytes (n decision : Nat) (root : Bool) (flags : Nat) (s c : Word) (coll lt : Nat) : List Byte :=
  natLe 64 (packB [(0, n), (8, 2), (9, decision), (10, b2n root), (12, flags), (16, s.toNat), (20, c.toNat), (24, coll), (32, lt % 2 ^ 64)])

/-! ## Folds (R385) -/

/-- One byte of the CRC-64. -/
def foldByte (c : Nat) (b : Byte) : Nat :=
  iter (fun c => if bitOf c 63 then ((2 * c) % 2 ^ 64) ^^^ 0x42F0E1EBA9EA3693 else 2 * c) 8 (c ^^^ (b.toNat * 2 ^ 56))

/-- A fold begun from a value. -/
def foldFrom (c : Nat) (bs : List Byte) : Nat := bs.foldl foldByte c

/-- The fold of bytes. -/
def fold64 (bs : List Byte) : Nat := foldFrom 0 bs

/-- The fold of a shard's image in slot e. -/
def Dev.foldImage (d : Dev) (ac : Acc) (s : Shard) (e : Nat) : Mv Nat :=
  (d.engRead ac 6 (s.wslot e) s.imageLen).bind (fun d bs => .ok d (fold64 bs))

/-- The fold of a split shard's low halves in slot e; 0 of a short one. -/
def Dev.foldLow (d : Dev) (ac : Acc) (s : Shard) (e : Nat) : Mv Nat :=
  if s.short then .ok d 0
  else (d.engRead ac 6 (s.wslot e + 2 * s.elems) (2 * s.elems)).bind (fun d bs => .ok d (fold64 bs))

/-! ## Element groups of a slot (R359, R372, R382) -/

/-- Fixed-width elements packed into bytes, bit 0 first. -/
def packElems (w : Nat) (xs : List Nat) : List Byte := natLe (ceilDiv (w * xs.length) 8) (xs.foldr (fun x acc => x + 2 ^ w * acc) 0)

/-- Element k of packed bytes. -/
def elemOf (w : Nat) (bs : List Byte) (k : Nat) : Nat :=
  let lo := w * k / 8
  let n := (w * k % 8 + w + 7) / 8
  bits (leNat ((bs.drop lo).take n)) (w * k % 8 + w - 1) (w * k % 8)

/-- 256 values of a slot as FP32 (R372, R186): the master from both halves, or element times scale. -/
def Dev.slotVals (d : Dev) (ac : Acc) (s : Shard) (e i : Nat) : Mv (List Word) :=
  let base := s.wslot e
  if s.short then
    let w := fmtBits s.fmt
    (d.engRead ac 6 (base + i * w / 8) (256 * w / 8)).bind (fun d es =>
      if s.scale = 0 then .ok d ((List.range 256).map (fun k => rne32 (decode s.fmt (elemOf w es k))))
      else (d.engRead ac 6 (base + s.elemBytes + i / s.blk) (256 / s.blk)).bind (fun d sc =>
        .ok d ((List.range 256).map (fun k => rne32 (scaled s.fmt s.scale (elemOf w es k) (sc.getD (k / s.blk) 0).toNat)))))
  else
    (d.engRead ac 6 (base + 2 * i) 512).bind (fun d hi =>
      (d.engRead ac 6 (base + 2 * s.elems + 2 * i) 512).bind (fun d lo =>
        .ok d ((List.range 256).map (fun k => BitVec.ofNat 32 (fld (elemOf 16 hi k) 16 + elemOf 16 lo k)))))

/-- The scale and codes of a block of a short FP8 shard: the weights recipe forms the scale from the block's own values, and the
quotient is rounded stochastically (R165 to R167, R184). A block with a value that is not finite gets the scale of R164 and zeros. -/
def srBlock (f scale : Nat) (rnd : Nat → Nat) (vs : List Word) (k0 : Nat) : Nat × List Nat :=
  let a := absMax (vs.map f32)
  if !a.isFin then (if scale = 1 then 255 else 0x7F, vs.map (fun _ => 0))
  else
    let b := scaleOf f scale a
    (b, ((List.range vs.length).zip vs).map (fun e => srRound f (Val.div (f32 e.2) (scaleVal scale b)) (rnd (k0 + e.1))))

/-- 256 new values written to a slot (R372, R186): both halves, or rounded stochastically under a PURPOSE. -/
def Dev.putVals (d : Dev) (ac : Acc) (s : Shard) (e i step purpose : Nat) (vs : List Word) : Mv Unit :=
  let base := s.wslot e
  let rnd (k : Nat) : Nat := philoxWord s.id step k purpose
  if s.short then
    let w := fmtBits s.fmt
    if s.scale = 0 then
      d.writeRange ac (base + i * w / 8) (packElems w (((List.range vs.length).zip vs).map (fun x => srRound s.fmt (f32 x.2) (rnd (i + x.1)))))
    else
      let bs := (List.range (256 / s.blk)).map (fun b => srBlock s.fmt s.scale rnd ((vs.drop (b * s.blk)).take s.blk) (i + b * s.blk))
      (d.writeRange ac (base + i * w / 8) (packElems w (bs.flatMap (·.2)))).bind (fun d _ =>
        d.writeRange ac (base + s.elemBytes + i / s.blk) (bs.map (fun x => BitVec.ofNat 8 x.1)))
  else
    (d.writeRange ac (base + 2 * i) (packElems 16 (vs.map (fun v => v.toNat / 65536)))).bind (fun d _ =>
      d.writeRange ac (base + 2 * s.elems + 2 * i) (packElems 16 (vs.map (fun v => v.toNat % 65536))))

/-! ## Arrivals (R367, R368, R374) -/

/-- One level of the pairing of R201. -/
def pairAdd : List Word → List Word
  | a :: b :: t => add32 a b :: pairAdd t
  | t => t

/-- Group g of the health tallies. -/
def Dev.grp (d : Dev) (g : Nat) : Grp := Tbl.get d.upd.groups g ⟨0, 0, 0, false⟩
/-- Group g changed. -/
def Dev.modGrp (d : Dev) (g : Nat) (f : Grp → Grp) : Dev :=
  { d with upd := { d.upd with groups := Tbl.set d.upd.groups g (f (d.grp g)) ⟨0, 0, 0, false⟩ } }

/-- A word is zero of either sign. -/
def isZero32 (w : Word) : Bool := lowBits w.toNat 31 = 0

/-- An arrival formed of 256 sums (R367): converted, counted, checked, summed, and set to wait for its core's Hopper. One for a shard
that is no longer OPEN is discarded and sets LATE, and one for a shut Hopper is discarded (R374). -/
def Dev.formArrival (d : Dev) (ac : Acc) (coll fmt : Nat) (sat : Bool) (si i : Nat) (g : List Word) (bad : List Bool) : Mv Unit :=
  (d.shard ac si).bind (fun d s =>
    let xs := g.map (fun v => rne32 (decode fmt (convert fmt sat (f32 v)).code))
    let arr : Arrival := ⟨si, i, coll, (List.range 16).map (fun u => ⟨((xs.drop (16 * u)).take 16).flatMap (bytesOf 4), bad.getD u false⟩)⟩
    if s.role != 1 then .ok (d.discardArrivals s.core [arr]) ()
    else if !s.flag 0 then
      let d := d.discardArrivals s.core [arr]
      if s.flag 5 then .ok d () else d.putShard ac si (s.setFlags 32)
    else
      let nz := (g.filter (fun v => !isZero32 v)).length
      let fl := ((g.zip xs).filter (fun e => !isZero32 e.1 && isZero32 e.2)).length
      let d := d.modGrp s.group (fun p => { p with nonzero := min 0xFFFFFFFF (p.nonzero + nz), flushed := min 0xFFFFFFFF (p.flushed + fl) })
      let lim := f32 (d.reg 0x12001C)
      let fm := xs.foldl (fun m x => m ||| (if !(f32 x).isFin then 4 else if Val.lt lim (f32 x).abs then 8 else 0)) 0
      let q := iter pairAdd 8 (xs.map (fun x => mul32 x x))
      (d.writeRange ac (s.ssqAddr + 4 * (i / 256)) (bytesOf 4 (q.headD 0))).bind (fun d _ =>
        (if (s.setFlags fm).f 17 1 = s.f 17 1 then .ok d () else d.putShard ac si (s.setFlags fm)).bind (fun d _ =>
          let d := d.bump updSet 0 1
          if !(d.core s.core).hopOpen then .ok (d.discardArrivals s.core [arr]) ()
          else .ok { d with upd := { d.upd with formed := d.upd.formed ++ [⟨s.core, arr⟩] } } ())))

/-- An arrival of a collective waits in the engine for a full Hopper (R368). -/
def Dev.hopHeld (d : Dev) (coll : Nat) : Bool :=
  d.upd.formed.any (fun f => f.arr.coll = coll && 16 ≤ (d.core f.core).hopper.length)

/-! ## Ranges of shards -/

/-- FIRST_SHARD and the count of a range, 0 meaning 65,536 (R362). -/
def shardRange (x : Rec64) : Nat × Nat := (fieldB x 24 2, if fieldB x 26 2 = 0 then 65536 else fieldB x 26 2)

/-- The records of a range read. -/
def Dev.shards (d : Dev) (ac : Acc) : List Nat → Mv (List Shard)
  | [] => .ok d []
  | i :: is => (d.shard ac i).bind (fun d s => (d.shards ac is).bind (fun d ss => .ok d (s :: ss)))

/-- The indices of a descriptor's range. -/
def rangeIdx (x : Rec64) : List Nat := (List.range (shardRange x).2).map (fun k => (shardRange x).1 + k)

/-- Where an offset of an owned range lands: shard index and element index (R366). -/
def landAt : List (Nat × Shard) → Nat → Nat × Nat
  | [], _ => (0, 0)
  | [(i, _)], x => (i, x)
  | (i, s) :: t, x => if x < s.elems then (i, x) else landAt t (x - s.elems)

/-! ## The Winnow's local part (R376, R377, R383) and its decision (R185) -/

/-- FLAGS of a member's range. -/
def localFlags (ss : List Shard) (force : Bool) : Nat :=
  let has (p : Shard → Bool) (b : Nat) : Nat := if ss.any p then b else 0
  has (·.flag 2) 1 + has (·.flag 3) 2 + has (fun s => !s.flag 1 || s.flag 4 || s.flag 5) 4 + has (·.corrupt) 16 + (if force then 32 else 0)

/-- A left fold of words by RNE32 addition. -/
def sumLeft : List Word → Word
  | [] => 0
  | x :: xs => xs.foldl add32 x

/-- The decision, the FLAGS with SSQ_NONFINITE, and the clip factor: 0 SKIP, 1 COMMIT, 2 CLIP. -/
def decide32 (flags : Nat) (s clip : Word) : Nat × Nat × Word :=
  let one : Word := 0x3F800000
  let flags := if (f32 s).isFin then flags else flags ||| 64
  if flags != 0 then (0, flags, one)
  else
    let n := rne32 (Val.sqrt (f32 s))
    let c := if Val.lt (f32 clip) (f32 n) then rne32 (Val.div (f32 clip) (f32 n)) else one
    (if c = one then 1 else 2, flags, c)

/-- FLUSHED of a group, whose SAT is bit 17 of UPD_GRP_STATE (R399). -/
def grpSet (g : Nat) : CtrSet := ⟨0x13000C + 16 * g, 0x120040, some 0x120038, [(0x130000 + 16 * g, 32)]⟩

/-- A group evaluated when a WINNOW decides (R383). -/
def Dev.evalGroup (d : Dev) (g : Nat) : Dev :=
  let p := d.grp g
  if p.nonzero = 0 then d
  else
    let cfg := (d.reg 0x120020).toNat
    let (d, rose) := d.rawBump (grpSet g) 0 p.flushed
    let d := if rose && d.satEn (grpSet g) then d.post 1 (packB [(0, 0x130000 + 16 * g), (4, 17)]) else d
    if bits cfg 15 0 * p.nonzero < 65536 * p.flushed then
      let q := min 65535 (p.quiet + 1)
      let post := q = bits cfg 31 16 && !p.raised
      let d := d.modGrp g (fun _ => ⟨0, 0, q, p.raised || post⟩)
      if post then d.postUpd 0x8001 (packB [(0, g), (2, q), (4, bits cfg 15 0)]) else d
    else d.modGrp g (fun _ => ⟨0, 0, 0, false⟩)

/-- The groups of a range evaluated, each once, ascending. -/
def Dev.evalGroups (d : Dev) (ss : List Shard) : Dev :=
  (((ss.map (·.group)).eraseDups).mergeSort (· ≤ ·)).foldl Dev.evalGroup d

/-! ## The journal header (R393) -/

/-- DONE, COMMIT_PHASE of a journal header's 64 bytes. -/
def jField (bs : List Byte) (off n : Nat) : Nat := leNat ((bs.drop off).take n)

end Sys2Proof.Machine
end

