-- ==== Sys2Proof/Machine/Collective.lean ====
section
/-!
DEFINITION. Sys2Proof/Machine/Collective.lean: the collective slots (R333 to R350), with the reductions of the Winnow and the journal
that run on them (R377, R379, R394). A slot's position k is 0 until its opcode command begins it, then counts the phases.
-/
namespace Sys2Proof.Machine

/-! ## What an engine's work comes to -/

/-- The collective goes on, stops with a cause of R347, or must wait with nothing done. -/
inductive Co (α : Type) where
  | ok (d : Dev) (x : α)
  | stop (d : Dev) (cause : Nat)
  | wait

/-- One piece of work after another. -/
def Co.bind {α β : Type} (m : Co α) (f : Dev → α → Co β) : Co β :=
  match m with
  | .ok d x => f d x
  | .stop d c => .stop d c
  | .wait => .wait

/-- An access of an engine: a translation fault is LOCAL_FAULT (R347). -/
def Mv.co {α : Type} (m : Mv α) : Co α :=
  match m with
  | .ok d x => .ok d x
  | .fault d _ _ => .stop d 2
  | .wait _ _ => .wait
  | .stall _ _ => .wait

/-- Work for each of a list. -/
def Co.each {α : Type} (d : Dev) (f : Dev → α → Co Unit) : List α → Co Unit
  | [] => .ok d ()
  | x :: xs => (f d x).bind (fun d _ => Co.each d f xs)

/-! ## Ranges, chunks and phases (R337 to R342) -/

/-- A(w), the elements that fill whole 64-byte units (R338). -/
def alignOf (w : Nat) : Nat := 512 / Nat.gcd 512 w

/-- FMT_IN, SCALE, block size, FMT_OUT of a collective descriptor. -/
def cIn (x : Rec64) : Nat := bits (fieldB x 38 1) 3 0
/-- SCALE. -/
def cScale (x : Rec64) : Nat := bits (fieldB x 38 1) 5 4
/-- BLK. -/
def cBlk (x : Rec64) : Nat := blkSize (bits (fieldB x 38 1) 7 6)
/-- FMT_OUT. -/
def cOut (x : Rec64) : Nat := bits (fieldB x 39 1) 3 0
/-- ORDER is tree. -/
def cTree (x : Rec64) : Bool := bitOf (fieldB x 39 1) 4
/-- SATF. -/
def cSat (x : Rec64) : Bool := bitOf (fieldB x 39 1) 5
/-- ELEMS. -/
def cElems (x : Rec64) : Nat := fieldB x 32 4
/-- COLL_ID. -/
def cId (x : Rec64) : Nat := fieldB x 36 2
/-- ALIGN (R338). -/
def cAlign (x : Rec64) : Nat :=
  max (max (alignOf (fmtBits (cIn x))) (alignOf (fmtBits (cOut x)))) (if cScale x = 0 then 1 else cBlk x)

/-- Chunk j of a range: its first element and count (R338). -/
def chunk (base len n j align : Nat) : Nat × Nat :=
  let c := ceilDiv len (n * align) * align
  let a := min (j * c) len
  let b := min (j * c + c) len
  (base + a, b - a)

/-- The range each dimension cuts at this member, and last the owned range (R339). -/
def Dev.ranges (d : Dev) (x : Rec64) : List (Nat × Nat) :=
  (dimsOf x).foldl (fun rs m =>
    let r := rs.getLastD (0, 0)
    rs ++ [chunk r.1 r.2 m.n (d.dimIndex m d.addr) (cAlign x)]) [(0, cElems x)]

/-- The owned range. -/
def Dev.owned (d : Dev) (x : Rec64) : Nat × Nat := (d.ranges x).getLastD (0, 0)

/-- What a phase does. -/
inductive PhKind where
  | reduce | gather | permute | up | down
  deriving DecidableEq

/-- A phase: its code of R342, its dimension's place in the list, its dimension, the range it cuts. -/
structure Ph where
  kind : PhKind
  code : Nat
  pos : Nat
  dim : Dim
  base : Nat
  len : Nat

/-- The phases of a collective at this member (R339, R377). In a Winnow only the index-0 members of the dimensions before take part in
a dimension. -/
def Dev.phases (d : Dev) (x : Rec64) : List Ph :=
  let op := dOp x
  let ds := (List.range (dimsOf x).length).zip (dimsOf x)
  let rs := d.ranges x
  let ph (k : PhKind) (c : Nat) (e : Nat × Dim) : Ph := ⟨k, c + e.1, e.1, e.2, (rs.getD e.1 (0, 0)).1, (rs.getD e.1 (0, 0)).2⟩
  let red := ds.map (ph .reduce 0)
  let gat := (ds.map (ph .gather 4)).reverse
  match op with
  | 0x600 => red ++ gat
  | 0x601 => red
  | 0x701 => red
  | 0x602 => gat
  | 0x603 => [⟨.permute, 0, 0, ⟨0, 0, 1⟩, 0, 0⟩]
  | _ =>
    ds.filterMap (fun e => if ((dimsOf x).take e.1).all (fun m => d.dimIndex m d.addr = 0) then some (ph .up 0 e) else none)
      ++ [⟨.down, 4, 0, ⟨0, 0, 1⟩, 0, 0⟩]

/-- The address of member j of a dimension's line (R337). -/
def Dev.memberAt (d : Dev) (m : Dim) (j : Nat) : Nat := withCoord d.addr m.dim ((m.lo + j) % d.dimSize m.dim)

/-- The address of a linear member index. -/
def Dev.linearAt (d : Dev) (x : Rec64) (l : Nat) : Nat :=
  ((dimsOf x).foldl (fun (r : Nat × Nat) m => (withCoord r.1 m.dim ((m.lo + r.2 % m.n) % d.dimSize m.dim), r.2 / m.n)) (d.addr, l)).1

/-- The members of a group. -/
def groupSize (x : Rec64) : Nat := ((dimsOf x).map (·.n)).foldl (· * ·) 1

/-- This member's linear index. -/
def Dev.linear (d : Dev) (x : Rec64) : Nat := (dimsOf x).foldr (fun m acc => d.dimIndex m d.addr + m.n * acc) 0

/-- Every other member. -/
def Dev.others (d : Dev) (x : Rec64) : List Nat := ((List.range (groupSize x)).map (d.linearAt x)).filter (fun a => a != d.addr)

/-- A run of elements cut into packets of at most n. -/
def cutRun (base len n : Nat) : List (Nat × Nat) := (List.range (ceilDiv len n)).map (fun i => (base + n * i, min n (len - n * i)))

/-- The chunk of a phase that holds an element. -/
def Ph.chunkOf (p : Ph) (align addr : Nat) : Nat :=
  let c := ceilDiv p.len (p.dim.n * align) * align
  if c = 0 then 0 else (addr - p.base) / c

/-- Chunk j of a phase. -/
def Ph.chunk (p : Ph) (align j : Nat) : Nat × Nat := Machine.chunk p.base p.len p.dim.n j align

/-- Levels of a tree of n members. -/
def levels (n : Nat) : Nat := Nat.log2 (2 * n - 1)

/-- The level at which member i sends its running value up a tree (R340). -/
def sendLevel (n i : Nat) : Nat := if i = 0 then levels n else (firstWhere (fun b => bitOf i b) 16).getD 0

/-- The children of member i. -/
def childrenOf (n i : Nat) : List Nat := ((List.range (sendLevel n i)).map (fun l => i + 2 ^ l)).filter (· < n)

/-- The first half of a run, by ALIGN, travels + (R340). -/
def firstHalf (align len : Nat) : Nat := min len (ceilDiv len (2 * align) * align)

/-- The elements a COPY packet carries: those that fill at most 16 units whole; at most 8 units where scale bytes follow them (log 21). -/
def copySize (x : Rec64) : Nat :=
  let a := alignOf (fmtBits (cOut x))
  a * ((if cScale x = 0 || dOp x != 0x602 then 16 else 8) / (a * fmtBits (cOut x) / 512))

/-- What a member has to receive in a phase: elements, 64-byte units of a permute, or packets of a Winnow. -/
def Dev.needOf (d : Dev) (x : Rec64) (p : Ph) : Nat :=
  let n := p.dim.n
  let i := d.dimIndex p.dim d.addr
  let cnt (j : Nat) : Nat := (p.chunk (cAlign x) j).2
  match p.kind with
  | .reduce =>
    if n = 1 then 0
    else if cTree x then (childrenOf n i).length * p.len + (if i = 0 then 0 else cnt i)
    else if p.dim.dim = 0 then (n - 1) * cnt i
    else p.len - cnt ((i + n - 1) % n)
  | .gather => p.len - cnt i
  | .permute => fieldB x 52 4
  | .up => if n = 1 then 0 else if cTree x then (childrenOf n i).length else if i = 1 then 0 else 1
  | .down => if d.linear x = 0 then 0 else 1

/-! ## Slots -/

/-- The slot of a tag. -/
def Dev.slotOf (d : Dev) (tag : Nat) : Option (Nat × Slot) := (d.col.slots.find? (fun e => e.2.tag.val = tag))
/-- Slot n replaced. -/
def Dev.setSlot (d : Dev) (n : Nat) (s : Slot) : Dev := { d with col := { d.col with slots := Tbl.put d.col.slots n s } }
/-- Slot n changed. -/
def Dev.modSlot (d : Dev) (n : Nat) (f : Slot → Slot) : Dev :=
  match Tbl.find d.col.slots n with
  | some s => d.setSlot n (f s)
  | none => d

/-- COL counters (R355). -/
def colSet : CtrSet :=
  ⟨0x14006C, 0x140070, some 0x140008,
   (List.range 5).map (fun i => (0x140040 + 4 * i, 32)) ++ [(0x140058, 64), (0x140060, 64)]⟩

/-- The phase a slot is in. -/
def Dev.phaseOf (d : Dev) (x : Rec64) (s : Slot) : Option Ph := if s.k = 0 then none else (d.phases x)[s.k - 1]?

/-- Any collective slot is free: the lowest-numbered of a powered headland quadrant (R333, log 22). -/
def Dev.freeSlot (d : Dev) : Option Nat := firstWhere (fun n => (Tbl.find d.col.slots n).isNone && d.on (80 + n / 4)) 16

/-- A collective's last peer input (R64, R345): deadlines that waited for it start. -/
def Dev.lastInput (d : Dev) (tag lt : Nat) : Dev :=
  { d with hq := { d.hq with infl := d.hq.infl.map (fun (e : Nat × Work) =>
    if e.2.waitsOn.contains tag then
      let ws := e.2.waitsOn.erase tag
      (e.1, { e.2 with waitsOn := ws, boundLt := if ws.isEmpty then some lt else e.2.boundLt })
    else e) } }

/-! ## Sending -/

/-- A collective packet (R342). LAST marks the last packet of a chunk, segment or message (log 21). -/
def collPkt (s : Slot) (code step op dst addr flow : Nat) (last : Bool) (data : List Rec64) (bad : List Bool) : Packet :=
  let poison := ((List.range data.length).map (fun u => fld (b2n (bad.getD u false)) u)).sum
  ⟨BitVec.ofNat 256 (fld 6 0 + fld 1 4 + fld data.length 8 + fld (b2n last) 15 + fld dst 32 + fld poison 128 + fld s.id 144
    + fld (step % 8192) 160 + fld code 173 + fld op 176 + fld (2 * s.job + flow) 184 + fld addr 192),
   ((List.range data.length).zip data).map (fun e => if bad.getD e.1 false then 0 else e.2)⟩

/-- ABORT sent to every other member, carrying the cause; one that cannot be sent is let go. -/
def Dev.sendAborts (d : Dev) (x : Rec64) (s : Slot) (cause : Nat) : Dev :=
  let code := match d.phaseOf x s with | some p => p.code | none => 0
  (d.others x).foldl (fun d a => (d.originate s.ctx (collPkt s code 0 2 a cause 0 true [] [])).1) d

/-- An own packet cannot go out after the last peer input: ABORT is still sent, once, and the collective goes on (R347). -/
def Dev.warnAll (d : Dev) (n : Nat) (s : Slot) : Dev :=
  match d.work s.tag with
  | some w => if s.warned then d else (d.sendAborts w.desc s 6).modSlot n (fun s => { s with warned := true })
  | none => d

/-- The last packet that a slot expects from any peer has been consumed: what the phase needs and all later ones need is nothing more.
The deadlines that wait for it start (R64, R345). -/
def Dev.markLast (d : Dev) (n : Nat) (tag : Tag) (x : Rec64) : Dev :=
  match Tbl.find d.col.slots n with
  | none => d
  | some s =>
    if s.lastIn || s.need != 0 || !((d.phases x).drop s.k).all (fun p => d.needOf x p = 0) then d
    else (d.modSlot n (fun s => { s with lastIn := true })).lastInput tag d.lt

/-- A packet handed to the fabric; one that cannot be sent is UNREACHABLE (R347). Poisoned units sent are counted. The direction is that
of a ring (R340). -/
def Dev.emit (d : Dev) (n : Nat) (pkt : Packet) (dir : Option Bool := none) : Co Unit :=
  match Tbl.find d.col.slots n with
  | none => .ok d ()
  | some s =>
    match d.originate s.ctx pkt dir with
    | (d, false) => if s.lastIn then .ok (d.warnAll n s) () else .stop d 6
    | (d, true) =>
      let k := ones (pkt.f 143 128) 16
      .ok ((if k = 0 then d else d.bump colSet 4 k).modSlot n (fun s => { s with act := d.lt })) ()

/-- The primary route or the double of a packet: the packets of a run alternate in X and Y, but not in tree order (R340). -/
def routeBit (x : Rec64) (p : Ph) (i : Nat) : Nat := if cTree x || (p.dim.dim != 1 && p.dim.dim != 2) then 0 else i % 2

/-- FP32 values as payload units. -/
def wordUnits (vs : List Word) : List Rec64 := unitsOf (vs.flatMap (bytesOf 4))

/-- The FP32 values of a payload. -/
def unitWords (pkt : Packet) (n : Nat) : List Word :=
  (List.range n).map (fun e => BitVec.ofNat 32 (fieldB (pkt.data.getD (e / 16) 0) (4 * (e % 16)) 4))

/-- The poisoned units of a payload. -/
def unitBad (pkt : Packet) (n : Nat) : List Bool := (List.range n).map pkt.bad

/-- Running values sent. -/
def Dev.sendRun (d : Dev) (n : Nat) (x : Rec64) (p : Ph) (j step : Nat) (addr : Nat) (vs : List Word) (bad : List Bool) : Co Unit :=
  match Tbl.find d.col.slots n with
  | none => .ok d ()
  | some s =>
    let (a, c) := p.chunk (cAlign x) (p.chunkOf (cAlign x) addr)
    d.emit n (collPkt s p.code step 0 (d.memberAt p.dim j) addr (routeBit x p ((addr - a) / 256)) (addr + vs.length = a + c) (wordUnits vs) bad)

/-! ## This member's contribution and its output (R335, R339, R341) -/

/-- The engines as an agent for a descriptor: those of its slot's headland quadrant (R24, R26, R333). -/
def Dev.colAcc (d : Dev) (tag : Tag) : Acc :=
  match d.work tag, d.slotOf tag with
  | some w, some (n, _) => { w.acc tag .granary with half := n / 8 }
  | some w, none => w.acc tag .granary
  | none, _ => d.updAcc 0

/-- The blocks of a range that came back poisoned. -/
def badAt (gs : List Got) (iova a : Nat) : Bool :=
  match (gs.getD (a / 64 - iova / 64) ⟨none, 0⟩).blk with
  | some b => b.poison
  | none => false

/-- A range read with the poison of its blocks, which the engine consumes (R286, R341). -/
def Dev.colRead (d : Dev) (ac : Acc) (iova n : Nat) : Mv (List Byte × (Nat → Bool)) :=
  (d.readRange ac iova n).bind (fun d r =>
    let d := match gotPoison r.1 with
      | some a => d.consume ac.ctx ac.tag 255 5 a
      | none => d
    .ok d (gotBytes r.1 iova n, fun k => badAt r.1 iova (iova + k)))

/-- Bytes written at an IOVA with the poison of each 64-byte unit of it (R341). -/
def Dev.colWrite (d : Dev) (ac : Acc) (iova : Nat) (bs : List Byte) (bad : Nat → Bool) : Mv Unit :=
  d.placeAt ac iova (((List.range bs.length).zip bs).map (fun e => some (e.2, if bad e.1 then some 0 else none)))

/-- The address of the scale byte of block b (R335). -/
def scaleBase (addr : Nat) (x : Rec64) (b : Nat) : Nat := addr + ceilDiv (cElems x * fmtBits (cIn x)) 512 * 64 + b

/-- Units of 16 elements from a per-element test. -/
def unitsBad (n : Nat) (p : Nat → Bool) : List Bool :=
  (List.range (ceilDiv n 16)).map (fun u => (List.range 16).any (fun k => 16 * u + k < n && p (16 * u + k)))

/-- Elements of the input as FP32 (R180), with the units that hold an element of a poisoned block. -/
def Dev.inputVals (d : Dev) (ac : Acc) (x : Rec64) (addr n : Nat) : Mv (List Word × List Bool) :=
  let w := fmtBits (cIn x)
  let src := fieldB x 16 8
  let lo := src + addr * w / 8
  (d.colRead ac lo (ceilDiv (addr * w % 8 + n * w) 8)).bind (fun d r =>
    let el (k : Nat) : Nat :=
      let b := addr * w % 8 + w * k
      bits (leNat ((r.1.drop (b / 8)).take 5)) (b % 8 + w - 1) (b % 8)
    let bad (k : Nat) : Bool := r.2 ((addr * w % 8 + w * k) / 8) || r.2 ((addr * w % 8 + w * k + w - 1) / 8)
    if cScale x = 0 then .ok d ((List.range n).map (fun k => rne32 (decode (cIn x) (el k))), unitsBad n bad)
    else
      let b0 := addr / cBlk x
      (d.colRead ac (scaleBase src x b0) ((addr + n - 1) / cBlk x + 1 - b0)).bind (fun d sc =>
        let sb (k : Nat) : Nat := (addr + k) / cBlk x - b0
        .ok d ((List.range n).map (fun k => rne32 (scaled (cIn x) (cScale x) (el k) (sc.1.getD (sb k) 0).toNat)),
          unitsBad n (fun k => bad k || sc.2 (sb k)))))

/-- The first element of the phase-0 chunk, where SCRATCH begins (R339). -/
def Dev.scratchBase (d : Dev) (x : Rec64) : Nat := ((d.ranges x).getD 1 (0, 0)).1

/-- This member's contribution to a reduce phase. -/
def Dev.mine (d : Dev) (ac : Acc) (x : Rec64) (p : Ph) (addr n : Nat) : Mv (List Word × List Bool) :=
  if p.pos = 0 then d.inputVals ac x addr n
  else
    (d.colRead ac (fieldB x 56 8 + 4 * (addr - d.scratchBase x)) (4 * n)).bind (fun d r =>
      .ok d ((List.range n).map (fun k => BitVec.ofNat 32 (leNat ((r.1.drop (4 * k)).take 4))), unitsBad n (fun k => r.2 (4 * k))))

/-- Two runs added, the first on the left; a unit is poisoned if either was (R180, R341). -/
def addRuns (a b : List Word × List Bool) : List Word × List Bool :=
  ((a.1.zip b.1).map (fun e => add32 e.1 e.2), (List.range a.2.length).map (fun u => a.2.getD u false || b.2.getD u false))

/-- Whether a phase is the last reduce phase. -/
def lastReduce (x : Rec64) (p : Ph) : Bool := p.pos + 1 = (dimsOf x).length

/-- The final sums of a run of this member's chunk: scratch, an arrival, or converted output (R339, R366). -/
def Dev.output (d : Dev) (tag : Tag) (x : Rec64) (p : Ph) (addr : Nat) (r : List Word × List Bool) : Co Unit :=
  let ac := d.colAcc tag
  if !lastReduce x p then
    (d.colWrite ac (fieldB x 56 8 + 4 * (addr - d.scratchBase x)) (r.1.flatMap (bytesOf 4)) (fun k => r.2.getD (k / 64) false)).co
  else if dOp x = 0x701 then
    (d.shards ac (rangeIdx x)).co.bind (fun d ss =>
      let at_ := landAt ((rangeIdx x).zip ss) (addr - (d.owned x).1)
      (d.formArrival ac (cId x) (cOut x) (cSat x) at_.1 at_.2 r.1 r.2).co)
  else
    let w := fmtBits (cOut x)
    (d.colWrite ac (fieldB x 24 8 + addr * w / 8) (packElems w (r.1.map (fun v => (convert (cOut x) (cSat x) (f32 v)).code)))
      (fun k => r.2.getD (8 * k / w / 16) false)).co

/-! ## Reduce phases (R179, R340) -/

/-- A complete running value of a run at this member goes where the phase takes it: output for the own chunk, else onward. A HOPPER packet
names the owner's shard and element (R366, R397), which lie in records of the owner that the manual gives the root no way to read: ADDR is a
free value (log 59). -/
def Dev.deliver (d : Dev) (n : Nat) (tag : Tag) (x : Rec64) (p : Ph) (step addr : Nat) (r : List Word × List Bool) : Co Unit :=
  let i := d.dimIndex p.dim d.addr
  let j := p.chunkOf (cAlign x) addr
  if cTree x then
    if i != 0 then d.sendRun n x p (i - 2 ^ sendLevel p.dim.n i) (sendLevel p.dim.n i) addr r.1 r.2
    else if j = 0 then d.output tag x p addr r
    else if dOp x = 0x701 && lastReduce x p then
      match Tbl.find d.col.slots n with
      | none => .ok d ()
      | some s =>
        let (a, d) := d.takeFresh
        let (b, d) := d.takeFresh
        let pkt := collPkt s p.code 0 0 (d.memberAt p.dim j)
          (fld ((Config.freeWord a).toNat % 65536) 32 + (Config.freeWord b).toNat / 256 * 256) 0 true (wordUnits r.1) r.2
        d.emit n (pkt.put 3 0 7)
    else d.sendRun n x p j 0 addr r.1 r.2
  else if j = i then d.output tag x p addr r
  else d.sendRun n x p (if p.dim.dim = 0 then j else (i + 1) % p.dim.n) step addr r.1 r.2

/-- A run whose contributions wait for each other, folded once all are there: the direct route in ring order ending with the own
one, the tree from the own one through the children by level. -/
def Dev.foldParts (d : Dev) (n : Nat) (tag : Tag) (x : Rec64) (p : Ph) (addr cnt : Nat) : Co Unit :=
  match Tbl.find d.col.slots n with
  | none => .ok d ()
  | some s =>
    let i := d.dimIndex p.dim d.addr
    let order := if cTree x then childrenOf p.dim.n i else (List.range (p.dim.n - 1)).map (fun h => (i + 1 + h) % p.dim.n)
    let got := order.filterMap (fun k => s.parts.find? (fun (q : Part) => q.who = k && q.addr = addr))
    if got.length < order.length then .ok d ()
    else
      (d.mine (d.colAcc tag) x p addr cnt).co.bind (fun d own =>
        let runs := got.map (fun q => (q.vals, q.bad))
        let r := if cTree x then runs.foldl addRuns own
          else match runs ++ [own] with
            | [] => own
            | a :: t => t.foldl addRuns a
        let d := d.modSlot n (fun s => { s with parts := s.parts.filter (fun q => q.addr != addr) })
        d.deliver n tag x p 0 addr r)

/-- A reduce phase begins: what this member can send at once. -/
def Dev.beginReduce (d : Dev) (n : Nat) (tag : Tag) (x : Rec64) (p : Ph) : Co Unit :=
  let i := d.dimIndex p.dim d.addr
  let al := cAlign x
  let run (d : Dev) (j : Nat) (f : Dev → Nat × Nat → Co Unit) : Co Unit := Co.each d f (cutRun (p.chunk al j).1 (p.chunk al j).2 256)
  let own (d : Dev) (e : Nat × Nat) : Co Unit :=
    (d.mine (d.colAcc tag) x p e.1 e.2).co.bind (fun d r => d.deliver n tag x p 0 e.1 r)
  if p.dim.n = 1 then run d 0 (fun d e => (d.mine (d.colAcc tag) x p e.1 e.2).co.bind (fun d r => d.output tag x p e.1 r))
  else if cTree x then
    if (childrenOf p.dim.n i).isEmpty then Co.each d (fun d j => run d j own) (List.range p.dim.n) else .ok d ()
  else if p.dim.dim = 0 then Co.each d (fun d j => if j = i then .ok d () else run d j own) (List.range p.dim.n)
  else run d ((i + p.dim.n - 1) % p.dim.n) own

/-- What a packet brings of what its phase needs: elements, units of a permute, or one packet. -/
def Ph.count (p : Ph) (x : Rec64) (pkt : Packet) : Nat :=
  let al := cAlign x
  let (a, c) := p.chunk al (p.chunkOf al pkt.addr)
  if pkt.type = 7 then 256 else
  match p.kind with
  | .reduce => min 256 (a + c - pkt.addr)
  | .gather =>
    let h := firstHalf al c
    min (copySize x) ((if (cTree x || p.dim.dim = 0) || !(pkt.addr < a + h : Bool) then a + c else a + h) - pkt.addr)
  | .permute => pkt.data.length
  | _ => 1

/-- A REDUCE packet of the phase that runs. In a tree a packet of the root is the final sums of the own
chunk, since the root is no member's child (R340). -/
def Dev.takeReduce (d : Dev) (n : Nat) (tag : Tag) (x : Rec64) (p : Ph) (pkt : Packet) : Co Unit :=
  let addr := pkt.addr
  let cnt := p.count x pkt
  let r := (unitWords pkt cnt, unitBad pkt (ceilDiv cnt 16))
  let who := d.dimIndex p.dim pkt.src
  let part (d : Dev) : Dev := d.modSlot n (fun s => { s with parts := s.parts ++ [⟨who, addr, r.1, r.2⟩] })
  if cTree x then
    if who = 0 then d.output tag x p addr r else (part d).foldParts n tag x p addr cnt
  else if p.dim.dim = 0 then (part d).foldParts n tag x p addr cnt
  else (d.mine (d.colAcc tag) x p addr cnt).co.bind (fun d own => d.deliver n tag x p (pkt.step % 8192 + 1) addr (addRuns r own))

/-! ## Gather phases (R339, R340) -/

/-- Elements sent as COPY packets, read from the output, with their scale bytes after them. -/
def Dev.sendCopy (d : Dev) (n : Nat) (tag : Tag) (x : Rec64) (p : Ph) (j : Nat) (dir : Option Bool) (last : Bool) (i : Nat)
    (e : Nat × Nat) : Co Unit :=
  match Tbl.find d.col.slots n with
  | none => .ok d ()
  | some s =>
    let w := fmtBits (cOut x)
    let ac := d.colAcc tag
    let dst := fieldB x 24 8
    (d.colRead ac (dst + e.1 * w / 8) (ceilDiv (e.2 * w) 8)).co.bind (fun d r =>
      let us := unitsOf r.1
      let bad := (List.range us.length).map (fun u => r.2 (64 * u))
      let send (d : Dev) (data : List Rec64) (bad : List Bool) : Co Unit :=
        d.emit n (collPkt s p.code 0 1 (d.memberAt p.dim j) e.1 (routeBit x p i) last data bad) dir
      if cScale x = 0 || dOp x != 0x602 then send d us bad
      else
        let b0 := e.1 / cBlk x
        (d.colRead ac (scaleBase dst x b0) (ceilDiv e.2 (cBlk x))).co.bind (fun d sc =>
          let ss := unitsOf sc.1
          send d (us ++ ss) (bad ++ (List.range ss.length).map (fun u => (List.range 64).any (fun k => 64 * u + k < sc.1.length && sc.2 (64 * u + k))))))

/-- A run of elements sent to a member. -/
def Dev.sendRange (d : Dev) (n : Nat) (tag : Tag) (x : Rec64) (p : Ph) (j : Nat) (dir : Option Bool) (base len : Nat) : Co Unit :=
  let es := cutRun base len (copySize x)
  Co.each d (fun d k => d.sendCopy n tag x p j dir (k + 1 = es.length) k (es.getD k (0, 0))) (List.range es.length)

/-- A gather phase begins: the own range goes to each member, or round the ring both ways. -/
def Dev.beginGather (d : Dev) (n : Nat) (tag : Tag) (x : Rec64) (p : Ph) : Co Unit :=
  let i := d.dimIndex p.dim d.addr
  let (a, c) := p.chunk (cAlign x) i
  let h := firstHalf (cAlign x) c
  if p.dim.n = 1 then .ok d ()
  else if cTree x || p.dim.dim = 0 then
    Co.each d (fun d j => if j = i then .ok d () else d.sendRange n tag x p j none a c) (List.range p.dim.n)
  else
    (d.sendRange n tag x p ((i + 1) % p.dim.n) (some true) a h).bind (fun d _ =>
      d.sendRange n tag x p ((i + p.dim.n - 1) % p.dim.n) (some false) (a + h) (c - h))

/-- A COPY packet of a gather phase: its bits are placed, and on a ring it goes on until it has reached every member. -/
def Dev.takeCopy (d : Dev) (n : Nat) (tag : Tag) (x : Rec64) (p : Ph) (pkt : Packet) : Co Unit :=
  let i := d.dimIndex p.dim d.addr
  let al := cAlign x
  let owner := p.chunkOf al pkt.addr
  let (a, c) := p.chunk al owner
  let h := firstHalf al c
  let plus := pkt.addr < a + h
  let cnt := p.count x pkt
  let w := fmtBits (cOut x)
  let len := ceilDiv (cnt * w) 8
  let ac := d.colAcc tag
  let dst := fieldB x 24 8
  let bs := pkt.payload
  (d.colWrite ac (dst + pkt.addr * w / 8) ((bs.take len)) (fun k => pkt.bad (k / 64))).co.bind (fun d _ =>
    (if cScale x = 0 || dOp x != 0x602 then .ok d ()
     else (d.colWrite ac (scaleBase dst x (pkt.addr / cBlk x)) ((bs.drop (ceilDiv len 64 * 64)).take (ceilDiv cnt (cBlk x)))
       (fun k => pkt.bad (ceilDiv len 64 + k / 64))).co).bind (fun d _ =>
      let d := d.modSlot n (fun s => { s with placed := s.placed ++ [(owner, cnt)] })
      let next := if plus then (i + 1) % p.dim.n else (i + p.dim.n - 1) % p.dim.n
      if cTree x || p.dim.dim = 0 || next = owner then .ok d ()
      else
        match Tbl.find d.col.slots n with
        | none => .ok d ()
        | some s =>
          d.emit n (collPkt s p.code (pkt.step % 8192 + 1) 1 (d.memberAt p.dim next) pkt.addr (pkt.f 184 184) (pkt.f 15 15 = 1) pkt.data
            (unitBad pkt pkt.data.length)) (some plus)))

/-- ALL_GATHER: the owned range with its scales is copied from SRC to DST (R339). -/
def Dev.copyOwn (d : Dev) (tag : Tag) (x : Rec64) : Co Unit :=
  let (a, c) := d.owned x
  let w := fmtBits (cOut x)
  let src := fieldB x 16 8
  let dst := fieldB x 24 8
  let ac := d.colAcc tag
  let move (d : Dev) (src_ dst_ n : Nat) : Co Unit :=
    if n = 0 then .ok d () else (d.colRead ac src_ n).co.bind (fun d r => (d.colWrite ac dst_ r.1 r.2).co)
  if src = dst || c = 0 then .ok d ()
  else
    (move d (src + a * w / 8) (dst + a * w / 8) (ceilDiv (c * w) 8)).bind (fun d _ =>
      if cScale x = 0 then .ok d ()
      else move d (scaleBase src x (a / cBlk x)) (scaleBase dst x (a / cBlk x)) (ceilDiv c (cBlk x)))

/-! ## Permute (R344) -/

/-- Bytes placed in the receive region; those written twice are undefined. -/
def Dev.placePerm (d : Dev) (n : Nat) (tag : Tag) (x : Rec64) (off : Nat) (bs : List Byte) (bad : Nat → Bool) : Co Unit :=
  let twice := match Tbl.find d.col.slots n with
    | some s => s.placed.any (fun e => e.1 < off + bs.length && off < e.1 + e.2)
    | none => false
  let (i, d) := d.takeFresh
  let bs := if twice then (List.range bs.length).map (fun k => Config.freeByte i (off + k)) else bs
  (d.colWrite (d.colAcc tag) (fieldB x 24 8 + off) bs bad).co.bind (fun d _ =>
    .ok (d.modSlot n (fun s => { s with placed := s.placed ++ [(off, bs.length)] })) ())

/-- One segment of the table: a local copy, or COPY packets to its receiver. A broken entry is LOCAL_FAULT. -/
def Dev.segment (d : Dev) (n : Nat) (tag : Tag) (x : Rec64) (i : Nat) : Co Unit :=
  let ac := d.colAcc tag
  (d.engRead ac 5 (fieldB x 16 8 + 32 * i) 32).co.bind (fun d e =>
    let f (o k : Nat) : Nat := leNat ((e.drop o).take k)
    let src := f 0 8
    let off := f 8 8
    let len := f 16 4
    let who := f 20 2
    if groupSize x ≤ who || f 22 10 != 0 || src % 64 != 0 || off % 64 != 0 || len % 64 != 0 || len = 0 then .stop d 2
    else
      Co.each d (fun d e =>
        (d.colRead ac (src + e.1) e.2).co.bind (fun d r =>
          if who = d.linear x then d.placePerm n tag x (off + e.1) r.1 r.2
          else
            match Tbl.find d.col.slots n with
            | none => .ok d ()
            | some s =>
              let us := unitsOf r.1
              d.emit n (collPkt s 0 0 1 (d.linearAt x who) (off + e.1) 0 (e.1 + e.2 = len) us ((List.range us.length).map (fun u => r.2 (64 * u))))))
        (cutRun 0 len 1024))

/-! ## Winnow and journal reductions (R377, R394) -/

/-- The payload of an upward or downward packet. -/
def foldUnit (x : Rec64) (flags : Nat) (sum : Word) (c : Word) (decision : Nat) (down : Bool) : Rec64 :=
  BitVec.ofNat 512 (if dOp x = 0x703 then
      packB [(0, flags), (4, sum.toNat), (8, fieldB x 16 8), (16, if down then c.toNat else fieldB x 28 4), (20, if down then decision else 0)]
    else packB [(0, flags), (4, fieldB x 24 4)])

/-- The OP of an upward packet; the downward one is one more (R397). -/
def upOp (x : Rec64) : Nat := if dOp x = 0x703 then 0x80 else 0x82

/-- A value received is joined to a running one: FLAGS by OR, sums by addition with the received one on the given side, and
PARAM_MISMATCH where STEP or CLIP_MAX differ (R376, R377). -/
def received (x : Rec64) (u : Rec64) : Nat × Word :=
  let flags := fieldB u 0 4
  if dOp x = 0x703 then
    (if fieldB u 8 8 != fieldB x 16 8 || fieldB u 16 4 != fieldB x 28 4 then flags ||| 8 else flags, BitVec.ofNat 32 (fieldB u 4 4))
  else (flags, 0)

/-- This member's line value goes up: to the next member of the ring, or to its parent. -/
def Dev.sendUp (d : Dev) (n : Nat) (x : Rec64) (p : Ph) : Co Unit :=
  match Tbl.find d.col.slots n with
  | none => .ok d ()
  | some s =>
    let i := d.dimIndex p.dim d.addr
    if i = 0 || p.dim.n = 1 then .ok d ()
    else
      let (next, step) := if cTree x then (i - 2 ^ sendLevel p.dim.n i, sendLevel p.dim.n i) else ((i + 1) % p.dim.n, i - 1)
      d.emit n (collPkt s p.code step (upOp x) (d.memberAt p.dim next) 0 0 true [foldUnit x s.flags s.sum 0 0 false] [])

/-- The parts of a line folded once all are there. -/
def Dev.foldLine (d : Dev) (n : Nat) (x : Rec64) (p : Ph) : Co Unit :=
  match Tbl.find d.col.slots n with
  | none => .ok d ()
  | some s =>
    let i := d.dimIndex p.dim d.addr
    let order := if cTree x then childrenOf p.dim.n i else [(i + p.dim.n - 1) % p.dim.n]
    let got := order.filterMap (fun k => s.parts.find? (fun (q : Part) => q.who = k))
    if got.length < order.length then .ok d ()
    else
      let add (a b : Word) : Word := if dOp x = 0x703 then add32 a b else 0
      let flags := got.foldl (fun m q => m ||| q.addr) s.flags
      let sum := if cTree x then got.foldl (fun v q => add v (q.vals.headD 0)) s.sum
        else match got with
          | q :: _ => add (q.vals.headD 0) s.sum
          | [] => s.sum
      (d.modSlot n (fun s => { s with flags := flags, sum := sum, parts := [] })).sendUp n x p

/-- An upward phase begins: the first of the ring and the leaves of the tree send at once. -/
def Dev.beginUp (d : Dev) (n : Nat) (x : Rec64) (p : Ph) : Co Unit := if d.needOf x p = 0 then d.sendUp n x p else .ok d ()

/-- The RESULT of a decision (R363). -/
def decisionResult (decision flags : Nat) : Word := BitVec.ofNat 32 (decision + fld (flags % 2 ^ 24) 8)

/-- A decision taken up by a member: its step record DECIDED, health, WINNOW_SKIP (R377, R383, R398). -/
def Dev.takeDecision (d : Dev) (n : Nat) (tag : Tag) (x : Rec64) (decision flags : Nat) (s c : Word) : Co Unit :=
  let ac := d.colAcc tag
  let root := d.linear x = 0
  (d.putStep ac (fieldB x 16 8) (decidedBytes (fieldB x 16 8) decision root flags s c (cId x) d.lt)).co.bind (fun d _ =>
    (d.shards ac (rangeIdx x)).co.bind (fun d ss =>
      let d := d.evalGroups ss
      let d := if decision = 0 then d.postUpd 0x8002 (packB [(0, fieldB x 16 8), (8, flags), (12, d.linearAt x 0)]) else d
      .ok (d.modSlot n (fun t => { t with flags := flags, sum := s, need := 0, placed := [(decision, flags)] })) ()))

/-- A journal's outcome taken up: DONE advances unless the flag is set (R394). -/
def Dev.takeDone (d : Dev) (n : Nat) (tag : Tag) (x : Rec64) (flags : Nat) : Co Unit :=
  let ac := d.colAcc tag
  let j := fieldB x 16 8
  let keep (d : Dev) : Dev := d.modSlot n (fun t => { t with flags := flags, need := 0 })
  if flags != 0 then .ok (keep d) ()
  else
    (d.engRead ac 6 j 64).co.bind (fun d bs =>
      (d.putSector ac j (patch bs 12 (natLe 4 (fieldB x 24 4 + 1)))).co.bind (fun d _ => .ok (keep d) ()))

/-- The downward phase begins: the root decides, writes, and only then broadcasts. -/
def Dev.beginDown (d : Dev) (n : Nat) (tag : Tag) (x : Rec64) (p : Ph) : Co Unit :=
  match Tbl.find d.col.slots n with
  | none => .ok d ()
  | some s =>
    if d.linear x != 0 then .ok d ()
    else
      let (decision, flags, c) := if dOp x = 0x703 then decide32 s.flags s.sum (BitVec.ofNat 32 (fieldB x 28 4)) else (0, s.flags, 0)
      (if dOp x = 0x703 then d.takeDecision n tag x decision flags s.sum c else d.takeDone n tag x flags).bind (fun d _ =>
        Co.each d (fun d a =>
          d.emit n (collPkt s p.code 0 (upOp x + 1) a 0 0 true [foldUnit x flags s.sum c decision true] [])) (d.others x))

/-- A packet of a Winnow or journal reduction. -/
def Dev.takeFold (d : Dev) (n : Nat) (tag : Tag) (x : Rec64) (p : Ph) (pkt : Packet) : Co Unit :=
  let u := pkt.data.getD 0 0
  match p.kind with
  | .down =>
    if dOp x = 0x703 then
      d.takeDecision n tag x (fieldB u 20 1) (fieldB u 0 4) (BitVec.ofNat 32 (fieldB u 4 4)) (BitVec.ofNat 32 (fieldB u 16 4))
    else d.takeDone n tag x (fieldB u 0 4)
  | _ =>
    let r := received x u
    (d.modSlot n (fun s => { s with parts := s.parts ++ [⟨d.dimIndex p.dim pkt.src, r.1, [r.2], []⟩] })).foldLine n x p

/-! ## Phases one after another -/

/-- A phase begins. -/
def Dev.beginPhase (d : Dev) (n : Nat) (tag : Tag) (x : Rec64) (p : Ph) : Co Unit :=
  match p.kind with
  | .reduce => d.beginReduce n tag x p
  | .gather => d.beginGather n tag x p
  | .permute => Co.each d (fun d i => d.segment n tag x i) (List.range (cElems x))
  | .up => d.beginUp n x p
  | .down => d.beginDown n tag x p

/-- What a packet of the phase that runs brings is taken up. A HOPPER packet brings 256 sums of a shard of this member (R366, R367). -/
def Dev.takePkt (d : Dev) (n : Nat) (tag : Tag) (x : Rec64) (p : Ph) (pkt : Packet) : Co Unit :=
  if pkt.type = 7 then
    (d.formArrival (d.colAcc tag) (cId x) (cOut x) (cSat x) (bits pkt.addr 47 32) (pkt.addr % 2 ^ 32) (unitWords pkt 256) (unitBad pkt 16)).co
  else
  match p.kind with
  | .reduce => d.takeReduce n tag x p pkt
  | .gather => d.takeCopy n tag x p pkt
  | .permute => d.placePerm n tag x pkt.addr pkt.payload (fun k => pkt.bad (k / 64))
  | .up => d.takeFold n tag x p pkt
  | .down => d.takeFold n tag x p pkt

/-- A packet consumed (R343): what it brought is taken off what the phase needs, and the peer's throttle bit is noted (R346, R350). -/
def Dev.consumePkt (d : Dev) (n : Nat) (tag : Tag) (x : Rec64) (p : Ph) (pkt : Packet) : Co Unit :=
  let got := p.count x pkt
  ((d.modSlot n (fun s => { s with
    need := s.need - got
    act := d.lt
    thr := if pkt.f 6 6 = 1 then (if s.thr.contains pkt.src then s.thr else s.thr ++ [pkt.src]) else s.thr.filter (fun a => a != pkt.src) })).markLast n tag x).takePkt
    n tag x p pkt

/-- The token of a collective signalled with COUNT 1; one that would overflow parks the context (R114). -/
def Dev.colSignal (d : Dev) (x : Rec64) : Option Dev :=
  if bitOf (fieldB x 48 1) 7 then d.signal (coreAt (bits (fieldB x 48 1) 6 0) 0) true (bits (fieldB x 49 1) 5 0) 1 else some d

/-- A packet of a slot is still in a port's queue, not yet taken up by the port for sending (R314, R345). -/
def Slot.unsent (s : Slot) (d : Dev) (p : Port → Bool) : Bool :=
  d.fab.ports.any (fun e => p e.2 && e.2.tx.any (fun q =>
    (q.type = 6 || q.type = 7) && q.src = d.addr && q.flow / 2 = s.job && q.collId = s.id))

/-- Whether a slot's work is over but for its token: every phase is done, no packet of it waits in a port, and no arrival of it waits for a
Hopper. -/
def Dev.colDone (d : Dev) (x : Rec64) (s : Slot) : Bool :=
  (d.phases x).length < s.k && !s.unsent d (fun _ => true) && (dOp x != 0x701 || !d.upd.formed.any (fun f => f.arr.coll = s.id))

/-- Bytes of memory that the manual leaves undefined become free bytes where they can be written (R339, R348). -/
def Dev.smear (d : Dev) (ac : Acc) (iova n : Nat) : Dev :=
  let (i, d) := d.takeFresh
  (blockPieces iova n).foldl (fun d p =>
    let a := 64 * p.1 + p.2.1
    match d.writeRange ac a ((List.range p.2.2.2).map (fun k => Config.freeByte i (a + k))) with
    | .ok d _ => d
    | _ => d) d

/-- The RESULT of a finished collective (R339, R363, R394). -/
def Dev.colResult (d : Dev) (x : Rec64) (s : Slot) : Word :=
  match dOp x with
  | 0x703 => let e := s.placed.headD (0, 0); decisionResult e.1 e.2
  | 0x70A => if s.flags = 0 then BitVec.ofNat 32 (fld (min (fieldB x 24 4 + 1) 0xFFFFFF) 8) else 10
  | 0x602 => 0
  | 0x603 => 0
  | _ => BitVec.ofNat 32 (d.owned x).1

/-- The work of a slot is over: its descriptor's record is still to be written, and the slot is held until then (R345). -/
def Dev.colFinish (d : Dev) (n : Nat) (tag : Tag) (x : Rec64) (s : Slot) : Dev :=
  let d := if dOp x = 0x601 then
      let w := fmtBits (cOut x)
      let (a, c) := d.owned x
      let ac := d.colAcc tag
      let dst := fieldB x 24 8
      let hi := ceilDiv ((a + c) * w) 8
      (d.smear ac dst (a * w / 8)).smear ac (dst + hi) (ceilDiv (cElems x * w) 8 - hi)
    else d
  (d.modSlot n (fun s => { s with isOver := true })).finishWork tag 0 (d.colResult x s)

/-- The packets that came early for the phase that runs, consumed in the order in which they came, as long as no full Hopper holds the
collective back (R343, R368). -/
def Dev.takeLater (n : Nat) (tag : Tag) (x : Rec64) (p : Ph) : Nat → Dev → Co Unit
  | 0, d => .ok d ()
  | fuel + 1, d =>
    match Tbl.find d.col.slots n with
    | none => .ok d ()
    | some s =>
      match s.later.find? (fun q => q.step / 8192 = p.code) with
      | none => .ok d ()
      | some q =>
        if dOp x = 0x701 && d.hopHeld s.id then .ok d ()
        else
          ((d.modSlot n (fun s => { s with later := s.later.erase q })).consumePkt n tag x p q).bind (fun d _ => Dev.takeLater n tag x p fuel d)

/-- A phase of a slot begins, with the packets that came early for it. -/
def Dev.enterPhase (d : Dev) (n : Nat) (tag : Tag) (x : Rec64) (s : Slot) (p : Ph) : Co Unit :=
  let d := d.modSlot n (fun s => { s with
    k := s.k + 1
    need := d.needOf x p
    parts := []
    placed := if p.kind = .permute then s.placed else [] })
  ((d.markLast n tag x).beginPhase n tag x p).bind (fun d _ => Dev.takeLater n tag x p s.later.length d)

/-- A slot moves on: packets that a full Hopper held back are consumed, phases that need nothing more end, signal where PHASE_SIG asks for
it, and the next begins; after the last, the token is signalled and the work is over. -/
def Dev.advanceSlot (tag : Tag) (x : Rec64) (n : Nat) : Nat → Dev → Co Unit
  | 0, d => .ok d ()
  | fuel + 1, d =>
    match Tbl.find d.col.slots n with
    | none => .ok d ()
    | some s =>
      let ps := d.phases x
      if s.k = 0 || s.isOver then .ok d ()
      else if s.need != 0 then
        match ps[s.k - 1]? with
        | none => .ok d ()
        | some p =>
          if !s.later.any (fun q => q.step / 8192 = p.code) || (dOp x = 0x701 && d.hopHeld s.id) then .ok d ()
          else (Dev.takeLater n tag x p s.later.length d).bind (fun d _ => Dev.advanceSlot tag x n fuel d)
      else if ps.length < s.k then
        let d := if s.lastIn then d else (d.modSlot n (fun s => { s with lastIn := true })).lastInput tag d.lt
        if d.colDone x s then
          match d.colSignal x with
          | none => .ok (match d.work tag with | some w => d.parkWork tag w 4 none | none => d) ()
          | some d => .ok (d.colFinish n tag x s) ()
        else .ok d ()
      else
        let sig := bitOf (fieldB x 39 1) 6 && s.k < ps.length && dOp x < 0x703
        match (if sig then d.colSignal x else some d) with
        | none => .ok (match d.work tag with | some w => d.parkWork tag w 4 none | none => d) ()
        | some d =>
          match ps[s.k]? with
          | none => Dev.advanceSlot tag x n fuel (d.modSlot n (fun s => { s with k := s.k + 1 }))
          | some p => (d.enterPhase n tag x s p).bind (fun d _ => Dev.advanceSlot tag x n fuel d)

/-! ## What the engine waits for (R346) -/

/-- The awaited peer of a slot (R346): the ring's predecessor, the lowest member a direct fold or gather lacks, the child at the level a
tree has reached. A permute names its lowest other member (log 22). -/
def Dev.awaited (d : Dev) (x : Rec64) (s : Slot) : Option Nat :=
  match d.phaseOf x s with
  | none => none
  | some p =>
    let n := p.dim.n
    let i := d.dimIndex p.dim d.addr
    let al := cAlign x
    if s.need = 0 then none
    else
      match p.kind with
      | .permute => (d.others x).head?
      | .down => some (d.linearAt x 0)
      | .up =>
        let order := if cTree x then childrenOf n i else [(i + n - 1) % n]
        (order.find? (fun k => !s.parts.any (fun q => q.who = k))).map (d.memberAt p.dim)
      | .gather =>
        if cTree x || p.dim.dim = 0 then
          ((List.range n).find? (fun j => j != i && ((s.placed.filter (fun e => e.1 = j)).map (·.2)).sum < (p.chunk al j).2)).map (d.memberAt p.dim)
        else some (d.memberAt p.dim ((i + n - 1) % n))
      | .reduce =>
        if cTree x then
          let kids := childrenOf n i
          let total := kids.length * p.len
          let got := d.needOf x p - s.need
          if total ≤ got then some (d.memberAt p.dim 0)
          else
            let next := p.base + (got - ((s.parts.map (fun q => q.vals.length)).sum)) / max 1 kids.length
            (kids.find? (fun k => !s.parts.any (fun q => q.who = k && q.addr = next))).map (d.memberAt p.dim)
        else if p.dim.dim = 0 then
          let got := d.needOf x p - s.need - (s.parts.map (fun q => q.vals.length)).sum
          let next := (p.chunk al i).1 + got / (n - 1)
          ((List.range n).find? (fun j => j != i && !s.parts.any (fun q => q.who = j && q.addr = next))).map (d.memberAt p.dim)
        else some (d.memberAt p.dim ((i + n - 1) % n))

/-- A slot's phase of R342. -/
def Dev.phaseCode (d : Dev) (x : Rec64) (s : Slot) : Nat := match d.phaseOf x s with | some p => p.code % 8 | none => 0

/-- STEP of a slot (R355): the ring step its next packet belongs to, the tree level of the peer it awaits, otherwise 0 (log 31). -/
def Dev.slotStep (d : Dev) (x : Rec64) (s : Slot) : Nat :=
  match d.phaseOf x s, d.awaited x s with
  | some p, some a =>
    let n := p.dim.n
    let i := d.dimIndex p.dim d.addr
    if cTree x then sendLevel n (if d.dimIndex p.dim a = 0 then i else d.dimIndex p.dim a)
    else if p.kind = .up || p.kind = .down || p.dim.dim = 0 || p.kind = .permute then 0
    else
      let got := d.needOf x p - s.need
      let len (j : Nat) : Nat := (p.chunk (cAlign x) (j % n)).2
      let half (j : Nat) : Nat := firstHalf (cAlign x) (len j)
      let at_ (t : Nat) : Nat :=
        if p.kind = .reduce then len (i + 2 * n - 2 - t) else half (i + 2 * n - 1 - t) + (len (i + 1 + t) - half (i + 1 + t))
      ((List.range (n - 1)).filter (fun k => ((List.range (k + 1)).map at_).sum ≤ got)).length
  | _, _ => 0

/-! ## Abort (R347 to R349) -/

/-- The bytes that are undefined after an abort: SCRATCH, DST, and so SRC where it is DST (R348). -/
def Dev.abortSmear (d : Dev) (tag : Tag) (x : Rec64) (s : Slot) : Dev :=
  let ac := d.colAcc tag
  let op := dOp x
  let w := fmtBits (cOut x)
  let d := if (op = 0x600 || op = 0x601) && fieldB x 16 8 = fieldB x 24 8 then
      d.smear ac (fieldB x 16 8) (if cScale x = 0 then ceilDiv (cElems x * fmtBits (cIn x)) 8 else scaleBase 0 x (ceilDiv (cElems x) (cBlk x)))
    else d
  let d := if op = 0x600 || op = 0x601 || op = 0x701 then
      (if fieldB x 56 8 = 0 then d else d.smear ac (fieldB x 56 8) (4 * ((d.ranges x).getD 1 (0, 0)).2))
    else d
  match op with
  | 0x600 => d.smear ac (fieldB x 24 8) (ceilDiv (cElems x * w) 8)
  | 0x601 => d.smear ac (fieldB x 24 8) (ceilDiv (cElems x * w) 8)
  | 0x602 =>
    d.smear ac (fieldB x 24 8) (if cScale x = 0 then ceilDiv (cElems x * w) 8
      else scaleBase 0 x (ceilDiv (cElems x) (cBlk x)))
  | 0x603 => (s.placed ++ [(0, 64 * fieldB x 52 4)]).foldl (fun (d : Dev) (e : Nat × Nat) => d.smear ac (fieldB x 24 8 + e.1) e.2) d
  | _ => d

/-- The local completion of a cause. -/
def abortStatus (cause : Nat) : Nat := if cause = 1 then 6 else if cause = 7 then 8 else if cause = 8 then 9 else 11

/-- A collective aborted as a whole (R347, R348). The detail of a reset or retirement cause is given. -/
def Dev.abortNow (d : Dev) (tag : Tag) (cause first detail : Nat) (send : Bool) : Dev :=
  match d.slotOf tag, d.work tag with
  | some (n, s), some w =>
    let x := w.desc
    if s.isOver then d
    else
      let d := if send then d.sendAborts x s cause else d
      let d := d.postCtx s.ctx 0x7001 (packB [(0, s.id), (4, (dId x).toNat), (8, cause), (12, first), (16, d.phaseCode x s), (18, d.slotStep x s)])
      let d := if dOp x = 0x701 then
          let d := d.gr.cores.foldl (fun d e =>
            let gone := e.2.hopper.filter (fun a => a.coll = s.id)
            if gone.isEmpty then d
            else (d.discardArrivals e.1 gone).modCore e.1 (fun k => { k with hopper := k.hopper.filter (fun a => a.coll != s.id) })) d
          let gone := d.upd.formed.filter (fun f => f.arr.coll = s.id)
          let d := ((gone.map (·.core)).eraseDups).foldl (fun d c => d.discardArrivals c ((gone.filter (fun f => f.core = c)).map (·.arr))) d
          { d with upd := { d.upd with formed := d.upd.formed.filter (fun f => f.arr.coll != s.id) } }
        else d
      let d := if dOp x = 0x703 && s.placed.isEmpty then
          match d.putStep (d.colAcc tag) (fieldB x 16 8) (natLe 64 (packB [(0, fieldB x 16 8), (8, 3)])) with
          | .ok d _ => d
          | _ => d
        else d
      let d := d.abortSmear tag x s
      let d := if cause ≤ 2 then d.modWork tag (fun w => w.blame 1 3 d.lt)
        else if 7 ≤ cause then d.modWork tag (fun w => w.blame (cause - 4) detail d.lt)
        else d
      let d := d.lastInput tag d.lt
      (d.modSlot n (fun s => { s with isOver := true, cause := cause, parts := [], later := [], lastIn := true })).finishWork tag (abortStatus cause) 0
  | _, _ => d

/-- A cause of R347 acted on. After the last peer input causes 3 to 6 are not, but cause 6 still sends ABORT, and a retirement leaves the
collective to complete from its local data (R438). -/
def Dev.abortColl (d : Dev) (tag : Tag) (cause first detail : Nat) (send : Bool) : Dev :=
  match d.slotOf tag with
  | some (n, s) =>
    if !s.isOver && s.lastIn && (cause = 8 || (3 ≤ cause && cause ≤ 6)) then (if cause = 6 && send then d.warnAll n s else d)
    else d.abortNow tag cause first detail send
  | none => d

/-- What work on a slot came to: none where it must wait. One that reached a retired channel aborts (R436). -/
def Dev.colResolve (tag : Tag) (m : Co Unit) : Option Dev :=
  match m with
  | .ok d _ =>
    match d.work tag with
    | some w => some (if w.marked then d.abortColl tag 8 d.addr 4 true else d)
    | none => some d
  | .stop d c => some (d.abortColl tag c d.addr 0 true)
  | .wait => none

/-- A slot moved on as far as it can; it stays where it was when it must wait. -/
def Dev.runSlot (d : Dev) (n : Nat) (tag : Tag) : Dev :=
  match d.work tag with
  | none => d
  | some w => (Dev.colResolve tag (Dev.advanceSlot tag w.desc n 12 d)).getD d

/-- Every slot moved on, after something it may wait for has come about. -/
def Dev.runSlots (d : Dev) : Dev := d.col.slots.foldl (fun d e => d.runSlot e.1 e.2.tag) d

/-! ## Arming (R343, R345, R366) -/

/-- The slot of a dispatched collective armed: packets and abort markers that came early are its own (R343). A member without peer
input takes its dispatch LT (R345). -/
def Dev.armSlot (d : Dev) (n : Nat) (tag : Tag) (w : Work) : Dev :=
  let x := w.desc
  let job := ((d.ctx w.ctx).job).getD 0
  let id := cId x
  let mine (p : Packet) : Bool := p.flow / 2 = job && p.collId = id
  let early := d.col.early.filter mine
  let left := d.col.early.filter (fun p => !mine p)
  let marks := d.col.markers.filter (fun m => m.1 = job && m.2.1 = id)
  let told := d.col.earlyTold && 8192 ≤ (left.map (·.len)).sum
  let newest := match Tbl.find d.col.armed job with | some a => if newer16 id a then id else a | none => id
  let d := { d with
    col := { d.col with
      early := left
      earlyTold := told
      markers := d.col.markers.filter (fun m => !(m.1 = job && m.2.1 = id))
      armed := Tbl.put d.col.armed job newest }
    upd := { d.upd with told := d.upd.told.filter (fun e => e.1 != id) } }
  let d := d.setSlot n ⟨tag, w.ctx, job, id, 0, 0, [], early, 0, 0, [], false, false, d.lt, [], [], 0, false⟩
  let d := if (dimsOf x).all (fun m => m.n = 1) then (d.modSlot n (fun s => { s with lastIn := true })).lastInput tag d.lt else d
  match marks with
  | m :: _ => d.abortColl tag 3 m.2.2.1 0 true
  | [] => d

/-- The checks of RS_UPDATE at dispatch (R366). -/
def Dev.rsChecked (d : Dev) (tag : Tag) (w : Work) : Co Unit :=
  let x := w.desc
  (d.shards (d.colAcc tag) (rangeIdx x)).co.bind (fun d ss =>
    let ok := (d.owned x).2 = (ss.map (·.elems)).sum
      && ss.all (fun s => s.role = 1 && s.flag 0 && s.core < 1296 && d.coreGood s.core && bitOf (d.ctx w.ctx).mask.toNat (clusterOf s.core))
    if ok then .ok d () else .stop d 2)

/-- What a WINNOW finds at its start: its local FLAGS and sum, or a step already decided (R377, R379). -/
def Dev.winnowStart (d : Dev) (n : Nat) (tag : Tag) (x : Rec64) : Co Unit :=
  let ac := d.colAcc tag
  (d.stepRec ac (fieldB x 16 8)).co.bind (fun d r =>
    (d.shards ac (rangeIdx x)).co.bind (fun d ss =>
      if r.is 2 (fieldB x 16 8) then
        let d := d.evalGroups ss
        .ok (d.modSlot n (fun s => { s with placed := [(r.f 9 1, r.f 12 4)], k := (d.phases x).length + 1, need := 0 })) ()
      else .ok (d.modSlot n (fun s => { s with flags := localFlags ss (bitOf (fieldB x 38 1) 0), sum := sumLeft (ss.map (·.ssq)) })) ()))

/-- What a JOURNAL_ADVANCE does first: entry k's DST range written back, then its flag (R394). -/
def Dev.journalStart (d : Dev) (n : Nat) (tag : Tag) (x : Rec64) : Co Unit :=
  let ac := d.colAcc tag
  let j := fieldB x 16 8
  let k := fieldB x 24 4
  (d.engRead ac 6 j 64).co.bind (fun d h =>
    (d.engRead ac 6 (j + 64 + 64 * k) 64).co.bind (fun d e =>
      (d.flushRange ac (jField e 0 8) (jField e 8 8)).co.bind (fun d _ =>
        .ok (d.modSlot n (fun s => { s with flags := b2n (bitOf (fieldB x 28 1) 0 || k != jField h 12 4) })) ())))

/-- The phases a slot runs after its start: from the first one on. -/
def Dev.colStart (d : Dev) (n : Nat) (tag : Tag) (w : Work) : Co Unit :=
  let x := w.desc
  (match dOp x with
    | 0x602 => d.copyOwn tag x
    | 0x701 => d.rsChecked tag w
    | 0x703 => d.winnowStart n tag x
    | 0x70A => d.journalStart n tag x
    | _ => .ok d ()).bind (fun d _ =>
    match Tbl.find d.col.slots n with
    | none => .ok d ()
    | some s =>
      if s.k != 0 then Dev.advanceSlot tag x n 12 d
      else
        match (d.phases x)[0]? with
        | none => .ok d ()
        | some (p : Ph) => (d.enterPhase n tag x s p).bind (fun d _ => Dev.advanceSlot tag x n 12 d))

/-- A collective opcode command: a dispatched collective begins, or one that stopped short of its end goes on. -/
def Dev.colOp (d : Dev) (tag : Tag) (op : Nat) : Dev :=
  match d.running tag op, d.slotOf tag with
  | some w, some (n, s) =>
    if s.isOver then d
    else if s.k = 0 then (Dev.colResolve tag (d.colStart n tag w)).getD d
    else d.runSlot n tag
  | _, _ => d

/-- ALL_REDUCE (R339). -/
def execAllReduce (tag : Tag) (s : State) : Host.Outcome State Fault Refusal := s.onDev (fun d => d.colOp tag 0x600)
/-- REDUCE_SCATTER (R339). -/
def execReduceScatter (tag : Tag) (s : State) : Host.Outcome State Fault Refusal := s.onDev (fun d => d.colOp tag 0x601)
/-- ALL_GATHER (R339). -/
def execAllGather (tag : Tag) (s : State) : Host.Outcome State Fault Refusal := s.onDev (fun d => d.colOp tag 0x602)
/-- PERMUTE (R344). -/
def execPermute (tag : Tag) (s : State) : Host.Outcome State Fault Refusal := s.onDev (fun d => d.colOp tag 0x603)
/-- RS_UPDATE (R366). -/
def execRsUpdate (tag : Tag) (s : State) : Host.Outcome State Fault Refusal := s.onDev (fun d => d.colOp tag 0x701)
/-- WINNOW (R377). -/
def execWinnow (tag : Tag) (s : State) : Host.Outcome State Fault Refusal := s.onDev (fun d => d.colOp tag 0x703)
/-- JOURNAL_ADVANCE (R394). -/
def execJournalAdvance (tag : Tag) (s : State) : Host.Outcome State Fault Refusal := s.onDev (fun d => d.colOp tag 0x70A)

/-! ## Packets that arrive (R320, R343) -/

/-- The context that holds a JOB. -/
def Dev.jobCtx (d : Dev) (job : Nat) : Option CtxId :=
  d.hq.ctxs.findSome? (fun e => if h : e.1 < 256 then (if e.2.job = some job then some ⟨e.1, h⟩ else none) else none)

/-- The armed slot a packet matches. -/
def Dev.slotFor (d : Dev) (pkt : Packet) : Option (Nat × Slot) :=
  d.col.slots.find? (fun e => e.2.job = pkt.flow / 2 && e.2.id = pkt.collId && !e.2.isOver)

/-- The sequence check of an ordered flow (R320): accepted, a duplicate, or a gap. -/
def Dev.flowCheck (d : Dev) (pkt : Packet) : Ordering :=
  let want := Tbl.get d.fab.rxFlow (flowKey pkt.src pkt.vc pkt.flow) 0
  if pkt.seq = want then .eq else if newer pkt.seq want then .gt else .lt

/-- The expected value of a flow moves on. -/
def Dev.flowStep (d : Dev) (pkt : Packet) : Dev :=
  { d with fab := { d.fab with rxFlow := Tbl.set d.fab.rxFlow (flowKey pkt.src pkt.vc pkt.flow) (pkt.seq + 1) 0 } }

/-- A FLOW_GAP posted and counted, and the flow's collective aborted. -/
def Dev.flowGap (d : Dev) (pkt : Packet) : Dev :=
  let want := Tbl.get d.fab.rxFlow (flowKey pkt.src pkt.vc pkt.flow) 0
  let pay := packB [(0, pkt.src), (4, pkt.vc), (5, pkt.flow), (8, want.toNat), (12, pkt.seq.toNat)]
  let d := d.bump fabSet 3 1
  let d := match d.jobCtx (pkt.flow / 2) with
    | some c => d.postCtx c 0x6007 pay
    | none => d.post 0x6007 pay
  match d.slotFor pkt with
  | some (_, s) => d.abortColl s.tag 5 d.addr 0 true
  | none => d

/-- A packet is newer than every COLL_ID armed for its JOB (R343). -/
def Dev.isEarly (d : Dev) (pkt : Packet) : Bool :=
  match Tbl.find d.col.armed (pkt.flow / 2) with
  | some a => newer16 pkt.collId a
  | none => true

/-- A packet that no armed slot takes: held early or as an abort marker, held back in its port while there is no room, or stale. -/
def Dev.earlyOrStale (d : Dev) (pkt : Packet) : Option Dev :=
  if !d.isEarly pkt then some ((d.flowStep pkt).bump colSet 2 1)
  else if pkt.op = 2 then
    if 64 ≤ d.col.markers.length then none
    else
      let d := (d.flowStep pkt).bump colSet 3 1
      some { d with col := { d.col with markers := d.col.markers ++ [(pkt.flow / 2, pkt.collId, pkt.src, pkt.addr % 256)] } }
  else if 16384 < (d.col.early.map (·.len)).sum + pkt.len then none
  else
    let d := (d.flowStep pkt).bump colSet 3 1
    some { d with col := { d.col with early := d.col.early ++ [pkt] } }

/-- COLL_EARLY_FULL posted once while the early store is full. -/
def Dev.earlyFull (d : Dev) : Dev :=
  if d.col.earlyTold then d
  else
    let job := match d.col.early with | p :: _ => p.flow / 2 | [] => 0
    ({ d with col := { d.col with earlyTold := true } } : Dev).post 0x7003 (packB [(0, job), (2, (d.col.early.map (·.len)).sum)])

/-- A packet for an armed slot: of the phase that runs, of a later one, or of one that is past. All are consumed (R343), but none while a
full Hopper holds the collective back (R368). A HOPPER packet belongs to the last phase of an RS_UPDATE. -/
def Dev.intoSlot (d : Dev) (n : Nat) (s : Slot) (pkt : Packet) : Option Dev :=
  match d.work s.tag with
  | none => none
  | some w =>
    let x := w.desc
    let ps := d.phases x
    let fits (p : Ph) : Bool := p.code = pkt.step / 8192 && (pkt.type != 7 || (dOp x = 0x701 && lastReduce x p))
    match (List.range ps.length).find? (fun i => match ps[i]? with | some p => fits p | none => false) with
    | none => some (d.bump colSet 2 1)
    | some i =>
      if i + 1 < s.k then some (d.bump colSet 2 1)
      else if dOp x = 0x701 && d.hopHeld s.id then none
      else if s.k < i + 1 then some (d.modSlot n (fun s => { s with later := s.later ++ [pkt], act := d.lt }))
      else
        match ps[i]? with
        | none => none
        | some p => Dev.colResolve s.tag ((d.consumePkt n s.tag x p pkt).bind (fun d _ => Dev.advanceSlot s.tag x n 12 d))

/-- A collective packet at its member (R320, R343); none while it must stay in its port. -/
def Dev.collArrives (d : Dev) (pkt : Packet) (take : Dev → Nat → Slot → Option Dev) : Option Dev :=
  match d.flowCheck pkt with
  | .lt => some (d.bump fabSet 2 1)
  | .gt => some (d.flowGap pkt)
  | .eq =>
    match d.slotFor pkt with
    | none => d.earlyOrStale pkt
    | some (n, s) => (take d n s).map (fun d => d.flowStep pkt)

/-- COL_PEER_TIMEOUT has passed on a slot with no packet consumed or sent (R347). -/
def Dev.peerTimeout (d : Dev) (n : Nat) : Dev :=
  match Tbl.find d.col.slots n with
  | none => d
  | some s =>
    if !s.isOver && !s.lastIn && s.act + 100000 * bits (d.reg 0x140004).toNat 15 0 ≤ d.lt then d.abortColl s.tag 4 d.addr 0 true else d

/-- PEER_TIMEOUT (R347). -/
def execPeerTimeout (slot : Fin 16) (s : State) : Host.Outcome State Fault Refusal := s.onDev (fun d => d.peerTimeout slot)

/-- COL_CTX_JOB (R342): refused while another context holds the JOB. -/
def Dev.writeJob (d : Dev) (c : CtxId) (val : Word) : Dev :=
  let v := val.toNat
  let taken := bitOf v 8 && (d.hq.ctxs.any (fun e => e.1 != c.val && e.2.job = some (bits v 6 0))
    || (List.range 256).any (fun k => k != c.val && bitOf (d.reg (offColJob k)).toNat 8 && bits (d.reg (offColJob k)).toNat 6 0 = bits v 6 0))
  if taken then { d with col := { d.col with cfgCtx := c.val, cfgResult := 1 } }
  else d.setReg (offColJob c) (BitVec.ofNat 32 (v % 128 + fld (bits v 8 8) 8))

/-- COL_CTX_JOB (R342). -/
def execColCtxJob (c : CtxId) (val : Word) (s : State) : Host.Outcome State Fault Refusal := s.onDev (fun d => d.atReg .pcie (offColJob c) (fun d => d.writeJob c val))

/-! ## Waiting (R350) -/

/-- A slot waits only on a peer's packet or a peer's credits (R345, R350, R370). -/
def Dev.waitsPeer (d : Dev) (s : Slot) : Bool :=
  s.k != 0 && !s.isOver && !d.hopHeld s.id && ((!s.lastIn && s.need != 0) || s.unsent d (fun x => x.state = .up))

end Sys2Proof.Machine
end

