-- ==== Sys2Proof/Machine/Launch.lean ====
section
/-!
DEFINITION. Sys2Proof/Machine/Launch.lean: the bundle check and the start of a LAUNCH (R97 to R103), pre-emption and restore
(R72, R73, R126, R127).
-/
namespace Sys2Proof.Machine

/-! ## The bundle check (R98 to R100) -/

/-- A bundle header's fields. -/
structure BHead where
  entries : Nat
  table : Nat
  code : Nat
  codeLen : Nat

/-- The header, unless MAGIC, FORMAT, a reserved field or an offset is wrong (R98, R100). -/
def headOf (bs : List Byte) (len : Nat) : Option BHead :=
  let f (i n : Nat) : Nat := leNat ((bs.drop i).take n)
  let h : BHead := ⟨f 6 2, f 8 4, f 12 4, f 16 4⟩
  if f 0 4 = 0x31465042 && f 4 2 = 1 && (bs.drop 20).all (fun b => b = 0) && 1 ≤ h.entries && h.entries ≤ 1296 && h.table % 32 = 0
      && h.code % 64 = 0 && h.table + 32 * h.entries ≤ len && h.code + h.codeLen ≤ len then some h else none

/-- A core entry of the table: core, ways, and for each stream its stages, offset and length. -/
structure BEntry where
  core : Nat
  ways : Nat
  streams : List (Nat × Nat × Nat)

/-- A core entry's fields. -/
def entryOf (bs : List Byte) : BEntry :=
  let f (i n : Nat) : Nat := leNat ((bs.drop i).take n)
  ⟨f 0 2, f 2 1, [(f 3 1, f 8 4, f 12 4), (f 4 1, f 16 4, f 20 4), (f 5 1, f 24 4, f 28 4)]⟩

/-- A core entry is in range (R98, R100). A stream of no stages has no offset or length to judge. -/
def BEntry.ok (e : BEntry) (h : BHead) (mask : BitVec 72) (reserved : Nat) : Bool :=
  reserved = 0 && e.core < 1296 && e.ways ≤ 8 && bitOf mask.toNat (clusterOf e.core)
    && e.streams.all (fun s => s.1 ≤ 8 && (s.1 = 0 || (s.2.1 % 64 = 0 && s.2.2 % 8 = 0 && 64 ≤ s.2.2 && s.2.1 + s.2.2 ≤ h.codeLen)))

/-- Cores strictly ascending. -/
def ascending : List Nat → Bool
  | a :: b :: t => a < b && ascending (b :: t)
  | _ => true

/-- What a firmware read of a bundle came to. -/
inductive Rd (α : Type) where
  | ok (d : Dev) (x : α)
  | bad (d : Dev)
  | fault (d : Dev) (f : XFault) (iova : Nat)
  | wait (d : Dev)

/-- Bytes read for a descriptor by the firmware. -/
def Dev.fwBytes (d : Dev) (ac : Acc) (iova n : Nat) : Rd (List Byte) :=
  match d.readRange ac iova n with
  | .ok d (gs, _) => .ok d (gotBytes gs iova n)
  | .fault d f a => .fault d f a
  | .wait d _ => .wait d
  | .stall d _ => .wait d

/-- The entry offsets of a stream's stages (R99): bits 63:32 of a used word must be 0, an offset must lie in the stream. DESIGN CHOICE: one
that is no multiple of 8 is out of range (log 53). -/
def stageOffsets (bs : List Byte) (n len : Nat) : Option (List Nat) :=
  let ws := (List.range n).map (fun s => leNat ((bs.drop (8 * s)).take 8))
  if ws.all (fun w => w < 2 ^ 32 && w < len && w % 8 = 0) then some ws else none

/-- The streams of an entry with their stage tables read: those STREAMS selects. -/
def Dev.readStreams (d : Dev) (ac : Acc) (code streams : Nat) : List (Nat × Nat × Nat) → Nat → Rd (List (Nat × Nat × List Nat))
  | [], _ => .ok d []
  | (n, off, len) :: rest, q =>
    if n = 0 || !bitOf streams q then
      match d.readStreams ac code streams rest (q + 1) with
      | .ok d xs => .ok d ((0, 0, []) :: xs)
      | r => r
    else
      match d.fwBytes ac (code + off) 64 with
      | .ok d bs =>
        match stageOffsets bs n len with
        | none => .bad d
        | some pcs =>
          match d.readStreams ac code streams rest (q + 1) with
          | .ok d xs => .ok d ((code + off, len, pcs) :: xs)
          | r => r
      | .bad d => .bad d
      | .fault d f a => .fault d f a
      | .wait d => .wait d

/-- The entries of a bundle read and checked in order. -/
def Dev.readEntries (d : Dev) (ac : Acc) (h : BHead) (mask : BitVec 72) (addr streams : Nat) : List Nat → Rd (List Entry)
  | [] => .ok d []
  | i :: is =>
    match d.fwBytes ac (addr + h.table + 32 * i) 32 with
    | .ok d bs =>
      let e := entryOf bs
      if !e.ok h mask (leNat ((bs.drop 6).take 2)) then .bad d
      else
        match d.readStreams ac (addr + h.code) streams e.streams 0 with
        | .ok d xs =>
          match d.readEntries ac h mask addr streams is with
          | .ok d es => .ok d (⟨e.core, e.ways, xs⟩ :: es)
          | r => r
        | .bad d => .bad d
        | .fault d f a => .fault d f a
        | .wait d => .wait d
    | .bad d => .bad d
    | .fault d f a => .fault d f a
    | .wait d => .wait d

/-- A bundle read and checked (R98 to R100), with its argument block. -/
def Dev.readBundle (d : Dev) (tag : Tag) (w : Work) : Rd (List Entry × List Byte) :=
  let ac := w.acc tag .both
  let addr := fieldB w.desc 16 8
  let n := fieldB w.desc 36 2
  match d.fwBytes ac addr 64 with
  | .ok d bs =>
    match headOf bs (fieldB w.desc 32 4) with
    | none => .bad d
    | some h =>
      match d.readEntries ac h (d.ctx w.ctx).mask addr (bits (fieldB w.desc 38 1) 2 0) (List.range h.entries) with
      | .ok d es =>
        if !ascending (es.map (·.core)) then .bad d
        else if n = 0 then .ok d (es, [])
        else
          match d.fwBytes ac (fieldB w.desc 24 8) n with
          | .ok d args => .ok d (es, args)
          | .bad d => .bad d
          | .fault d f a => .fault d f a
          | .wait d => .wait d
      | .bad d => .bad d
      | .fault d f a => .fault d f a
      | .wait d => .wait d
  | .bad d => .bad d
  | .fault d f a => .fault d f a
  | .wait d => .wait d

/-- The units of checked entries are in place: UNIT_RETIRED for a core that is not GOOD, UNREACHABLE for a gated cluster (R27,
R100). -/
def Dev.entriesStatus (d : Dev) (es : List Entry) : Nat :=
  if es.any (fun e => !d.coreGood e.core) then 9 else if es.any (fun e => !d.admits (clusterOf e.core)) then 10 else 0

/-- The outcome of a bundle's check. -/
def Dev.checkBundle (d : Dev) (tag : Tag) (w : Work) : Dev :=
  match d.readBundle tag w with
  | .wait d => d
  | .fault d f a => d.parkWork tag w f.cause (some (f, a))
  | .bad d => d.parkWork tag w 9 none
  | .ok d (es, args) =>
    let d := d.modWork tag (fun w => { w with entries := es, args := args })
    match d.entriesStatus es with
    | 0 =>
      if (d.work tag).any (fun w => w.unreachable) then d.finishWork tag 10 0
      else d.modWork tag (fun w => { w with phase := .checked })
    | 9 => (d.modWork tag (fun w => w.blame 4 1 d.lt)).finishWork tag 9 0
    | st => d.finishWork tag st 0

/-- LAUNCH (R100): accepted and not yet checked, of a context that is not parked. -/
def execLaunch (tag : Tag) (s : State) : Host.Outcome State Fault Refusal :=
  s.onDev (fun d =>
    match d.work tag with
    | none => d
    | some w =>
      let st : CState := (d.ctx w.ctx).state
      if dOp w.desc = 0x100 && w.phase = .accepted && d.fwRuns && (st = .active || st = .stopping) then d.checkBundle tag w else d)

/-! ## The start of a LAUNCH (R101, R102) -/

/-- The stage contexts of an entry: READY at their offsets, stage 0 of each stream ACTIVE (R102). -/
def Entry.stages (e : Entry) : Tbl Stage :=
  (List.range 24).filterMap (fun i =>
    match e.streams[i / 8]? with
    | none => none
    | some (base, len, pcs) =>
      match pcs[i % 8]? with
      | none => none
      | some pc => some (i, { Stage.empty with
          state := if i % 8 = 0 then .active else .ready, pc := BitVec.ofNat 32 pc, base := base, len := len }))

/-- A core as a LAUNCH finds it (R102, R131, R189): the local store stays if the last program was the context's own. DESIGN CHOICE: a
context is its number, also where it has been released and activated since (log 53). -/
def Core.launched (k : Core) (c : CtxId) (tag : Tag) (e : Entry) : Core :=
  let own := k.ctx = some c
  { k with
    ctx := some c
    tag := some tag
    ways := e.ways
    stages := e.stages
    tok := []
    ls := if own then k.ls else Store.zero
    orig := if own then k.orig else []
    l1 := []
    l1lru := []
    ibuf := []
    acc := []
    v := []
    m := []
    t := []
    fops := []
    redo := 0
    sets := []
    hopOpen := true
    peer := 0
    halted := 0
    forced := false }

/-- A LAUNCH of a context that has been dispatched onto a core has not completed (R101). -/
def Dev.launchBefore (d : Dev) (c : CtxId) (core : Nat) : Bool :=
  d.hq.infl.any (fun e => e.2.ctx = c && dOp e.2.desc = 0x100 && e.2.entries.any (fun x => x.core = core)
    && (match e.2.phase with | .dispatched => true | .finished _ _ => true | _ => false))

/-- A LAUNCH may start: no program on its cores, none of its context's that has yet to complete there, its clusters no other context's
(R96, R101). -/
def Dev.launchFits (d : Dev) (w : Work) : Bool :=
  w.entries.all (fun e =>
    (d.core e.core).tag.isNone && !d.launchBefore w.ctx e.core &&
      match (d.cluster (clusterOf e.core)).ctx with
      | none => true
      | some c => c = w.ctx)

/-- A LAUNCH dispatched onto its cores (R102): cluster tokens 0, the clusters its context's. -/
def Dev.startLaunch (d : Dev) (tag : Tag) (w : Work) : Dev :=
  let d := d.setWork tag { w with phase := .dispatched, since := some d.lt }
  let d := (w.entries.map (fun e => clusterOf e.core)).eraseDups.foldl (fun d cl =>
    d.modCluster cl (fun y => { y with ctx := some w.ctx, tok := [] })) d
  let d := w.entries.foldl (fun d e => d.modCore e.core (fun k => k.launched w.ctx tag e)) d
  d.tryFinish tag

/-! ## Pre-emption (R72, R73, R127) -/

/-- The first unreachable DPA of a save region, and whether a retired channel lies under it. -/
def Dev.regionFault (d : Dev) (a n : Nat) : Nat × Bool :=
  let g := d.group (groupOf a)
  let ret := firstWhere (fun i => !d.hole (a + 256 * i) && d.chanState (d.chanOf (a + 256 * i)).1 = 2) 8
  if !d.groupServes (groupOf a) then (a, false)
  else if d.hole a then (a, false)
  else match ret with
    | some i => (a + 256 * i, true)
    | none => if d.hole (a + n - 1) then (groupOf a * 2 ^ 37 + g.bytes, false) else (a, false)

/-- A pre-emption withheld (R127): SAVE_UNREACHABLE once, and the cause of the work that waits for the clusters. One that had been
requested is withdrawn. -/
def Dev.withhold (d : Dev) (c : CtxId) : Dev :=
  let x := d.ctx c
  let d := if x.preemptReq.isSome then d.cancelPreempt c else d
  let (a, ret) := d.regionFault x.save x.saveLen
  let d := d.blameAll (fun w => w.ctx != c && w.undispatched && (d.ctx w.ctx).mask &&& x.mask != 0) (if ret then 4 else 2) (if ret then 4 else 2)
  if x.withheld then d
  else (d.modCtx c (fun x => { x with withheld := true })).postCtx c 0x1006 (packB [(0, 1), (1, groupOf a), (8, a)])

/-- The save region of a context can take a save (R127). -/
def Dev.canSave (d : Dev) (c : CtxId) : Bool := (d.ctx c).saveLen = 0 || d.regionActive (d.ctx c).save (d.ctx c).saveLen

/-- The sequencers of a context that are stalled or have no stage to run stop at once (R126). -/
def Dev.haltStalled (d : Dev) (c : CtxId) : Dev :=
  (d.coresOfCtx c).foldl (fun d n => d.modCore n (fun k =>
    if k.tag.isNone then k
    else { k with halted := k.halted ||| (((List.range 3).filter k.seqStopped).map (2 ^ ·)).sum })) d

/-- PREEMPTION: requested; the image is saved once every sequencer has stopped and the Drills have paused (R72, R126). A context with
EXCLUSIVE is never pre-empted (R74). -/
def Dev.preempt (d : Dev) (c : CtxId) : Dev :=
  let x := d.ctx c
  if !d.fwRuns || x.exclusive || x.saved || (x.state != .active && x.state != .parked) then d
  else if !d.canSave c then d.withhold c
  else
    let d := d.writeResume c
    let d := (if x.preemptReq.isSome then d else d.modCtx c (fun x => { x with preemptReq := some d.lt })).haltStalled c
    if d.allStopped c then d.saveAll c else d

/-- PREEMPTION (R72). -/
def execPreemption (c : CtxId) (s : State) : Host.Outcome State Fault Refusal := s.onDev (fun d => d.preempt c)

/-- PREEMPTION_TIMEOUT (R73): where a stream still runs HQS_BLOCK_MAX after the request, the streams stop where they are, counted and told;
the image is saved once the issued operations are complete. -/
def Dev.preemptTimeout (d : Dev) (c : CtxId) : Dev :=
  match (d.ctx c).preemptReq with
  | none => d
  | some t =>
    if d.lt < t + 100 * d.blockMax || d.streamsStopped c then d
    else
      let ns := (d.coresOfCtx c).filter (fun n => (d.core n).tag.isSome && !(List.range 3).all (d.core n).seqStopped)
      let d := ns.foldl (fun d n => d.modCore n (fun k => { k with halted := 7, forced := true })) d
      let d := d.bump hqsSet 3 1
      let d := d.blameAll (fun w => w.ctx = c && w.phase = .dispatched) 1 2
      let first := ((ns.map clusterOf).mergeSort (· ≤ ·)).headD 0
      let d := d.postCtx c 0x1003 (packB [(0, first), (8, t % 2 ^ 64), (16, d.lt % 2 ^ 64)])
      if d.canSave c then (if d.allStopped c then d.saveAll c else d) else d.withhold c

/-- PREEMPTION_TIMEOUT (R73). -/
def execPreemptionTimeout (c : CtxId) (s : State) : Host.Outcome State Fault Refusal := s.onDev (fun d => d.preemptTimeout c)

/-! ## Restore (R126, R127) -/

/-- The LAUNCHes and Drill descriptors of a context that its image holds. -/
def Dev.savedTags (d : Dev) (c : CtxId) : List Tag :=
  d.hq.infl.filterMap (fun e => if h : e.1 < 16384 then
    (if e.2.ctx = c && e.2.phase = .dispatched && e.2.since.isNone then some ⟨e.1, h⟩ else none) else none)

/-- A saved context whose every descriptor has lost its deadline yields a cluster that is wanted (R71). -/
def Dev.restoreYields (d : Dev) (c : CtxId) : Bool :=
  let ts := d.savedTags c
  !ts.isEmpty && ts.all (fun t => (d.work t).all (·.noDeadline)) && (clustersOf (d.ctx c).mask).any (d.wanted c)

/-- A restore may begin: an image is there, its group serves, the clusters are powered, no other context's and not wanted. -/
def Dev.mayRestore (d : Dev) (c : CtxId) : Bool :=
  let x := d.ctx c
  !d.restoreYields c &&
  x.saved && (x.state = .preempted || x.state = .stopping) && d.fwRuns
    && (x.saveLen = 0 || d.hole x.save || d.groupServes (groupOf x.save))
    && (clustersOf x.mask).all (fun cl => d.admits cl && match (d.cluster cl).ctx with | none => true | some k => k = c)

/-- A restore abandoned on a poisoned block (R127): its LAUNCHes end with UNIT_RETIRED, its Drill entries go without signals, the
context is ACTIVE with no resident work. -/
def Dev.abandon (d : Dev) (c : CtxId) (dpa : Nat) : Dev :=
  let tags := d.savedTags c
  let d := (d.coresOfCtx c).foldl (fun d n => d.modCore n Core.emptied) d
  let d := (clustersOf (d.ctx c).mask).foldl (fun d cl =>
    (d.modCluster cl (fun y => { y with drill := y.drill.filter (fun x => !(x.ctx = c)), paused := false })).freeCluster cl) d
  let d := tags.foldl (fun d t => (d.modWork t (fun w => w.blame 4 4 d.lt)).finishWork t 9 0) d
  let d := d.modCtx c (fun x => { x with
    state := match x.state with | .preempted => .active | s => s
    saved := false
    wants := []
    hauls := []
    firsts := []
    retiredSaved := [] })
  d.postCtx c 0x1006 (packB [(0, 2), (1, groupOf dpa), (8, dpa)])

/-- Cores and clusters of a context restored, up to the first poisoned block. -/
def Dev.restoreAll (d : Dev) (c : CtxId) : List (Nat ⊕ Nat) → Dev × Option Nat
  | [] => (d, none)
  | u :: us =>
    let (d, bad) := match u with
      | .inl n => d.restoreCore c n
      | .inr cl => d.restoreCluster c cl
    match bad with
    | some a => (d, some a)
    | none => d.restoreAll c us

/-- RESTORE. -/
def Dev.restore (d : Dev) (lic : Nat) (c : CtxId) : Dev :=
  if !d.mayRestore c then d
  else
    let x := d.ctx c
    let cls := clustersOf x.mask
    if x.saveLen != 0 && d.hole (x.save + x.saveLen - 1) then d.abandon c (d.regionFault x.save x.saveLen).1
    else
      let tags := d.savedTags c
      match d.restoreAll c (cls.map Sum.inr ++ ((cls.flatMap coresOf).filter d.coreGood).map Sum.inl) with
      | (d, some a) => d.abandon c a
      | (d, none) =>
        let d := tags.foldl (fun d t => d.modWork t (fun w => { w with since := some d.lt })) d
        let d := cls.foldl (fun d cl => d.freeCluster cl) d
        let d := (d.resumeStages c).modCtx c (fun x => { x with
          state := match x.state with | .preempted => .active | s => s
          saved := false
          wants := []
          hauls := []
          firsts := []
          retiredSaved := [] })
        let d := x.retiredSaved.foldl (fun d t => d.endLaunch t 9) d
        (d.pass lic).reevalCtx lic c

/-- RESTORE (R126). -/
def execRestore (c : CtxId) (s : State) : Host.Outcome State Fault Refusal := s.onDev (fun d => d.restore s.sec.lic c)

end Sys2Proof.Machine
end

