-- ==== Sys2Proof/Machine/Granary.lean ====
section
/-!
DEFINITION. Sys2Proof/Machine/Granary.lean: commands on channel groups, the Glean scrubbers, invalidations, ATS and PRI, and the two
page descriptors (R268, R269, R275 to R277, R289 to R293).
-/
namespace Sys2Proof.Machine

/-! ## Group commands (R269) -/

/-- The contents of a group become undefined: its stored bytes and those of its resident RAW lines are free bytes of a new index; its
encoded lines and the writes that wait at it go. -/
def Dev.scramble (d : Dev) (g : Nat) : Dev :=
  let (n, d) := d.takeFresh
  let lo := g * 2 ^ 37
  let st : Store := ⟨Tbl.cut d.mm.gran.data lo (2 ^ 37), Tbl.cut d.mm.gran.chk (lo / 64) (2 ^ 31)⟩
  let free (l : Line) : Option Line :=
    if groupOf (256 * l.num) != g then some l
    else if l.enc = 0 then some { l with st := Store.ofBytes ((List.range 256).map (fun i => Config.freeByte n (256 * l.num + i))) }
    else none
  let d := { d with mm := { d.mm with
      gran := st, lines := d.mm.lines.filterMap free, queued := d.mm.queued.filter (fun e => groupOf (64 * e.1) != g) } }
  d.modGroup g (fun x => { x with epoch := n })

/-- A leaf points into a group. -/
def leafIn (leaf g : Nat) : Bool := bits leaf 1 0 = 2 && groupOf (fld (bits leaf 51 21) 21) = g

/-- A walk result cached anywhere points into a group (R269). -/
def Dev.walkInto (d : Dev) (g : Nat) : Bool :=
  d.mm.walks.any (fun w => leafIn w.leaf g) || d.mm.clWalks.any (fun e => e.2.any (fun w => leafIn w.leaf g))

/-- ACTIVE, or DEGRADED if a channel of the map is retired (R269). -/
def Dev.servingState (d : Dev) (g : Nat) : GState := if (d.group g).map.any (fun n => d.chanState n = 2) then .degraded else .active

/-- The resume records that wait for their slot's group written once it reads ACTIVE (R127). -/
def Dev.writeResumes (d : Dev) : Dev :=
  d.hq.ctxs.foldl (fun d e => if h : e.1 < 256 then (if e.2.park.any (fun p => p.unsaved) then d.writeResume ⟨e.1, h⟩ else d) else d) d

/-- A group whose SR_ENTER is due enters self-refresh once its queued requests have finished (R269, R272). -/
def Dev.settleSr (d : Dev) (g : Nat) : Dev :=
  if (d.group g).srDue && d.groupOut g = 0 then
    d.modGroup g (fun x => { x with state := .selfRefresh, selfRef := true, srDue := false })
  else d

/-- SR_ENTER (R269): writes that wait under a hold finish first. -/
def Dev.srEnter (d : Dev) (g : Nat) : Dev :=
  let x := d.group g
  if x.state = .active || x.state = .degraded then (d.modGroup g (fun x => { x with srDue := true })).settleSr g else d

/-- SR_ENTER (R269). -/
def execSrEnter (g : GroupId) (s : State) : Host.Outcome State Fault Refusal := s.onDev (fun d => d.atReg .pcie (0xC0040 + 4 * g.val) (fun d => d.srEnter g))

/-- SR_EXIT (R269). -/
def Dev.srExit (d : Dev) (g : Nat) : Dev :=
  if (d.group g).state = .selfRefresh then
    (d.modGroup g (fun x => { x with state := d.servingState g, selfRef := false })).writeResumes
  else d

/-- SR_EXIT (R269). -/
def execSrExit (g : GroupId) (s : State) : Host.Outcome State Fault Refusal := s.onDev (fun d => d.atReg .pcie (0xC0040 + 4 * g.val) (fun d => d.srExit g))

/-- REMAP (R269): the map of the channels not retired, ACTIVE, contents undefined. -/
def Dev.remap (d : Dev) (g : Nat) : Dev :=
  let x := d.group g
  if (x.state = .active || x.state = .degraded) && !d.walkInto g then
    ((d.modGroup g (fun x => { x with state := .active, map := x.map.filter (fun n => d.chanState n != 2) })).scramble g).writeResumes
  else d

/-- REMAP (R269). -/
def execRemap (g : GroupId) (s : State) : Host.Outcome State Fault Refusal := s.onDev (fun d => d.atReg .pcie (0xC0040 + 4 * g.val) (fun d => d.remap g))

/-- UNC_WINDOW_RESTART (R268): at LT multiples of 100,000,000·WINDOW_S. -/
def execUncWindowRestart (s : State) : Host.Outcome State Fault Refusal :=
  s.onDev (fun d =>
    if d.lt % (100000000 * max 1 (bits (d.reg 0xC000C).toNat 31 16)) = 0 then
      (List.range 24).foldl (fun d n => d.modChan n (fun c => { c with tally := 0 })) d
    else d)

/-! ## Glean (R289 to R292) -/

/-- The mode of an engine: 0 OFF, 1 SERVICE, 2 IDLE. -/
def Dev.gleanMode (d : Dev) (e : Nat) : Nat := bits (d.reg (0xC0800 + 0x40 * e)).toNat 1 0

/-- A granary block read by an engine (R290). True when it was corrected. -/
def Dev.scrubBlock (d : Dev) (e b : Nat) : Dev × Bool :=
  let (n, _) := d.chanOf (64 * b)
  let fix (p : Par) : Dev × Bool :=
    let d := (d.bump (grnSet n) 0 1).bump (gleanSet e) 1 1
    (if (d.chan n).hold then d.deferFix e (64 * b) else d.granCorrect b p, true)
  match d.granPar b with
  | .clean => (d, false)
  | .poisoned => (d, false)
  | .data r c => fix (.data r c)
  | .check => fix .check
  | .bad => (((d.granPut b Blk.bad).bump (gleanSet e) 2 1).granUnc b, false)

/-- A block of a resident line's ways read by an engine (R258, R290). True when it was corrected. -/
def Dev.scrubLine (d : Dev) (e : Nat) (l : Line) (i : Nat) : Dev × Bool :=
  match l.st.par i with
  | .clean => (d, false)
  | .poisoned => (d, false)
  | .bad => ((d.bump (gleanSet e) 2 1).wayBlock l i, false)
  | _ => ((d.bump (gleanSet e) 1 1).wayBlock l i, true)

/-- A block of a set's tags and states read by an engine (R284, R289). -/
def Dev.scrubTag (d : Dev) (e s x j : Nat) : Dev :=
  match classify false (d.mm.tags.syn (4 * setKey e s x + j)) with
  | .clean => d
  | .poisoned => d
  | .bad => (d.bump (gleanSet e) 2 1).tagBlock e s x j
  | _ => (d.bump (gleanSet e) 1 1).tagBlock e s x j

/-- The blocks of a set's lines, by way. -/
def Dev.setBlocks (d : Dev) (h s x : Nat) : List (Nat × Nat) :=
  ((d.setLines h s x).mergeSort (fun a b => a.way ≤ b.way)).flatMap (fun l => l.held.map (fun i => (l.num, i)))

/-- An engine's position moved on; a lap's end is recorded, and posted in IDLE mode (R292). -/
def Dev.gleanNext (d : Dev) (e total : Nat) : Dev :=
  let g := d.glean e
  if g.pos + 1 < total then d.modGlean e (fun g => { g with pos := g.pos + 1 })
  else
    let len := d.lt - g.start
    let d := d.modGlean e (fun g => { g with pos := 0, run := false, last := len })
    let d := d.bump (gleanSet e) 0 1
    if d.gleanMode e = 2 then d.post 0x4005 (packB [(0, e), (8, len % 2 ^ 64)]) else d

/-- A lap begins with its first read (R292). -/
def Dev.gleanStart (d : Dev) (e : Nat) : Dev :=
  if (d.glean e).run then d else d.modGlean e (fun g => { g with run := true, start := d.lt })

/-- An LLC engine reads its next set, which is set pos mod 2,048 of slice pos / 2,048 (log 17): the blocks of its lines, then its four
tag blocks, of the layer-halves in service. An upset names its block in that order. -/
def Dev.gleanSetRead (d : Dev) (h : Nat) (ups : List Upset) : Dev :=
  let pos := (d.glean h).pos
  let s := pos / 2048
  let x := pos % 2048
  let bs := d.setBlocks h s x
  let d := ups.foldl (fun d u =>
    match bs[u.block]? with
    | none =>
      let j := u.block - bs.length
      if j < 4 then { d with mm := { d.mm with tags := d.mm.tags.strike (4 * setKey h s x + j) u } } else d
    | some (num, i) => match d.findLine h s x num with
      | none => d
      | some l => d.putLine { l with st := l.st.strike i u }) d
  let d := bs.foldl (fun d b =>
    match d.findLine h s x b.1 with
    | none => d
    | some l => if d.layerOn (layerOf l.pair) h then (d.scrubLine h l b.2).1 else d) d
  let d := (List.range 4).foldl (fun d j => if d.layerOn (j + 1) h then d.scrubTag h s x j else d) d
  d.gleanNext h (640 * 2048)

/-- GLEAN_BLOCK_READ: engine e's next block or set. -/
def Dev.gleanRead (d : Dev) (e : Nat) (ups : List Upset) : Dev :=
  if !d.on 95 || d.gleanMode e = 0 then d
  else if e < 2 then (d.gleanStart e).gleanSetRead e ups
  else
    let g := e - 2
    let x := d.group g
    if x.state != .active || !d.on (84 + g) then d
    else
      let d := d.gleanStart e
      let total := x.bytes / 64
      let b := g * 2 ^ 31 + (d.glean e).pos
      let d := ups.foldl (fun d u => if u.block = 0 then d.setGran (d.mm.gran.strike b u) else d) d
      (d.scrubBlock e b).1.gleanNext e total

/-- GLEAN_BLOCK_READ (R290). -/
def execGleanBlockRead (e : Fin 6) (ups : List Upset) (s : State) : Host.Outcome State Fault Refusal := s.onDev (fun d => d.gleanRead e ups)

/-- The corrections an engine deferred for a channel or layer-half made as its hold ends (R290). -/
def Dev.runDeferred (d : Dev) (e : Nat) (mine : Nat → Bool) : Dev :=
  let due := (d.glean e).deferred.filter mine
  let d := d.modGlean e (fun g => { g with deferred := g.deferred.filter (fun a => !mine a) })
  due.foldl (fun d a =>
    if e < 2 then
      match d.mm.lines.find? (fun l => l.half = e && l.num = a / 256) with
      | some l => d.putLine (l.mend (a % 256 / 64))
      | none => d
    else d.granCorrect (a / 64) (d.granPar (a / 64))) d

/-! ## Invalidations (R275, R276) -/

/-- XLT_INVAL_CMD (R275): ignored while one is in progress. -/
def execXltInvalCmd (s : State) : Host.Outcome State Fault Refusal :=
  s.onDev (fun d =>
    if d.mm.inval.isSome || !d.reaches .pcie 0xE0020 then d
    else
      let v := (d.reg 0xE0010).toNat
      let base := d.wide64 0xE0018
      { d with mm := { d.mm with
          inval := some (BitVec.toFin (BitVec.ofNat 8 (bits v 7 0)), bitOf v 8, base, (d.reg 0xE001C).toNat) } })

/-- A cached walk result lies in the range of an invalidation; 0 units mean the whole tree. -/
def Walk.inRange (w : Walk) (r : CtxId × Bool × Nat × Nat) : Bool :=
  let (c, all, base, units) := r
  let size := 2 ^ (12 + 9 * w.level)
  (all || w.ctx = c) && (units = 0 || (w.page * size < base + units * 2 ^ 21 && base < w.page * size + size))

/-- XLT_INVAL_COMPLETE (R275). -/
def execXltInvalComplete (s : State) : Host.Outcome State Fault Refusal :=
  s.onDev (fun d =>
    match d.mm.inval with
    | none => d
    | some r =>
      { d with mm := { d.mm with
          inval := none
          walks := d.mm.walks.filter (fun w => !w.inRange r)
          clWalks := d.mm.clWalks.filterMap (fun (e : Nat × List Walk) =>
            let ws := e.2.filter (fun w => !w.inRange r)
            if ws.isEmpty then none else some (e.1, ws)) } })

/-- ATS_INVALIDATE_REQUEST (R276): matching ATC entries dropped, the request counted, and its Invalidate Completion sent. -/
def execAtsInvalidateRequest (pasid : BitVec 20) (page pages : Nat) (s : State) : Host.Outcome State Fault Refusal :=
  s.onDev (fun d =>
    ({ d with
      mm := { d.mm with atc := d.mm.atc.filter (fun e => !(e.pasid = pasid && page ≤ e.page && e.page < page + pages)) }
      env := { d.env with invals := d.env.invals ++ [(pasid, page, pages)] } } : Dev).bump xltSet 4 1)

/-! ## ATS and PRI (R277) -/

/-- The host's answer for a page of a PASID changed. -/
def Dev.setHostPage (d : Dev) (pasid : BitVec 20) (page : Nat) (t : HostPage) : Dev :=
  { d with env := { d.env with pages := Tbl.set d.env.pages (pasid.toNat * 2 ^ 52 + page) t ⟨page, true, true⟩ } }

/-- The access that waited for a page faults: its Drill transfer, queue, ring or descriptor takes the consequences (R154, R246, R279). -/
def Dev.waiterFault (d : Dev) (p : PageReq) (kind : Nat) : Dev :=
  let f : XFault := ⟨kind, p.wr, false, true, 0, 0⟩
  let d := d.bump xltSet 1 1
  match p.who with
  | .drill cl =>
    match (d.cluster cl).drill with
    | x :: _ => if x.ctx = p.ctx && !x.faulted then d.drillFault cl f p.iova else d
    | [] => d
  | .queue q st =>
    if st = 1 then d.sqFault q kind else Dev.statusIfChanged d ((d.faultQueue q st kind p.iova).discardHeld q) q
  | .ring c st => d.stopRing c st kind p.iova
  | .work tag =>
    match d.work tag with
    | none => d
    | some w =>
      if dOp w.desc = 0x500 then d.modWork tag (fun w => { w with progress := w.progress + 1 + 2 ^ 64 })
      else d.parkWork tag w 7 (some (f, p.iova))

/-- What waited for a page the host has made accessible is tried again: a queue's records or its status block, a ring's records (R277). A
Drill, a descriptor and the fetch of a ring go on when they next run. -/
def Dev.waiterRetry (d : Dev) (p : PageReq) : Dev :=
  match p.who with
  | .queue q st =>
    if st = 2 then Dev.statusIfChanged d (d.flushWaits q (d.queue q).waits) q
    else if st = 3 then d.status q
    else d
  | .ring c _ => if (d.ctx c).noRing then d else d.drainCtx c (d.ctx c).ring.waiting
  | _ => d

/-- A page request taken from the list. -/
def Dev.takePri (d : Dev) (c : CtxId) (page : Nat) : Option (PageReq × Dev) :=
  match d.mm.pri.find? (fun p => p.ctx = c && p.page = page) with
  | none => none
  | some p => some (p, { d with mm := { d.mm with pri := d.mm.pri.filter (fun q => !(q.ctx = c && q.page = page)) } })

/-- PRI_RESPONSE (R277): success (code 0) makes the page accessible, its translation is kept in the ATC, and the access is tried again; any
other code faults with PRI_FAILED. A response nothing waits for is discarded, but a success after a pre-emption still fills the ATC
(R283). -/
def Dev.priResponse (d : Dev) (c : CtxId) (page : Nat) (code : BitVec 4) : Dev :=
  match d.takePri c page with
  | none => d
  | some (p, d) =>
    if code = 0 then
      let pasid := (d.ctx c).pasid
      let t := d.hostAnswer pasid page
      let d := d.setHostPage pasid page ⟨t.target, t.rd || !p.wr, t.wr || p.wr⟩
      let d := if d.env.ats then (d.askAts pasid page p.wr).1 else d
      if p.alive then d.waiterRetry p else d
    else if p.alive then (d.postCtx c 0x5001 (packB [(0, p.iova % 2 ^ 64), (8, code.toNat)])).waiterFault p 7
    else d

/-- PRI_RESPONSE (R277). -/
def execPriResponse (c : CtxId) (page : Nat) (code : BitVec 4) (s : State) : Host.Outcome State Fault Refusal :=
  s.onDev (fun d => d.priResponse c page code)

/-- PRI_TIMEOUT (R277): XLT_PRI_WAIT µs without a response. The event's response code, which no host gave, is a free value (log 2). -/
def execPriTimeout (c : CtxId) (page : Nat) (s : State) : Host.Outcome State Fault Refusal :=
  s.onDev (fun d =>
    match d.takePri c page with
    | none => d
    | some (p, e) =>
      if d.lt < p.lt + 100 * bits (d.reg 0xE0004).toNat 9 0 then d
      else if !p.alive then e
      else
        let (n, e) := e.takeFresh
        (e.postCtx c 0x5001 (packB [(0, p.iova % 2 ^ 64), (8, (Config.freeByte n 0).toNat)])).waiterFault p 8)

/-- The Drill of a context that has a transfer in progress: the one an ATS completion is taken to be for (log 8). -/
def Dev.runningDrill (d : Dev) (c : CtxId) : Option ClusterId :=
  (firstWhere (fun cl => match d.drillHead cl with | some x => x.started && x.ctx = c | none => false) 72).bind
    (fun cl => if h : cl < 72 then some ⟨cl, h⟩ else none)

/-- How a transfer touches a page: whether it writes there, and the first byte of the page that is its own (R280). -/
def DXfer.touch (x : DXfer) (page : Nat) : Bool × Nat :=
  let lo := 4096 * page
  let in_ (a n : Nat) : Bool := a < lo + 4096 && lo < a + n
  let t := xferOf x.rcd
  if x.isKv then
    let base := fieldB x.rcd 16 8
    if dOp x.rcd = 0x300 || (base ≤ lo + 4095 && lo ≤ base) then (true, max lo base)
    else (false, max lo (if in_ (fieldB x.rcd 24 8) (2 ^ 28) then fieldB x.rcd 24 8 else fieldB x.rcd 32 8))
  else
    let reach := if t.layout = 1 then (t.rows / 16 - 1) * t.len + t.panel else t.len
    if !t.toLocal && in_ t.dst reach then (true, max lo t.dst)
    else (false, if in_ t.scaleSrc 1 then max lo t.scaleSrc else if in_ t.src 1 then max lo t.src else lo)

/-- ATS_COMPLETION (R276, R277): the host's answer for a page. One that grants access fills the ATC; one that grants none makes the
waiting Drill send a page request, or fault with ATS_DENIED. -/
def Dev.atsCompletion (d : Dev) (c : CtxId) (page target : Nat) (rd wr : Bool) : Dev :=
  if !d.env.ats then d
  else
    let pasid := (d.ctx c).pasid
    let t : HostPage := ⟨target, rd, wr⟩
    let d := (d.setHostPage pasid page t).bump xltSet 2 1
    let d := { d with mm := { d.mm with atc := d.mm.atc.filter (fun e => !(e.pasid = pasid && e.page = page)) } }
    if rd || wr then
      let (i, d) := d.takeFresh
      { d with mm := { d.mm with atc := addCached d.mm.atc 16384 (Config.cacheVictim i) ⟨pasid, page, t⟩ } }
    else
      match d.runningDrill c with
      | none => d
      | some cl =>
        let (wr, iova) : Bool × Nat := match (d.cluster cl).drill with | [] => (false, 4096 * page) | x :: _ => x.touch page
        if bitOf (d.reg (offXltCfg c)).toNat 1 then d.sendPri c page (.drill cl) wr iova
        else d.waiterFault ⟨c, page, .drill cl, wr, d.lt, iova, true⟩ 6

/-- ATS_COMPLETION (R277). -/
def execAtsCompletion (c : CtxId) (page target : Nat) (rd wr : Bool) (s : State) : Host.Outcome State Fault Refusal :=
  s.onDev (fun d => d.atsCompletion c page target rd wr)

/-! ## Page descriptors (R293) -/

/-- Pages translated from a count on; the count of pages done stands in the low 64 bits of progress, of those that failed above. -/
def Dev.touchPages (d : Dev) (tag : Tag) (ac : Acc) (addr : Nat) : Nat → Dev × Bool
  | 0 => (d, true)
  | n + 1 =>
    match d.work tag with
    | none => (d, false)
    | some w =>
      match d.xlate ac.ctx ac.cl ac.ag ac.who (addr + 4096 * (w.progress % 2 ^ 64)) false with
      | (d, .wait) => (d, false)
      | (d, .fault _) => (d.modWork tag (fun w => { w with progress := w.progress + 1 + 2 ^ 64 })).touchPages tag ac addr n
      | (d, _) => (d.modWork tag (fun w => { w with progress := w.progress + 1 })).touchPages tag ac addr n

/-- PAGE_TOUCH (R293): nothing parks, RESULT is the count of pages that failed. -/
def execPageTouch (tag : Tag) (s : State) : Host.Outcome State Fault Refusal :=
  s.onDev (fun d =>
    match d.running tag 0x500 with
    | none => d
    | some w =>
      let pages := fieldB w.desc 24 8 / 4096
      match d.touchPages tag (w.acc tag .both) (fieldB w.desc 16 8) (pages - w.progress % 2 ^ 64) with
      | (d, false) => d
      | (d, true) => d.finishWork tag 0 (BitVec.ofNat 32 (((d.work tag).getD w).progress / 2 ^ 64)))

/-- One block scrubbed by address: in the cache where its line is resident, else in its channel (R293). -/
def Dev.scrubAt (d : Dev) (ac : Acc) (iova : Nat) : Mv Nat :=
  match d.xlate ac.ctx ac.cl .granary none iova false with
  | (d, .fault f) => .fault d f iova
  | (d, .wait) => .wait d iova
  | (d, .host _) => .ok d 0
  | (d, .gran dpa place home) =>
    let (h, s, x) := locOf place home (dpa / 256)
    let g := groupOf dpa
    let gran (d : Dev) : Mv Nat :=
      if !d.groupServes g then .ok (d.markUnreachable ac.tag) 0
      else if d.chanState (d.chanOf dpa).1 = 2 then .ok ((d.bump (grnSet (d.chanOf dpa).1) 3 1).markRetired ac.tag) 0
      else let (d, b) := d.scrubBlock (2 + g) (dpa / 64); .ok d (b2n b)
    match d.findLine h s x (dpa / 256) with
    | some l => if bitOf l.valid (dpa / 128 % 2) then (let (d, b) := d.scrubLine h l (dpa % 256 / 64); .ok d (b2n b)) else gran d
    | none => gran d

/-- Blocks scrubbed in ascending order, and how many were corrected. -/
def Dev.scrubAll (d : Dev) (ac : Acc) (addr : Nat) : Nat → Nat → Nat → Mv Nat
  | 0, _, n => .ok d n
  | k + 1, i, n => (d.scrubAt ac (addr + 64 * i)).bind (fun d m => d.scrubAll ac addr k (i + 1) (n + m))

/-- SCRUB_RANGE (R293): a fault parks the context, and the descriptor restarts from ADDR. -/
def execScrubRange (tag : Tag) (s : State) : Host.Outcome State Fault Refusal :=
  s.onDev (fun d =>
    match d.running tag 0x501 with
    | none => d
    | some w =>
      match d.scrubAll (w.acc tag .granary) (fieldB w.desc 16 8) (fieldB w.desc 24 8 / 64) 0 0 with
      | .ok d n => d.finishWork tag 0 (BitVec.ofNat 32 n)
      | .fault d f a => d.parkWork tag w 7 (some (f, a))
      | .wait d _ => d
      | .stall d _ => d)

end Sys2Proof.Machine
end

