-- ==== Sys2Proof/Machine/Identity.lean ====
section
/-!
DEFINITION. Sys2Proof/Machine/Identity.lean: licences and what a reset does to the identity's state (R6, R471 to R476).
-/
namespace Sys2Proof.Machine

/-- A little-endian field of bytes. -/
def byteField (bs : List Byte) (off n : Nat) : Nat := leNat ((bs.drop off).take n)

/-- Bytes of a range are all 0. -/
def zeroRange (bs : List Byte) (off n : Nat) : Bool := ((bs.drop off).take n).all (fun b => b = 0)

/-- The Ed25519 check of a signature over the SHA-512 digest of a message (R473, R477). -/
def signed (key : BitVec 256) (msg sig : List Byte) : Bool :=
  Config.ed25519Verify key (bytesOf 64 (Config.sha512 msg)) (BitVec.ofNat 512 (leNat sig))

/-- SERIAL. -/
def licSerial (l : List Byte) : Nat := byteField l 8 8
/-- FEATURES. -/
def licFeatures (l : List Byte) : Nat := byteField l 6 1

/-- A licence is laid out as R473 says and valid on the device as R474 says. -/
def Sec.licValid (s : Sec) (l : List Byte) : Bool :=
  l.length = 160 && byteField l 0 4 = 0x43494C42 && byteField l 4 2 = 1 && licSerial l != 0
    && licFeatures l < 16 && zeroRange l 7 1 && zeroRange l 48 48
    && s.identity && byteField l 16 32 = s.deviceKey.toNat && signed s.vendorKey (l.take 96) (l.drop 96)

/-- The features of the valid installed licences: those in force after the next compute-level or higher reset (R474). -/
def Sec.features (s : Sec) : Nat := (s.slots.filter (fun e => s.licValid e.2)).foldl (fun f e => f ||| licFeatures e.2) 0

/-- A compute-level or higher reset is accepted: the features in force are taken (R6, R474, R480). -/
def Sec.takeLicences (s : Sec) : Sec := { s with lic := s.features }

/-- A fresh BOOT_NONCE, with GATE_SEQ at 0 (R476). -/
def Sec.renew (s : Sec) : Sec := { s with nonce := Config.bootNonce s.nonces, nonces := s.nonces + 1, seq := 0 }

/-- A meaning that changes the part and its identity's state, and leaves the queue of commands. -/
def State.onBoth (s : State) (f : Sec → Dev → Sec × Dev) : Host.Outcome State Fault Refusal :=
  let r := f s.sec s.dev
  .next { s with sec := r.1, dev := r.2 }

end Sys2Proof.Machine
end

