-- ==== Sys2Proof/Machine/Update.lean ====
section
/-!
DEFINITION. Sys2Proof/Machine/Update.lean: the update engine (12): the shard units' descriptors (R365, R375, R379 to R382, R387 to
R395), the UPDATE instructions (R371, R372), Hopper delivery (R368), the reads and writes it serves to peers (R386, R389, R397), and
its set-up (R356, R389). A shard unit has one fabric transaction outstanding at a time, which the manual leaves open (log 23).
-/
namespace Sys2Proof.Machine

/-! ## Jobs (R361, R363) -/

/-- What a stretch of a job comes to: more to do, a wait, or the end with a RESULT. -/
inductive Jb where
  | more (d : Dev)
  | stop (d : Dev)
  | done (d : Dev) (result : Word)

/-- A job's descriptor as it starts on a unit. -/
def Job.start (unit : Nat) : Job := ⟨unit, 0, 0, 0, 0, [], [], 0, 0, none, none, 0, [], false, false⟩

/-- The job of a tag. -/
def Dev.job (d : Dev) (tag : Nat) : Option Job := Tbl.find d.upd.jobs tag
/-- A shard unit as an agent for its descriptor: in its headland quadrant (R26, R361). -/
def Dev.jobAcc (d : Dev) (tag : Tag) (w : Work) : Acc :=
  { w.acc tag .granary with half := match d.job tag with | some j => j.unit / 2 | none => 2 }
/-- A shard unit runs a descriptor. -/
def Dev.unitBusy (d : Dev) (u : Nat) : Bool :=
  d.upd.jobs.any (fun e => e.2.unit = u && match d.work e.1 with | some w => w.phase = .dispatched | none => false)
/-- The job of a tag replaced. -/
def Dev.setJob (d : Dev) (tag : Nat) (j : Job) : Dev := { d with upd := { d.upd with jobs := Tbl.put d.upd.jobs tag j } }

/-- The lowest non-zero outcome is reported (R363). -/
def Job.note (j : Job) (o : Nat) : Job := { j with outcome := if j.outcome = 0 || o < j.outcome then o else j.outcome }
/-- On to the next record. -/
def Job.next (j : Job) : Job := { j with i := j.i + 1, step := 0, pos := 0, tries := 0, hdr := [], buf := [], got := none, fold := 0, data := [], bad := false }
/-- A record acted on. -/
def Job.did (j : Job) : Job := { j.next with count := j.count + 1 }
/-- A record left with an outcome. -/
def Job.skip (j : Job) (o : Nat) : Job := j.next.note o
/-- On to a step. -/
def Job.to (j : Job) (step : Nat) : Job := { j with step := step, got := none }
/-- OUTCOME and COUNT (R363). -/
def Job.result (j : Job) : Word := BitVec.ofNat 32 (j.outcome + fld (min j.count 0xFFFFFF) 8)

/-- Go on with the job as it now is. -/
def Dev.goOn (d : Dev) (tag : Tag) (j : Job) : Jb := .more (d.setJob tag j)

/-- An access of a shard unit: a translation fault parks the context (R278). -/
def Mv.jb {α : Type} (m : Mv α) (tag : Tag) (w : Work) (k : Dev → α → Jb) : Jb :=
  match m with
  | .ok d x => k d x
  | .fault d f a => .stop (d.parkWork tag w f.cause (some (f, a)))
  | .wait d _ => .stop d
  | .stall d _ => .stop d

/-- A request packet of the engine (R397). -/
def updPkt (type vc op len dst addr : Nat) (data : List Rec64) : Packet :=
  ⟨BitVec.ofNat 256 (fld type 0 + fld vc 4 + fld len 8 + fld 1 15 + fld dst 32 + fld op 176 + fld addr 192), data⟩

/-- A transaction issued, its answer to be taken at the job's step. One that cannot be sent is UNREACHABLE at once. -/
def Dev.ask (d : Dev) (tag : Tag) (w : Work) (j : Job) (pkt : Packet) : Jb :=
  match d.transact w.ctx tag pkt with
  | .sent d t => .stop (d.setJob tag { j with wait := some t, got := none, refused := false })
  | .unreachable d => .more (d.setJob tag { j with wait := none, got := some (3, []), refused := false })
  | .wait => .stop (match d.job tag with | some k => d.setJob tag { k with refused := true } | none => d)

/-- The outcome of an answer that is not OK: REFUSED, else UNREACHABLE (R363; log 24 for PART_DENIED). -/
def badAnswer (status : Nat) : Nat := if status = 4 then 5 else 12

/-! ## STEP_OPEN, SEAL, COMMIT (R365, R375, R380 to R382) -/

/-- The fields of an opened shard. -/
def Shard.opened (s : Shard) : Shard := (s.put 88 4 0).put 17 1 1

/-- STEP_OPEN, one record. -/
def Dev.stepOpenStep (d : Dev) (tag : Tag) (w : Work) (j : Job) : Jb :=
  let x := w.desc
  let n := fieldB x 16 8
  let ac := d.jobAcc tag w
  if j.pos = 0 && j.i = 0 && j.step = 0 then
    (d.stepRec ac n).jb tag w (fun d r =>
      if r.is 1 n then d.goOn tag (j.to 1)
      else (d.putStep ac n (natLe 64 (packB [(0, n), (8, 1)]))).jb tag w (fun d _ => d.goOn tag (j.to 1)))
  else if (shardRange x).2 ≤ j.i then .done d j.result
  else
    let i := (shardRange x).1 + j.i
    (d.shard ac i).jb tag w (fun d s =>
      if s.role != 1 then d.goOn tag (j.skip 2)
      else if s.step != (n + 2 ^ 64 - 1) % 2 ^ 64 then d.goOn tag (j.skip 1)
      else (d.putShard ac i s.opened).jb tag w (fun d _ => d.goOn tag j.did))

/-- Slots written back to the granary: the weights and every state array, in slot e. -/
def Dev.flushSlots (d : Dev) (ac : Acc) (s : Shard) (e : Nat) : Mv Unit :=
  Mv.each d (fun d r => d.flushRange ac r.1 r.2) ((s.wslot e, s.slotLen) :: (List.range s.nstate).map (fun a => (s.stateSlot a e, s.stateBytes a)))

/-- The partial sums of a shard (R367). -/
def Dev.partials (d : Dev) (ac : Acc) (s : Shard) : Mv (List Word) :=
  (d.engRead ac 6 s.ssqAddr (4 * (s.elems / 256))).bind (fun d bs => .ok d (words32 bs))

/-- A shard sealed (R375). -/
def Dev.sealShard (d : Dev) (ac : Acc) (i : Nat) (s : Shard) : Mv Unit :=
  let e := s.epoch + 1
  (d.foldImage ac s e).bind (fun d f =>
    (d.foldLow ac s e).bind (fun d fl =>
      (d.partials ac s).bind (fun d ps =>
        (d.flushSlots ac s e).bind (fun d _ =>
          let flags := ((s.f 17 1 ||| (if s.staged = s.elems then 0 else 16)) ||| 2) - 1
          d.putShard ac i ((((s.put 17 1 flags).put 72 8 f).put 80 8 (if s.short then s.f 80 8 else fl)).put 92 4 (sumLeft ps).toNat)))))

/-- SEAL, one record: an OWNED one that is not OPEN is passed over. -/
def Dev.sealStep (d : Dev) (tag : Tag) (w : Work) (j : Job) : Jb :=
  let ac := d.jobAcc tag w
  if (shardRange w.desc).2 ≤ j.i then .done d j.result
  else
    let i := (shardRange w.desc).1 + j.i
    (d.shard ac i).jb tag w (fun d s =>
      if s.role != 1 then d.goOn tag (j.skip 2)
      else if !s.flag 0 then d.goOn tag j.next
      else (d.sealShard ac i s).jb tag w (fun d _ => d.goOn tag j.did))

/-- A shard skipped in step n (R364). -/
def Shard.skipped (s : Shard) (n : Nat) : Shard := (s.put 64 8 n).put 17 1 0

/-- A shard flipped to step n with the folds of its staged slot (R380). -/
def Shard.flipped (s : Shard) (n f fl : Nat) : Shard :=
  ((((s.setBit 3 (s.epoch = 0)).put 48 8 f).put 56 8 fl).put 64 8 n).put 17 1 0

/-- One swept element (R186). -/
def sweepVal (c o s : Word) : Word := add32 o (mul32 c (sub32 s o))

/-- A group of 256 elements swept, with the state arrays that take part (R382). -/
def Dev.sweepOnce (d : Dev) (ac : Acc) (i : Nat) (s : Shard) (n : Nat) (c : Word) : Mv Unit :=
  let e := s.epoch
  let p := s.sweepPos
  let blend (o t : List Word) : List Word := (o.zip t).map (fun v => sweepVal c v.1 v.2)
  let parts : List (Nat × Nat) := if s.short then
      [(s.wslot (e + 1) + p * fmtBits s.fmt / 8, 32 * fmtBits s.fmt), (s.wslot (e + 1) + s.elemBytes + p / s.blk, 256 / s.blk)]
    else [(s.wslot (e + 1) + 2 * p, 512), (s.wslot (e + 1) + 2 * s.elems + 2 * p, 512)]
  let arrays := s.sweptArrays
  (d.slotVals ac s e p).bind (fun d o =>
    (d.slotVals ac s (e + 1) p).bind (fun d t =>
      (d.putVals ac s (e + 1) p n 1 (blend o t)).bind (fun d _ =>
        (Mv.each d (fun d a =>
          (d.engRead ac 6 (s.stateSlot a e + 4 * p) 1024).bind (fun d o =>
            (d.engRead ac 6 (s.stateSlot a (e + 1) + 4 * p) 1024).bind (fun d t =>
              d.writeRange ac (s.stateSlot a (e + 1) + 4 * p) ((blend (words32 o) (words32 t)).flatMap (bytesOf 4))))) arrays).bind (fun d _ =>
          (Mv.each d (fun d r => d.flushRange ac r.1 r.2)
            (parts.take (if s.short && s.scale = 0 then 1 else 2) ++ arrays.map (fun a => (s.stateSlot a (e + 1) + 4 * p, 1024)))).bind (fun d _ =>
            (d.putShard ac i (s.put 104 4 (p + 256))).bind (fun d _ => .ok (d.bump updSet 6 256) ()))))))

/-- A group swept and counted as swept, or left as it was (R382). -/
def Dev.sweepGroup (d : Dev) (ac : Acc) (i : Nat) (s : Shard) (n : Nat) (c : Word) : Mv Unit := (d.sweepOnce ac i s n c).whole d

/-- COMMIT, one record or one swept group: the recorded decision applied to a shard (R364, R380, R382). -/
def Dev.commitStep (d : Dev) (tag : Tag) (w : Work) (j : Job) : Jb :=
  let x := w.desc
  let n := fieldB x 16 8
  let ac := d.jobAcc tag w
  (d.stepRec ac n).jb tag w (fun d r =>
    if !r.is 2 n then .done d (j.note 1).result
    else if (shardRange x).2 ≤ j.i then .done d j.result
    else
      let i := (shardRange x).1 + j.i
      (d.shard ac i).jb tag w (fun d s =>
        let mine := (s.step + 1) % 2 ^ 64 = n
        let flip (d : Dev) (s : Shard) (f fl : Nat) : Jb :=
          (d.putShard ac i (s.flipped n f fl)).jb tag w (fun d _ => (d.bump updSet 4 1).goOn tag j.did)
        if s.role != 1 then d.goOn tag (j.skip 2)
        else if s.step = n then d.goOn tag j.next
        else if r.f 9 1 = 0 then
          if mine && (s.flag 0 || s.flag 1) then
            (d.putShard ac i (s.skipped n)).jb tag w (fun d _ => (d.bump updSet 5 1).goOn tag j.did)
          else d.goOn tag j.next
        else if !(mine && s.flag 1) then d.goOn tag (j.skip 13)
        else if r.f 9 1 = 1 then flip d s (s.f 72 8) (s.f 80 8)
        else if s.sweepPos < s.elems then
          (d.sweepGroup ac i s n (BitVec.ofNat 32 (r.f 20 4))).jb tag w (fun d _ => d.goOn tag j)
        else
          (d.foldImage ac s (s.epoch + 1)).jb tag w (fun d f =>
            (d.foldLow ac s (s.epoch + 1)).jb tag w (fun d fl => flip d (s.put 104 4 0) f (if s.short then s.f 80 8 else fl)))))

/-! ## WINNOW_RECOVER (R379) -/

/-- WINNOW_RECOVER: the own record, else the root's. -/
def Dev.recoverStep (d : Dev) (tag : Tag) (w : Work) (j : Job) : Jb :=
  let x := w.desc
  let n := fieldB x 16 8
  let ac := d.jobAcc tag w
  match j.step, j.got with
  | 1, some (st, bs) =>
    if st != 0 then .done d 12
    else
      let r : StepRec := ⟨bs⟩
      if !r.is 2 n then .done d 11
      else
        (d.putStep ac n (decidedBytes n (r.f 9 1) false (r.f 12 4) (BitVec.ofNat 32 (r.f 16 4)) (BitVec.ofNat 32 (r.f 20 4)) (r.f 24 2) d.lt)).jb tag w
          (fun d _ => .done d (decisionResult (r.f 9 1) (r.f 12 4)))
  | _, _ =>
    (d.stepRec ac n).jb tag w (fun d r =>
      if r.is 2 n then .done d (decisionResult (r.f 9 1) (r.f 12 4))
      else if d.linear x = 0 then .done d 11
      else d.ask tag w (j.to 1) (updPkt 3 0 0x13 1 (d.linearAt x 0) n []))

/-! ## FETCH and AUDIT (R387, R388) -/

/-- The header of the owner of a record asked for. -/
def Dev.askHdr (d : Dev) (tag : Tag) (w : Work) (j : Job) (s : Shard) : Jb := d.ask tag w j (updPkt 3 0 0x10 1 s.owner s.ownerIndex [])

/-- STEP and FOLD of a header answer. -/
def hdrStep (bs : List Byte) : Nat := jField bs 16 8
/-- FOLD of a header answer. -/
def hdrFold (bs : List Byte) : Nat := jField bs 24 8

/-- FETCH, one step of a record: 0 and 1 the owner's header, 2 and 3 the data, 4 the header again, 5 SHARD_VERIFY. The count of returns
to the data after a change of STEP is tries mod 4, and tries / 4 says that the data was read again for its fold. -/
def Dev.fetchStep (d : Dev) (tag : Tag) (w : Work) (j : Job) : Jb :=
  let x := w.desc
  let ac := d.jobAcc tag w
  if (shardRange x).2 ≤ j.i then .done d j.result
  else
    let i := (shardRange x).1 + j.i
    (d.shard ac i).jb tag w (fun d s =>
      let again (k : Job) : Job := { k.to 2 with pos := 0, fold := 0 }
      let more (d : Dev) (k : Job) : Jb :=
        if s.imageLen ≤ k.pos then d.askHdr tag w (k.to 4) s
        else d.ask tag w (k.to 3) (updPkt 3 0 0x11 (min 16 (ceilDiv (s.imageLen - k.pos) 64)) s.owner (fld s.ownerIndex 32 + k.pos) [])
      if s.role != 2 then d.goOn tag (j.skip 2)
      else
        match j.step, j.got with
        | 0, _ => d.askHdr tag w (j.to 1) s
        | 2, _ => more d j
        | _, none => .stop d
        | k, some (st, bs) =>
          if k = 5 then d.goOn tag (j.skip 4)
          else if st != 0 then d.goOn tag (j.skip (badAnswer st))
          else if k = 1 then
            if jField bs 0 4 != s.id.toNat then d.goOn tag (j.skip 2)
            else if bitOf (fieldB x 28 1) 0 && s.step = hdrStep bs then
              (d.foldImage ac s 0).jb tag w (fun d f =>
                if f = hdrFold bs then d.goOn tag j.did else (d.bump updSet 8 1).goOn tag (again { j with hdr := bs }))
            else d.goOn tag (again { j with hdr := bs })
          else if k = 3 then
            let n := min 1024 (s.imageLen - j.pos)
            (d.colWrite ac (s.wslot 0 + j.pos) (bs.take n) (fun b => bitOf j.tries (8 + b / 64))).jb tag w (fun d _ =>
              d.goOn tag { j.to 2 with pos := j.pos + n, fold := foldFrom j.fold (bs.take n), tries := j.tries % 256 })
          else if hdrStep bs != hdrStep j.hdr then
            if j.tries % 4 = 3 then d.goOn tag (j.skip 3)
            else (d.bump updSet 7 1).goOn tag (again { j with hdr := bs, tries := j.tries + 1 })
          else if j.fold = hdrFold bs then
            (d.putShard ac i ((s.put 64 8 (hdrStep bs)).put 48 8 (hdrFold bs))).jb tag w (fun d _ => d.goOn tag j.did)
          else if j.tries / 4 % 2 = 0 then d.goOn tag (again { j with tries := j.tries + 4 })
          else d.ask tag w (j.to 5) (updPkt 3 0 0x12 1 s.owner s.ownerIndex []))

/-- An OWNED record re-folded (R388); true when it matches. One that does not is marked CORRUPT, counted and posted. -/
def Dev.refold (d : Dev) (ac : Acc) (i : Nat) (s : Shard) : Mv Bool :=
  (d.foldImage ac s s.epoch).bind (fun d f =>
    (d.foldLow ac s s.epoch).bind (fun d fl =>
      if f = s.fold && (s.short || fl = s.foldLo) then .ok d true
      else
        (d.putShard ac i (s.setBit 4 true)).bind (fun d _ =>
          let (old, new) := if f = s.fold then (s.foldLo, fl) else (s.fold, f)
          .ok ((d.bump updSet 9 1).postUpd 0x8003 (packB [(0, i), (4, s.id.toNat), (8, old), (16, new)])) false)))

/-- AUDIT, one record. -/
def Dev.auditStep (d : Dev) (tag : Tag) (w : Work) (j : Job) : Jb :=
  let ac := d.jobAcc tag w
  if (shardRange w.desc).2 ≤ j.i then .done d j.result
  else
    let i := (shardRange w.desc).1 + j.i
    (d.shard ac i).jb tag w (fun d s =>
      if s.role = 1 then (d.refold ac i s).jb tag w (fun d _ => d.goOn tag j.did)
      else if s.role != 2 then d.goOn tag (j.skip 2)
      else
        match j.step, j.got with
        | 1, some (st, bs) =>
          if st != 0 then d.goOn tag (j.skip (badAnswer st))
          else if hdrStep bs = s.step && hdrFold bs != j.fold then
            (d.putShard ac i (s.put 64 8 (2 ^ 64 - 1))).jb tag w (fun d _ =>
              (d.postUpd 0x8004 (packB [(0, i), (4, s.owner), (8, j.fold), (16, hdrFold bs)])).goOn tag j.did)
          else d.goOn tag j.did
        | _, _ => (d.foldImage ac s 0).jb tag w (fun d f => d.askHdr tag w { j.to 1 with fold := f } s))

/-! ## Stook (R389 to R392) -/

/-- The own buddy region is in service. -/
def Dev.buddyOn (d : Dev) : Bool := bitOf (d.reg 0x120024).toNat 8
/-- The partner's address. -/
def Dev.partner (d : Dev) : Nat := withCoord d.addr 0 (bits (d.reg 0x120024).toNat 2 0)
/-- UPD_BUDDY. -/
def Dev.buddyBase (d : Dev) : Nat := d.wide64 0x12002C
/-- The bytes of UPD_BUDDY_LEN. -/
def Dev.buddyLen (d : Dev) : Nat := 2 ^ 21 * bits (d.reg 0x120030).toNat 15 0
/-- HALF in bytes. -/
def Dev.buddyHalf (d : Dev) : Nat := 2 ^ 21 * (bits (d.reg 0x120030).toNat 15 0 / 2)

/-- A field of a generation header: GEN_SEQ 4, STEP 8, SHARDS 16, COMPLETE byte 20, NEXT_4K 28, DIR_FOLD 32. -/
def genComplete (h : List Byte) : Bool := jField h 0 4 = 0x4B4F4F54 && jField h 20 1 = 1

/-- The newest complete generation (R13, R391). -/
def newestGen (h0 h1 : List Byte) : Option Nat :=
  match genComplete h0, genComplete h1 with
  | true, true => some (if newer (BitVec.ofNat 32 (jField h1 4 4)) (BitVec.ofNat 32 (jField h0 4 4)) then 1 else 0)
  | true, false => some 0
  | false, true => some 1
  | false, false => none

/-- The parts of a shard that Stook keeps: image, then the state arrays of a set, each from a 4 KiB boundary: offset and length. -/
def Shard.stookParts (s : Shard) (states : Nat) : List (Nat × Nat) :=
  ((setBits states 4).foldl (fun (r : List (Nat × Nat)) a =>
    match r.getLast? with
    | some (o, n) => r ++ [(ceilDiv (o + n) 4096 * 4096, s.stateBytes a)]
    | none => r) [(0, s.imageLen)])

/-- The 4 KiB units of parts. -/
def partsUnits (ps : List (Nat × Nat)) : Nat := match ps.getLast? with | some (o, n) => ceilDiv (o + n) 4096 | none => 0

/-- The packets of parts: offset, units of 64 bytes, and bytes that count. -/
def partsChunks (ps : List (Nat × Nat)) : List (Nat × Nat × Nat) :=
  ps.flatMap (fun p => (cutRun p.1 p.2 1024).map (fun c => (c.1, ceilDiv c.2 64, c.2)))

/-- The state arrays that Stook saves. -/
def Shard.saved (s : Shard) : Nat := s.stook % 2 ^ min 4 s.nstate

/-- A read of the partner's region. -/
def Dev.stookGet (d : Dev) (tag : Tag) (w : Work) (j : Job) (off units : Nat) : Jb := d.ask tag w j (updPkt 3 3 0x21 units d.partner off [])
/-- A write of the partner's region. -/
def Dev.stookPut (d : Dev) (tag : Tag) (w : Work) (j : Job) (off : Nat) (bs : List Byte) : Jb :=
  d.ask tag w j (updPkt 2 3 0x20 (ceilDiv bs.length 64) d.partner off (unitsOf bs))

/-- The header of the generation a save writes (R391): fresh with FIRST, else the one that stands. From no complete generation GEN_SEQ
starts at 1 (log 25). -/
def Dev.saveHdr (d : Dev) (n : Nat) (h0 h1 : List Byte) : List Byte :=
  let seq := match newestGen h0 h1 with
    | some g => (jField (if g = 0 then h0 else h1) 4 4 + 1) % 2 ^ 32
    | none => 1
  natLe 64 (packB [(0, 0x4B4F4F54), (4, seq), (8, n), (24, d.addr), (28, 0x201)])

/-- The bytes of a shard's current image and saved state arrays, one after another. -/
def Dev.stookRead (d : Dev) (ac : Acc) (s : Shard) : Mv (List Byte) :=
  (setBits s.saved 4).foldl (fun (m : Mv (List Byte)) a =>
    m.bind (fun d bs => (d.engRead ac 6 (s.stateSlot a s.epoch) (s.stateBytes a)).bind (fun d cs => .ok d (bs ++ cs))))
    (d.engRead ac 6 (s.wslot s.epoch) s.imageLen)

/-- Bytes of a run of parts that start at a chunk's offset. -/
def partsAt (ps : List (Nat × Nat)) (bs : List Byte) (off n : Nat) : List Byte :=
  let r := ps.foldl (fun (r : Option Nat × Nat) p => (if p.1 ≤ off && off < p.1 + p.2 then some (r.2 + (off - p.1)) else r.1, r.2 + p.2)) (none, 0)
  (bs.drop (r.1.getD 0)).take n

/-- STOOK_SAVE: steps 0 to 4 the headers, 5 to 11 a shard, 20 to 25 the end with LAST. The target generation stands in tries. -/
def Dev.saveStep (d : Dev) (tag : Tag) (w : Work) (j : Job) : Jb :=
  let x := w.desc
  let ac := d.jobAcc tag w
  let n := fieldB x 16 8
  let first := bitOf (fieldB x 28 1) 0
  let last := bitOf (fieldB x 28 1) 1
  let base := j.tries * d.buddyHalf
  let i := (shardRange x).1 + j.i
  let dir := 4096 + 32 * jField j.hdr 16 4
  let keep (k : Job) : Job := { k with hdr := j.hdr, tries := j.tries, step := 5 }
  match j.step with
  | 0 => d.stookGet tag w (j.to 1) 0 1
  | 2 => d.stookGet tag w (j.to 3) d.buddyHalf 1
  | 5 =>
    if (shardRange x).2 ≤ j.i then (if last then d.goOn tag { j.to 20 with data := [] } else .done d j.result)
    else
      (d.shard ac i).jb tag w (fun d s =>
        let next := jField j.hdr 28 4
        if s.role != 1 then d.goOn tag (keep (j.skip 2))
        else if d.buddyHalf < 4096 * (next + partsUnits (s.stookParts s.saved)) || 65536 ≤ jField j.hdr 16 4 then d.goOn tag (keep (j.skip 9))
        else (d.stookRead ac s).jb tag w (fun d bs => d.goOn tag { j.to 6 with data := bs, fold := fold64 bs, pos := 0 }))
  | 6 =>
    (d.shard ac i).jb tag w (fun d s =>
      let ps := s.stookParts s.saved
      match (partsChunks ps)[j.pos]? with
      | some (o, u, k) =>
        let bs := partsAt ps j.data o k
        d.stookPut tag w (j.to 7) (base + 4096 * jField j.hdr 28 4 + o) (bs ++ List.replicate (64 * u - bs.length) 0)
      | none => d.stookGet tag w (j.to 8) (base + dir / 64 * 64) 1)
  | 20 =>
    let have_ := j.data.length
    let total := 32 * jField j.hdr 16 4
    if total ≤ have_ then
      d.stookPut tag w (j.to 22) base (patch j.hdr 32 (natLe 8 (fold64 (j.data.take total))))
    else d.stookGet tag w (j.to 21) (base + 4096 + have_) (min 16 (ceilDiv (total - have_) 64))
  | k =>
    match j.got with
    | none => .stop d
    | some (st, bs) =>
      if st != 0 then .done d (j.note (badAnswer st)).result
      else
        match k with
        | 1 => d.goOn tag { j.to 2 with buf := bs }
        | 3 =>
          let g := if newestGen j.buf bs = some 0 then 1 else 0
          let j := { j with tries := g }
          if first then
            let h := d.saveHdr n j.buf bs
            d.stookPut tag w { j.to 4 with hdr := h, buf := [] } (g * d.buddyHalf) h
          else d.goOn tag { j.to 5 with hdr := if g = 0 then j.buf else bs, buf := [] }
        | 4 => d.goOn tag (j.to 5)
        | 7 => d.goOn tag { j.to 6 with pos := j.pos + 1 }
        | 8 =>
          (d.shard ac i).jb tag w (fun d s =>
            let e := natLe 32 (packB [(0, s.id.toNat), (4, s.elems), (8, s.f 8 1), (9, s.f 9 1), (10, s.saved), (12, jField j.hdr 28 4),
              (16, s.step), (24, j.fold)])
            d.stookPut tag w (j.to 9) (base + dir / 64 * 64) (patch bs (dir % 64) e))
        | 9 =>
          (d.shard ac i).jb tag w (fun d s =>
            let h := patch (patch j.hdr 16 (natLe 4 (jField j.hdr 16 4 + 1))) 28 (natLe 4 (jField j.hdr 28 4 + partsUnits (s.stookParts s.saved)))
            d.stookPut tag w { j.to 10 with hdr := h } base h)
        | 10 => (d.bump updSet 10 j.data.length).goOn tag (keep j.did)
        | 21 => d.goOn tag { j.to 20 with data := j.data ++ bs }
        | 22 =>
          let h := patch (patch j.hdr 32 (natLe 8 (fold64 (j.data.take (32 * jField j.hdr 16 4))))) 20 [1]
          d.stookPut tag w (j.to 23) base h
        | _ => .done d j.result

/-- The generation a restore takes (R392). -/
def restoreGen (n : Nat) (h0 h1 : List Byte) : Option Nat :=
  if n = 0 then newestGen h0 h1
  else
    let is (h : List Byte) : Bool := genComplete h && jField h 8 8 = n
    match is h0, is h1 with
    | true, true => newestGen h0 h1
    | true, false => some 0
    | false, true => some 1
    | false, false => none

/-- The directory entry of a SHARD_ID: its place. -/
def dirFind (dir : List Byte) (n id : Nat) : Option Nat := firstWhere (fun k => jField dir (32 * k) 4 = id) n

/-- A shard restored from its data (R392, steps 2 to 6). -/
def Dev.restoreShard (d : Dev) (ac : Acc) (i : Nat) (s : Shard) (states step : Nat) (data : List Byte) : Mv Unit :=
  let img := data.take s.imageLen
  let s' := ((((((s.setBit 3 false).setBit 4 false).put 48 8 (fold64 img)).put 56 8 (if s.short then s.foldLo else fold64 (List.replicate (2 * s.elems) 0))).put
    64 8 step).put 17 1 0)
  (d.writeRange ac (s.wslot 0) (img ++ (if s.short then [] else List.replicate (2 * s.elems) 0))).bind (fun d _ =>
    ((List.range s.nstate).foldl (fun (m : Mv Nat) a =>
      m.bind (fun d o =>
        let n := s.stateBytes a
        if bitOf states a then (d.writeRange ac (s.stateSlot a 0) ((data.drop o).take n)).bind (fun d _ => .ok d (o + n))
        else (d.writeRange ac (s.stateSlot a 0) (List.replicate n 0)).bind (fun d _ => .ok d o))) (.ok d s.imageLen)).bind (fun d _ =>
      (d.writeRange ac (s.f 112 8) (List.replicate (128 * s.f 108 4) 0xFF)).bind (fun d _ =>
        (d.flushSlots ac s 0).bind (fun d _ => d.putShard ac i s'))))

/-- STOOK_RESTORE: steps 0 to 3 the headers, 4 and 5 the directory, 6 to 8 a shard. The generation stands in tries, the header in hdr,
the directory in buf. -/
def Dev.restoreStep (d : Dev) (tag : Tag) (w : Work) (j : Job) : Jb :=
  let x := w.desc
  let ac := d.jobAcc tag w
  let base := j.tries * d.buddyHalf
  let total := 32 * jField j.hdr 16 4
  let i := (shardRange x).1 + j.i
  let keep (k : Job) : Job := { k with hdr := j.hdr, buf := j.buf, tries := j.tries, step := 6 }
  match j.step with
  | 0 => d.stookGet tag w (j.to 1) 0 1
  | 2 => d.stookGet tag w (j.to 3) d.buddyHalf 1
  | 4 =>
    if total ≤ j.buf.length then
      if fold64 (j.buf.take total) = jField j.hdr 32 8 then d.goOn tag (j.to 6) else .done d (j.note 6).result
    else d.stookGet tag w (j.to 5) (base + 4096 + j.buf.length) (min 16 (ceilDiv (total - j.buf.length) 64))
  | 6 =>
    if (shardRange x).2 ≤ j.i then .done d j.result
    else
      (d.shard ac i).jb tag w (fun d s =>
        if s.role != 1 then d.goOn tag (keep (j.skip 2))
        else
          match dirFind j.buf (jField j.hdr 16 4) s.id.toNat with
          | none => d.goOn tag (keep j.next)
          | some _ => d.goOn tag { j.to 7 with pos := 0, data := [], bad := false })
  | k =>
    if k = 7 then
      (d.shard ac i).jb tag w (fun d s =>
        let e := 32 * (dirFind j.buf (jField j.hdr 16 4) s.id.toNat).getD 0
        let states := jField j.buf (e + 10) 1 % 2 ^ min 4 s.nstate
        match (partsChunks (s.stookParts states))[j.pos]? with
        | some (o, u, _) => d.stookGet tag w (j.to 8) (base + 4096 * jField j.buf (e + 12) 4 + o) u
        | none =>
          if j.bad || fold64 j.data != jField j.buf (e + 24) 8 then
            (d.putShard ac i (s.setBit 4 true)).jb tag w (fun d _ =>
              (d.postUpd 0x8006 (packB [(0, i), (2, j.tries), (4, jField j.hdr 4 4)])).goOn tag (keep (j.skip 7)))
          else
            (d.restoreShard ac i s states (jField j.buf (e + 16) 8) j.data).jb tag w (fun d _ =>
              (d.bump updSet 10 j.data.length).goOn tag (keep j.did)))
    else
      match j.got with
      | none => .stop d
      | some (st, bs) =>
        if st != 0 then .done d (j.note (badAnswer st)).result
        else
          match k with
          | 1 => d.goOn tag { j.to 2 with buf := bs }
          | 3 =>
            match restoreGen (fieldB x 16 8) j.buf bs with
            | none => .done d (j.note 6).result
            | some g => d.goOn tag { j.to 4 with tries := g, hdr := if g = 0 then j.buf else bs, buf := [] }
          | 5 => d.goOn tag { j.to 4 with buf := j.buf ++ bs }
          | _ =>
            (d.shard ac i).jb tag w (fun d s =>
              let e := 32 * (dirFind j.buf (jField j.hdr 16 4) s.id.toNat).getD 0
              let states := jField j.buf (e + 10) 1 % 2 ^ min 4 s.nstate
              let n := match (partsChunks (s.stookParts states))[j.pos]? with | some (_, _, n) => n | none => 0
              d.goOn tag { j.to 7 with pos := j.pos + 1, data := j.data ++ bs.take n })

/-! ## JOURNAL_RESOLVE (R395) -/

/-- The root's DONE taken up, or a rollback. -/
def Dev.resolveWith (d : Dev) (tag : Tag) (w : Work) (j : Job) (done : Nat) : Jb :=
  let x := w.desc
  let ac := d.jobAcc tag w
  let at_ := fieldB x 16 8
  (d.engRead ac 6 at_ 64).jb tag w (fun d h =>
    if bitOf (fieldB x 28 1) 0 then
      if done ≤ jField h 8 4 then
        (d.putSector ac at_ (patch (patch h 12 (natLe 4 0)) 16 [1])).jb tag w (fun d _ => .done d j.result)
      else .done d (j.note 8).result
    else
      (d.putSector ac at_ (patch h 12 (natLe 4 done))).jb tag w (fun d _ => .done d ({ j with count := done } : Job).result))

/-- JOURNAL_RESOLVE. -/
def Dev.journalStep (d : Dev) (tag : Tag) (w : Work) (j : Job) : Jb :=
  let x := w.desc
  let ac := d.jobAcc tag w
  match j.step, j.got with
  | 1, some (st, bs) => if st != 0 then .done d (j.note (badAnswer st)).result else d.resolveWith tag w j (jField bs 12 4)
  | _, _ =>
    if d.linear x = 0 then (d.engRead ac 6 (fieldB x 16 8) 64).jb tag w (fun d h => d.resolveWith tag w j (jField h 12 4))
    else d.ask tag w (j.to 1) (updPkt 3 0 0x14 1 (d.linearAt x 0) (fieldB x 16 8) [])

/-! ## Running a job -/

/-- One stretch of a job. -/
def Dev.jobStep (d : Dev) (tag : Tag) (w : Work) (j : Job) : Jb :=
  match dOp w.desc with
  | 0x700 => d.stepOpenStep tag w j
  | 0x702 => d.sealStep tag w j
  | 0x704 => d.commitStep tag w j
  | 0x705 => d.recoverStep tag w j
  | 0x706 => d.fetchStep tag w j
  | 0x707 => d.auditStep tag w j
  | 0x708 => d.saveStep tag w j
  | 0x709 => d.restoreStep tag w j
  | _ => d.journalStep tag w j

/-- A job run until it waits or ends. One that reached a retired channel stops at its next step (R436). -/
def Dev.jobRun (tag : Tag) : Nat → Dev → Dev
  | 0, d => d
  | n + 1, d =>
    match d.work tag, d.job tag with
    | some w, some j =>
      if w.phase != .dispatched || j.wait.isSome then d
      else if w.marked then d.finishWork tag 9 0
      else
        match d.jobStep tag w j with
        | .more d => Dev.jobRun tag n d
        | .stop d => d
        | .done d r => d.finishWork tag 0 r
    | _, _ => d

/-- The stretches one command runs at most: enough for the largest range of shards; a longer one goes on with the next command. -/
def jobFuel : Nat := 1048576

/-- An opcode command of a shard unit. -/
def Dev.jobOp (d : Dev) (tag : Tag) (op : Nat) : Dev :=
  match d.running tag op with
  | none => d
  | some _ => Dev.jobRun tag jobFuel d

/-- A job's transaction has ended: the answer is taken and the job goes on (R313). -/
def Dev.jobGot (d : Dev) (tag : Tag) (status : Nat) (pkt : Packet) : Dev :=
  match d.job tag with
  | none => d
  | some j =>
    let poison := pkt.f 143 128
    let fetch : Bool := match d.work tag with | some w => dOp w.desc = 0x706 | none => false
    Dev.jobRun tag jobFuel (d.setJob tag { j with
      wait := none
      got := some (status, pkt.payload)
      bad := j.bad || poison != 0
      tries := if fetch then j.tries % 256 + fld poison 8 else j.tries })

/-- STEP_OPEN (R365). -/
def execStepOpen (tag : Tag) (s : State) : Host.Outcome State Fault Refusal := s.onDev (fun d => d.jobOp tag 0x700)
/-- SEAL (R375). -/
def execSeal (tag : Tag) (s : State) : Host.Outcome State Fault Refusal := s.onDev (fun d => d.jobOp tag 0x702)
/-- COMMIT (R380). -/
def execCommit (tag : Tag) (s : State) : Host.Outcome State Fault Refusal := s.onDev (fun d => d.jobOp tag 0x704)
/-- WINNOW_RECOVER (R379). -/
def execWinnowRecover (tag : Tag) (s : State) : Host.Outcome State Fault Refusal := s.onDev (fun d => d.jobOp tag 0x705)
/-- FETCH (R387). -/
def execFetch (tag : Tag) (s : State) : Host.Outcome State Fault Refusal := s.onDev (fun d => d.jobOp tag 0x706)
/-- AUDIT (R388). -/
def execAudit (tag : Tag) (s : State) : Host.Outcome State Fault Refusal := s.onDev (fun d => d.jobOp tag 0x707)
/-- STOOK_SAVE (R391). -/
def execStookSave (tag : Tag) (s : State) : Host.Outcome State Fault Refusal := s.onDev (fun d => d.jobOp tag 0x708)
/-- STOOK_RESTORE (R392). -/
def execStookRestore (tag : Tag) (s : State) : Host.Outcome State Fault Refusal := s.onDev (fun d => d.jobOp tag 0x709)
/-- JOURNAL_RESOLVE (R395). -/
def execJournalResolve (tag : Tag) (s : State) : Host.Outcome State Fault Refusal := s.onDev (fun d => d.jobOp tag 0x70B)

/-! ## The reads and writes served to peers (R386, R389, R397) -/

/-- What serving a request comes to: an answer, or none while it must wait in its port. -/
inductive Svc where
  | answer (d : Dev) (status : Nat) (data : List Rec64) (poison : Nat)
  | hold (d : Dev)

/-- An access made for a peer: a fault leaves its address outside every window (log 24). -/
def Mv.svc {α : Type} (m : Mv α) (k : Dev → α → Svc) : Svc :=
  match m with
  | .ok d x => k d x
  | .fault d _ _ => .answer d 4 [] 0
  | .wait d _ => .hold d
  | .stall d _ => .hold d

/-- Bytes read for a peer as they travel: with the units that are poisoned, and whether all could be read. -/
def Dev.svcRead (d : Dev) (c : CtxId) (iova units : Nat) : Mv (List Byte × Nat × Bool) :=
  (d.readRange (d.updAcc c) iova (64 * units)).bind (fun d r =>
    let poison := ((List.range units).map (fun u => fld (b2n (badAt r.1 iova (iova + 64 * u))) u)).sum
    .ok d (gotBytes r.1 iova (64 * units), poison, r.1.all (fun g => g.blk.isSome)))

/-- An answer with the data read. -/
def Svc.give (d : Dev) (r : List Byte × Nat × Bool) : Svc := if r.2.2 then .answer d 0 (unitsOf r.1) r.2.1 else .answer d 3 [] 0

/-- A request about a shard of this device (R386): the record must be OWNED and not CORRUPT. -/
def Dev.ownShard (d : Dev) (c : CtxId) (i : Nat) (k : Dev → Shard → Svc) : Svc :=
  if d.shardCount ≤ i then .answer d 4 [] 0
  else
    (d.shard (d.updAcc c) i).svc (fun d s =>
      if s.role != 1 || s.corrupt then .answer d 4 [] 0 else k d s)

/-- What serving a request consumed as poison is reported once (R286). -/
def Svc.report (c : CtxId) : Svc → Svc
  | .answer d st data poison =>
    match d.upd.ate with
    | some a => .answer (({ d with upd := { d.upd with ate := none } } : Dev).sayPoison c 255 6 a) st data poison
    | none => .answer d st data poison
  | .hold d => .hold d

/-- The engine's answer to a READ_REQ of VC 0. -/
def Dev.serveRead (d : Dev) (pkt : Packet) : Svc :=
  match d.updCtx with
  | none => .answer d 4 [] 0
  | some c =>
    let d := { d with upd := { d.upd with ate := none } }
    let i := pkt.addr % 65536
    Svc.report c (match pkt.op with
    | 0x10 => d.ownShard c i (fun d s =>
        .answer d 0 [BitVec.ofNat 512 (packB [(0, s.f 0 10), (16, s.step), (24, s.fold)])] 0)
    | 0x11 =>
      let off := pkt.addr % 2 ^ 32
      d.ownShard c (bits pkt.addr 47 32) (fun d s =>
        if s.imageLen ≤ off then .answer d 4 [] 0
        else
          (d.svcRead c (s.wslot s.epoch + off) pkt.len).svc (fun d r =>
            let (i, d) := d.takeFresh
            let bs := r.1.take (s.imageLen - off)
            Svc.give d (bs ++ (List.range (64 * pkt.len - bs.length)).map (Config.freeByte i), r.2)))
    | 0x12 => d.ownShard c i (fun d s =>
        (d.refold (d.updAcc c) i s).svc (fun d ok => .answer d 0 [BitVec.ofNat 512 (b2n ok)] 0))
    | 0x13 => (d.svcRead c (d.stepAt pkt.addr) 1).svc Svc.give
    | _ => (d.svcRead c pkt.addr 1).svc Svc.give)

/-- A STOOK request's range lies in the buddy region and its sender is the partner (R389). -/
def Dev.stookOk (d : Dev) (pkt : Packet) : Bool := d.buddyOn && pkt.src = d.partner && pkt.addr + 64 * pkt.len ≤ d.buddyLen

/-- A STOOK request reaches no hole and no group that does not serve (R267). -/
def Dev.stookServes (d : Dev) (pkt : Packet) : Bool :=
  (List.range pkt.len).all (fun u =>
    let a := d.buddyBase + pkt.addr + 64 * u
    d.groupServes (groupOf a) && !d.hole a)

/-- STOOK_READ (R389, R397). -/
def Dev.serveStookRead (d : Dev) (pkt : Packet) : Svc :=
  if !d.stookOk pkt then .answer d 4 [] 0
  else
    let a := d.buddyBase + pkt.addr
    if !d.stookServes pkt then .answer d 3 [] 0
    else
      let r := (List.range pkt.len).foldl (fun (r : Dev × List Rec64 × Nat) u =>
        let (d, bs, bad) := r.1.dpaRead (a + 64 * u) 64
        (d, r.2.1 ++ [if bad.isSome then 0 else recOf bs], r.2.2 + fld (b2n bad.isSome) u)) (d, [], 0)
      .answer r.1 0 r.2.1 r.2.2

/-- STOOK_WRITE (R389, R397): answered after the granary write, which a write hold of its channel delays (R272). -/
def Dev.serveStookWrite (d : Dev) (pkt : Packet) : Svc :=
  if !d.stookOk pkt then .answer d 4 [] 0
  else
    let a := d.buddyBase + pkt.addr
    if !d.stookServes pkt then .answer d 3 [] 0
    else if (List.range pkt.len).any (fun u => (d.chan (d.chanOf (a + 64 * u)).1).hold) then .hold d
    else
      let d := (List.range pkt.len).foldl (fun (d : Dev) u =>
        if pkt.bad u then (d.granWrite ((a + 64 * u) / 64) Blk.bad).1
        else d.dpaWrite (a + 64 * u) (bytesOf 64 (pkt.data.getD u 0))) d
      .answer d 0 [] 0

/-! ## Hoppers and the UPDATE instructions (R368, R371, R372) -/

/-- The slot of the RS_UPDATE with a COLL_ID. -/
def Dev.rsSlot (d : Dev) (coll : Nat) : Option (Nat × Slot) :=
  d.col.slots.find? (fun e => e.2.id = coll && match d.work e.2.tag with | some w => dOp w.desc = 0x701 | none => false)

/-- HOPPER_DELIVERY: the oldest arrival formed for a core enters its Hopper, and HOP_TOKEN is signalled. -/
def Dev.hopDeliver (d : Dev) (core : Nat) : Dev :=
  match d.upd.formed.find? (fun f => f.core = core) with
  | none => d
  | some f =>
    if 16 ≤ (d.core core).hopper.length || !d.on (clusterOf core) then d
    else
      match d.shard (match d.rsSlot f.arr.coll with | some (_, t) => d.colAcc t.tag | none => d.updAcc (d.updCtx.getD 0)) f.arr.shard with
      | .ok d s =>
        let d := { d with upd := { d.upd with formed := d.upd.formed.erase f } }
        let d := d.modCore core (fun k => { k with hopper := k.hopper ++ [f.arr] })
        let d := match d.signal core false (s.hopToken % 32) 1 with
          | some d => d
          | none =>
            match d.rsSlot f.arr.coll with
            | some (_, t) => (match d.work t.tag with | some w => d.parkAt t.tag w core | none => d)
            | none => d
        d.runSlots
      | _ => d

/-- HOPPER_DELIVERY (R368). -/
def execHopperDelivery (core : CoreId) (s : State) : Host.Outcome State Fault Refusal := s.onDev (fun d => d.hopDeliver core)

/-- The peer that an empty Hopper waits for (R346, R372), and whether its last packet was throttled. -/
def Dev.hopPeer (d : Dev) : Option (Nat × Bool) :=
  d.col.slots.findSome? (fun e =>
    match d.work e.2.tag with
    | some w => if dOp w.desc = 0x701 && !e.2.isOver then (d.awaited w.desc e.2).map (fun a => (a, e.2.thr.contains a)) else none
    | none => none)

/-- An UPDATE operation: licence, reserved fields, the engine's own context; one that is accepted counts as BUSY (R373). -/
def Dev.update (d : Dev) (a : At) (w : IWord) (op rsv : Nat) (f : Dev → CtxId → Nat → Res) : Dev :=
  d.issue a w (iClass w = 10 && wf w 58 56 = op) (fun d c i =>
    if !bitOf (d.licOf a.core) 0 then .trap d 6 0 none
    else if w.toNat &&& rsv != 0 || d.updCtx != some c then .trap d 1 0 none
    else
      match f d c i with
      | .done d => .done (d.modCore a.core (fun k => { k with busy := k.busy + 1 }))
      | r => r)

/-- Keys of the 256 words that a TB and ROW4 name (R371). -/
def updKey (w : IWord) : Nat := tileKey (wf w 55 53) (4 * wf w 52 51) 0

/-- HPOP (R372). Poisoned units are consumed as zeros; their DPA on the sender is not known here and is a free value (log 2). -/
def execHpop (at_ : At) (w : IWord) (s : State) : Host.Outcome State Fault Refusal :=
  s.onDev (fun d => d.update at_ w 0 0x0007FE007FFFFFFF (fun d c i =>
    let k := d.core at_.core
    match k.hopper with
    | [] =>
      match d.hopPeer with
      | some (p, true) => .stall (d.modCore at_.core (fun k => { k with peer := BitVec.ofNat 32 (p + 2 ^ 31) })) 8
      | _ => .stall d 1
    | a :: rest =>
      let bs := a.data.flatMap (fun b => if b.poison then zero64 else b.bytes)
      let (n, d) := d.takeFresh
      let d := d.setCore at_.core { k with hopper := rest, t := Tbl.paste k.t (updKey w) 256 (wordsOf 0 bs) }
      let d := d.eat at_.core c 6 (if a.data.any (·.poison) then some (Config.freeWord n).toNat else none)
      .done ((d.setSreg at_.core i (wf w 40 36) (BitVec.ofNat 32 a.elem)).setSreg at_.core i (wf w 35 31) (BitVec.ofNat 32 a.shard))))

/-- The shard an UPDATE operation names, when it may (R372). -/
def Dev.updShard (d : Dev) (ac : Acc) (core i : Nat) (w : IWord) (f : Dev → Nat → Shard → Res) : Res :=
  let si := (d.sreg core i (wf w 50 46)).toNat % 65536
  if d.shardCount ≤ si then .trap d 1 0 none
  else (d.shard ac si).res (fun d s => if s.role != 1 then .trap d 1 0 none else f d si s)

/-- The element index of STAGE and LOAD_OLD. -/
def Dev.updElem (d : Dev) (core i : Nat) (w : IWord) (s : Shard) (f : Nat → Res) : Res :=
  let x := (d.sreg core i (wf w 45 41)).toNat
  if x % 256 != 0 || s.elems ≤ x then .trap d 1 0 none else f x

/-- The byte ranges of slot e that hold elements i to i + 255. -/
def Shard.spans (s : Shard) (e i : Nat) : List (Nat × Nat) :=
  if s.short then
    let w := fmtBits s.fmt
    (s.wslot e + i * w / 8, 32 * w) :: (if s.scale = 0 then [] else [(s.wslot e + s.elemBytes + i / s.blk, 256 / s.blk)])
  else [(s.wslot e + 2 * i, 512), (s.wslot e + 2 * s.elems + 2 * i, 512)]

/-- STAGE (R372): every page is translated before anything is written (R282). -/
def execStage (at_ : At) (w : IWord) (s : State) : Host.Outcome State Fault Refusal :=
  s.onDev (fun d => d.update at_ w 1 0x000001FFFFFFFFFF (fun d c i =>
    let ac := d.coreAcc at_.core i c
    d.updShard ac at_.core i w (fun d si sh =>
      d.updElem at_.core i w sh (fun x =>
        if !sh.flag 0 then
          (d.putShard ac si (sh.setFlags 32)).res (fun d _ => .done (d.bump updSet 2 1))
        else
          let vs := (List.range 256).map (fun e => Tbl.get (d.core at_.core).t (updKey w + e) 0)
          (Mv.each d (fun d r => d.probe ac true (pageStarts r.1 r.2)) ((d.shardAt si, 128) :: sh.spans (sh.epoch + 1) x)).res (fun d _ =>
            (d.putVals ac sh (sh.epoch + 1) x (sh.step + 1) 0 vs).res (fun d _ =>
              (d.putShard ac si (sh.put 88 4 (sh.staged + 256))).res (fun d _ => .done d)))))))

/-- LOAD_OLD (R372). -/
def execLoadOld (at_ : At) (w : IWord) (s : State) : Host.Outcome State Fault Refusal :=
  s.onDev (fun d => d.update at_ w 2 0x000001FFFFFFFFFF (fun d c i =>
    let ac := d.coreAcc at_.core i c
    d.updShard ac at_.core i w (fun d _ sh =>
      d.updElem at_.core i w sh (fun x =>
        (d.slotVals ac sh sh.epoch x).res (fun d vs =>
          .done (d.modCore at_.core (fun k => { k with t := Tbl.paste k.t (updKey w) 256 (wordsOf 0 (vs.flatMap (bytesOf 4))) })))))))

/-- SLOT_ADDR (R372). -/
def execSlotAddr (at_ : At) (w : IWord) (s : State) : Host.Outcome State Fault Refusal :=
  s.onDev (fun d => d.update at_ w 3 0x00F83E0007FFFFFF (fun d c i =>
    d.updShard (d.coreAcc at_.core i c) at_.core i w (fun d _ sh =>
      let a := wf w 30 28
      if sh.nstate < a then .trap d 1 0 none
      else
        let e := sh.epoch + wf w 27 27
        let v := if a = 0 then sh.wslot e else sh.stateSlot (a - 1) e
        .done ((d.setSreg at_.core i (wf w 40 36) (BitVec.ofNat 32 v)).setSreg at_.core i (wf w 35 31) (BitVec.ofNat 32 (v / 2 ^ 32))))))

/-! ## Set-up (R356, R389, R399) -/

/-- A refused write (R399): 1 BUSY, 2 BAD_VALUE. -/
def Dev.updRefuse (d : Dev) (off result : Nat) : Dev := { d with upd := { d.upd with cfgOff := off % 256, cfgResult := result } }

/-- UPD_CTX (R399): refused while the context it names, or the one it is to name, is active. -/
def Dev.writeUpdCtx (d : Dev) (val : Word) : Dev :=
  let live (c : Nat) : Bool := (d.ctx c).state.live
  if (match d.updCtx with | some c => live c | none => false) || live (bits val.toNat 7 0) then d.updRefuse 0x04 1
  else d.setReg 0x120004 (BitVec.ofNat 32 (bits val.toNat 8 0))

/-- UPD_CTX (R356). -/
def execUpdCtx (val : Word) (s : State) : Host.Outcome State Fault Refusal := s.onDev (fun d => d.atReg .pcie 0x120004 (fun d => d.writeUpdCtx val))

/-- UPD_STOOK_CFG, UPD_BUDDY and UPD_BUDDY_LEN (R389, R399). EN = 1 drops the region's lines without write-back. -/
def Dev.writeStook (d : Dev) (off val : Nat) : Dev :=
  match off with
  | 0x120024 =>
    let partner := bits val 2 0
    if !bitOf val 8 then d.setReg off (BitVec.ofNat 32 partner)
    else if partner = coordOf d.addr 0 then d.updRefuse off 2
    else
      let lo := d.buddyBase
      let d := { d with mm := { d.mm with lines := d.mm.lines.filter (fun l => !(lo ≤ 256 * l.num && 256 * l.num < lo + d.buddyLen)) } }
      d.setReg off (BitVec.ofNat 32 (partner + 256))
  | 0x120028 => if d.buddyOn then d.updRefuse off 1 else d.setReg off (BitVec.ofNat 32 (fld (bits val 31 21) 21))
  | 0x12002C =>
    if d.buddyOn then d.updRefuse off 1
    else (d.setReg off (BitVec.ofNat 32 val)).setWide off ((d.reg 0x120028).toNat + fld val 32)
  | 0x120030 => if bits val 15 0 % 2 = 1 then d.updRefuse off 2 else d.setReg off (BitVec.ofNat 32 (bits val 15 0))
  | _ => d

/-- UPD_STOOK_CFG (R389). -/
def execUpdStookCfg (off val : Word) (s : State) : Host.Outcome State Fault Refusal := s.onDev (fun d => d.atReg .pcie 0x120024 (fun d => d.writeStook off.toNat val.toNat))

end Sys2Proof.Machine
end

