-- ==== Sys2Proof/Machine/Engines.lean ====
section
/-!
DEFINITION. Sys2Proof/Machine/Engines.lean: the fabric's commands (10): ports, training, flits, LINK records, packets at the router
and at the endpoint, and what the collective and update engines take up from them. A packet command acts on the packet it names, which
leaves the port's receive buffer when it lies there.
-/
namespace Sys2Proof.Machine

/-! ## What the engines take up (R318, R327) -/

/-- The role of the first hop towards an address; the direction is that of a ring between the two members of a dimension of size 2 (R316,
R340). -/
def Dev.firstRole (d : Dev) (dst : Nat) (dir : Option Bool) : Option Nat :=
  match [1, 2, 3].find? (fun k => coordOf dst k != coordOf d.addr k) with
  | some k =>
    let s := d.dimSize k
    let t := (coordOf dst k + s - coordOf d.addr k) % s
    let up := if s = 2 then dir.getD true else t ≤ s - t
    some ((match k with | 1 => 7 | 2 => 9 | _ => 11) + b2n (!up))
  | none =>
    let x := coordOf d.addr 0 ^^^ coordOf dst 0
    if x = 0 then none else some (x - 1)

/-- The members a collective of this member sends to, with the direction of a ring. -/
def Dev.targets (d : Dev) (x : Rec64) : List (Nat × Option Bool) :=
  if dOp x = 0x603 || dOp x = 0x703 || dOp x = 0x70A then (d.others x).map (fun a => (a, none))
  else (dimsOf x).flatMap (fun m =>
    let i := d.dimIndex m d.addr
    if m.dim = 0 || cTree x then ((List.range m.n).filter (fun j => j != i)).map (fun j => (d.memberAt m j, none))
    else [(d.memberAt m ((i + 1) % m.n), some true), (d.memberAt m ((i + m.n - 1) % m.n), some false)])

/-- Traffic to an address is bound to a port: the port of its first hop's role or the double of that (R327). -/
def Dev.boundTo (d : Dev) (p dst : Nat) (dir : Option Bool) : Bool :=
  match d.firstRole dst dir with
  | none => false
  | some r => d.roleOf p = r || doubleOf r = some (d.roleOf p)

/-- The tags of the collectives bound to a port. -/
def Dev.boundColls (d : Dev) (p : Nat) : List Tag :=
  (d.col.slots.filter (fun e => !e.2.isOver && e.2.k != 0 && match d.work e.2.tag with
    | some w => (d.targets w.desc).any (fun a => a.1 != d.addr && d.boundTo p a.1 a.2)
    | none => false)).map (·.2.tag)

/-- The tags of the shard-unit jobs with a transaction bound to a port. -/
def Dev.boundJobs (d : Dev) (p : Nat) : List Nat :=
  (d.upd.jobs.filter (fun e => match e.2.wait with
    | some t => (match Tbl.find d.fab.tags t with | some x => d.boundTo p x.pkt.dst none | none => false)
    | none => false)).map (·.1)

/-- A port retired a lane or itself: the work bound to it ends with UNIT_RETIRED (R327). -/
def Dev.portLost (d : Dev) (p : Nat) : Dev :=
  let detail := if (d.port p).state = .retired then 3 else 2
  let jobs := d.boundJobs p
  let d := (d.boundColls p).foldl (fun d t => d.abortColl t 8 d.addr detail true) d
  jobs.foldl (fun d t => if h : t < 16384 then
    match d.work t with
    | some w => if w.phase = .dispatched then (d.modWork t (fun w => w.blame 4 detail d.lt)).finishWork ⟨t, h⟩ 9 0 else d
    | none => d else d) d

/-- An own packet that came back: its transaction or collective learns that it is UNREACHABLE (R318, R347). -/
def Dev.cameBack (d : Dev) (pkt : Packet) : Dev :=
  if pkt.type = 2 || pkt.type = 3 then
    match Tbl.find d.fab.tags pkt.tag with
    | some x => d.endXact pkt.tag x 3 pkt
    | none => d
  else if pkt.type = 6 || pkt.type = 7 then
    match d.slotFor pkt with
    | some (_, s) => d.abortColl s.tag 6 d.addr 0 true
    | none => d
  else d

/-- What the fabric left for the engines taken up, as long as something is left. -/
def Dev.settleFab : Nat → Dev → Dev
  | 0, d => d
  | n + 1, d =>
    if d.fab.returned.isEmpty && d.fab.ended.isEmpty && d.fab.lost.isEmpty && !d.fab.handed then d
    else
      let sent := d.fab.handed
      let r := d.fab.returned
      let e := d.fab.ended
      let l := d.fab.lost
      let d := { d with fab := { d.fab with returned := [], ended := [], lost := [], handed := false } }
      let d := l.foldl (fun d p => d.portLost p) d
      let d := r.foldl (fun d q => d.cameBack q) d
      let d := e.foldl (fun d x => if h : x.1 < 16384 then d.jobGot ⟨x.1, h⟩ x.2.1 x.2.2 else d) d
      Dev.settleFab n (if sent then d.runSlots else d)

/-- The shape of a fabric command. -/
def State.onFab (s : State) (f : Dev → Dev) : Host.Outcome State Fault Refusal := s.onDev (fun d => Dev.settleFab 8 (f d))

/-! ## Enabling ports (R298, R299, R322) -/

/-- A refused fabric write (R332): 1 UNLICENSED, 2 ADDR_BUSY, 3 BAD_ROLE, 4 BAD_VALUE. -/
def Dev.fabRefuse (d : Dev) (p result : Nat) : Dev := { d with fab := { d.fab with cfgPort := p, cfgResult := result } }

/-- A role cannot be taken: none, of a dimension of size 1, or held by the other of P17 and its regular port. -/
def Dev.roleBad (d : Dev) (p : Nat) : Bool :=
  let r := d.roleOf p
  16 < r || (dimOfRole r != 0 && d.dimSize (dimOfRole r) = 1)
    || (if p = 17 then (d.port r).en && (d.port r).state != .retired else (d.port 17).role = r)

/-- PORT_ENABLE. -/
def Dev.portEnable (d : Dev) (lic p : Nat) : Dev :=
  let x := d.port p
  if !d.portOn p || x.en then d
  else if d.roleBad p then d.fabRefuse p 3
  else if !bitOf lic 2 && 8 ≤ ((List.range 18).filter (fun q => (d.port q).en)).length then d.fabRefuse p 1
  else if x.state = .disabled then d.setPort p { x with en := true, state := .training, attempts := 0, since := d.lt, peer := none, rejoin := false }
  else d.setPort p { x with en := true }

/-- PORT_ENABLE (R322). -/
def execPortEnable (p : PortId) (s : State) : Host.Outcome State Fault Refusal := s.onFab (fun d => d.atReg .pcie (portBase p) (fun d => d.portEnable s.sec.lic p))

/-- PORT_DISABLE: a retired port stays RETIRED (R322). -/
def Dev.portDisable (d : Dev) (p : Nat) : Dev :=
  let x := d.port p
  if !d.portOn p then d
  else if x.state = .retired || x.state = .disabled then d.setPort p { x with en := false }
  else (d.setPort p { x with en := false, state := .disabled, width := 0, peer := none, rejoin := false }).evacuate p

/-- PORT_DISABLE (R322). -/
def execPortDisable (p : PortId) (s : State) : Host.Outcome State Fault Refusal := s.onFab (fun d => d.atReg .pcie (portBase p) (fun d => d.portDisable p))

/-- RETRAIN (R322, R332). -/
def execRetrain (p : PortId) (s : State) : Host.Outcome State Fault Refusal :=
  s.onFab (fun d => if (d.port p).state = .up && d.reaches .pcie (portBase p) then d.startRetrain p else d)

/-! ## Training (R322, R323, R461, R465, R466) -/

/-- What a training used: SAVED without settings runs SEARCH and falls back; a record that could not be read forces SEARCH (R463). -/
def Dev.trainUse (d : Dev) (u : Nat) : Nat × Bool :=
  if d.fl.noRecord then (2, false)
  else
    let m := d.trainMode
    let fell := m = 1 && !d.fl.cur.modes.contains (d.trainKey u) && !d.rs.session.contains (d.trainKey u)
    (if fell then 2 else m, fell)

/-- RST_TRAIN_RESULT written after a training; settings found by a search are kept for the session and, where the record can be
written, in it (R465, R494). -/
def Dev.trainDone (d : Dev) (u attempts since : Nat) (ok : Bool) : Dev :=
  let (m, fell) := d.trainUse u
  let key := d.trainKey u
  let save : Bool := ok && m = 2 && d.fl.writable
  let add (l : List Nat) (b : Bool) : List Nat := if b && !l.contains key then l ++ [key] else l
  let v := m + fld (b2n fell) 2 + fld (min attempts 3) 3 + fld (b2n save) 8 + fld (min 65535 ((d.lt - since) / 100000)) 16
  { d with
    rs := { d.rs with
      train := Tbl.set d.rs.train u (BitVec.ofNat 32 v) 0
      session := add d.rs.session ok }
    fl := if save then d.fl.write (fun c => { c with modes := add c.modes true }) else d.fl }

/-- The first REJOIN starts the interval in which the device issues no transaction (R461). -/
def Dev.sendRejoin (d : Dev) (p : Nat) : Dev :=
  let d := d.modPort p (fun x => { x with rejoin := false })
  let d := if d.fab.quiet.isNone then { d with fab := { d.fab with quiet := some (d.lt + 100 * bits (d.reg 0x80014).toNat 23 0) } } else d
  d.sendLink p 8 0

/-- What this end of a port sends in an attempt: the sync blocks of its active lanes once the equalisation has locked (R305), and in a
training its address, role and PART (R323). -/
def Dev.greet (d : Dev) (p mask : Nat) (locked : Bool) : Dev :=
  let d := if locked then d.lanesSend p ((lanesOf mask).map (fun l => (l, 4096, syncRun l))) else d
  if (d.port p).state = .training then d.modPort p (fun x => { x with said := some (d.addr, d.roleOf p, d.part) }) else d

/-- A port trained and its peer is the right one: UP with fresh numbering and full credits. -/
def Dev.portUp (d : Dev) (p mask : Nat) : Dev :=
  let width := ones mask 8
  let d := (d.modPort p (fun x => { x with state := .up, width := width, active := mask, attempts := 0 })).freshLink p
  let (a, r) := (d.port p).peer.getD (0, 0)
  let d := d.post 0x6001 (packB [(0, p), (1, width), (4, a), (8, r)])
  let d := if (d.port p).rejoin then d.sendRejoin p else d
  d.pump p

/-- TRAINING_ATTEMPT_DONE. An attempt fails where no lane came up or the lanes do not align (R305). -/
def Dev.attemptDone (d : Dev) (p : Nat) (t : TrainResult) : Dev :=
  let mask := t.lanes.toNat &&& (d.port p).left
  let w := ones mask 8
  let locked : Bool := t.locked && w != 0 && aligned mask t.sync
  if !d.portOn p || ((d.port p).state != .training && (d.port p).state != .retraining) then d
  else
    let d := d.greet p mask t.locked
    let x := d.port p
    if x.state = .training then
      if locked then
        let d := d.trainDone p (x.attempts + 1) x.since true
        let d := d.setPort p { x with peer := some (t.addr.toNat, t.role.toNat) }
        let (a, r) := d.peerOf (d.roleOf p)
        if t.addr.toNat = a && t.role.toNat = r then d.portUp p mask
        else
          let d := d.post 0x6005 (packB [(0, p), (1, r), (2, t.role.toNat), (4, a), (8, t.addr.toNat)])
          (d.modPort p (fun x => { x with state := .down, width := 0 })).evacuate p
      else if x.attempts + 1 < 3 then d.setPort p { x with attempts := x.attempts + 1 }
      else (d.trainDone p 3 x.since false).retirePort p 1
    else if locked then
      if w < bits (d.reg 0x8001C).toNat 11 8 then d.retirePort p 2
      else ((d.setPort p { x.recount with state := .up, width := w, active := mask, attempts := 0, waiting := false }).resend p).pump p
    else if x.attempts + 1 < 3 then d.setPort p { x with attempts := x.attempts + 1 }
    else d.retirePort p 3

/-- TRAINING_ATTEMPT_DONE (R322, R326). -/
def execTrainingAttemptDone (p : PortId) (res : TrainResult) (s : State) : Host.Outcome State Fault Refusal := s.onFab (fun d => d.attemptDone p res)

/-! ## Flits (R304, R307 to R309, R325) -/

/-- Symbols the FEC corrected, tallied against the lanes that carried them (R304, R325). -/
def Dev.tallySymbols (d : Dev) (p : Nat) (lanes : List Nat) : Dev :=
  let d := if lanes.isEmpty then d else d.bump (portSet p) 7 lanes.length
  d.modPort p (fun x => { x with tally := lanes.foldl (fun t l => Tbl.set t l (min 0xFFFFFFFF (Tbl.get t l 0 + 1)) 0) x.tally })

/-- The codeword that begins in the next flit decoded: up to 15 symbols in error are corrected, more make it uncorrectable (R304). Whether
any codeword that carries part of the flit is uncorrectable (R308). -/
def Dev.decodeFec (d : Dev) (p : Nat) (errors : List Nat) : Dev × Bool :=
  let x := d.port p
  let before := x.rxBad && !codewordEdge x.rxFlits
  let es := errors.eraseDups
  match codewordIn x.rxFlits with
  | none => (d.setPort p { x with rxFlits := x.rxFlits + 1 }, before)
  | some _ =>
    if 15 < es.length then
      ((d.setPort p { x with rxFlits := x.rxFlits + 1, rxBad := true, badRun := x.badRun + 1 }).bump (portSet p) 5 1, true)
    else ((d.setPort p { x with rxFlits := x.rxFlits + 1, rxBad := false, badRun := 0 }).tallySymbols p (es.map (laneOfSymbol x.active)), before)

/-- A lane whose tally exceeds FAB_LANE_LIMIT is retired, at most one a window. -/
def Dev.checkLanes (d : Dev) (p : Nat) : Dev :=
  let x := d.port p
  if x.laneDone || x.state != .up then d
  else
    match firstWhere (fun l => bitOf x.left l && (d.reg 0x80018).toNat < Tbl.get x.tally l 0) 8 with
    | none => d
    | some l => d.retireLane p l

/-- A bad flit: a NAK, and the port waits for the replay; the RETRY_LIMIT-th NAK of one FSEQ retrains (R308, R309). -/
def Dev.badFlit (d : Dev) (p : Nat) : Dev :=
  let n := (d.port p).nakSent + 1
  let d := (d.modPort p (fun x => { x with waiting := true, nakSent := n })).bump (portSet p) 3 1
  if bits (d.reg 0x8001C).toNat 3 0 ≤ n && (d.port p).state = .up then (d.sendLink p 2 0).startRetrain p else d.sendLink p 2 0

/-- A flit accepted: its packets go into the receive buffer, and every 64th flit is acknowledged at once. -/
def Dev.takeFlit (d : Dev) (p : Nat) (bytes : List Byte) : Dev :=
  let d := d.modPort p (fun x =>
    let (ps, rest) := parsePackets 64 (x.part ++ bytes.take 512)
    { x with
      waiting := false
      nakSent := 0
      rxSeq := (x.rxSeq + 1) % 65536
      unrep := x.unrep + 1
      unrepLt := some (x.unrepLt.getD d.lt)
      rx := x.rx ++ ps
      part := rest })
  if 64 ≤ (d.port p).unrep && (d.port p).state = .up then d.sendLink p 0 0 else d

/-- Framing is lost where 8 codewords in a row were uncorrectable (R305). -/
def Dev.checkFraming (d : Dev) (p : Nat) : Dev :=
  if 8 ≤ (d.port p).badRun && (d.port p).state = .up then d.startRetrain p else d

/-- FLIT_RECEIVED. A QUIESCED port whose peer numbers afresh takes its first flit. -/
def Dev.flitIn (d : Dev) (p : Nat) (f : Flit) : Dev :=
  let x := d.port p
  if !d.portOn p || (x.state != .up && x.state != .quiesced) then d
  else
    let d := d.bump (portSet p) 1 1
    let flags := (f.bytes.getD 512 0).toNat
    let crc := leNat (f.bytes.drop 513)
    let passes (seq : Nat) : Bool := f.bytes.length = 516 && crc = flitCrc seq (f.bytes.take 513)
    let fresh : Bool := x.state = .quiesced && !passes x.rxSeq && passes 0
    let d := if fresh then d.modPort p (fun x => { x.recount with rxSeq := 0, part := [], waiting := false }) else d
    let (d, lost) := d.decodeFec p f.errors
    let good := !lost && passes (d.port p).rxSeq
    let waiting : Bool := (d.port p).waiting
    let d :=
      if !good then (if !waiting || bitOf flags 0 then d.badFlit p else d)
      else if bitOf flags 1 then d
      else if waiting && !bitOf flags 0 then d
      else d.takeFlit p f.bytes
    (d.checkLanes p).checkFraming p

/-- FLIT_RECEIVED (R308). -/
def execFlitReceived (p : PortId) (flit : Flit) (s : State) : Host.Outcome State Fault Refusal := s.onFab (fun d => d.flitIn p flit)

/-- LANE_WINDOW_RESTART (R325): at LT multiples of 1,000,000,000. -/
def execLaneWindowRestart (s : State) : Host.Outcome State Fault Refusal :=
  s.onFab (fun d =>
    if d.lt % 1000000000 = 0 then (List.range 18).foldl (fun d p => d.modPort p (fun x => { x with tally := [], laneDone := false })) d else d)

/-- ACK_TIMER (R309): 100 ns with something unreported. -/
def execAckTimer (p : PortId) (s : State) : Host.Outcome State Fault Refusal :=
  s.onFab (fun d =>
    let x := d.port p
    match x.unrepLt with
    | some t => if t + 10 ≤ d.lt && x.state = .up && d.portOn p then d.sendLink p 0 0 else d
    | none => d)

/-- FRAMING_LOST (R305). -/
def execFramingLost (p : PortId) (s : State) : Host.Outcome State Fault Refusal :=
  s.onFab (fun d => if (d.port p).state = .up && d.portOn p then d.startRetrain p else d)

/-! ## LINK records (R308, R309, R312, R322, R325) -/

/-- Credits returned by a LINK record. -/
def Port.credited (x : Port) (pkt : Packet) : Port :=
  { x with
    cred := (List.range 8).map (fun q => x.cred.getD q 0 + pkt.f (79 + 16 * q) (64 + 16 * q))
    shared := x.shared + pkt.f 207 192 }

/-- A NAK: what it acknowledges is freed, the rest goes out again, or the port retrains at RETRY_LIMIT. -/
def Dev.nakked (d : Dev) (p seq : Nat) : Dev :=
  let x := d.port p
  let run := if x.nakRun != 0 && x.nakSeq = seq then x.nakRun + 1 else 1
  let d := d.setPort p { x with replay := x.replay.filter (fun k => !newer16 seq k.seq), nakSeq := seq, nakRun := run }
  if bits (d.reg 0x8001C).toNat 3 0 ≤ run && x.state = .up then d.startRetrain p else d.resend p

/-- An ACK: every flit up to the named one is freed. -/
def Port.acked (x : Port) (seq : Nat) : Port := { x with replay := x.replay.filter (fun k => newer16 k.seq seq) }

/-- QUIESCE received on an UP port. -/
def Dev.quiesced (d : Dev) (p : Nat) : Dev :=
  let x := d.port p
  if x.state = .up then
    (d.setPort p { x with state := .quiesced, since := d.lt }).post 0x6008 (packB [(0, p), (4, (x.peer.getD (0, 0)).1)])
  else d

/-- REJOIN received on a QUIESCED port: the flit that brought it is the first of the peer's new numbering, which goes on. -/
def Dev.rejoined (d : Dev) (p : Nat) : Dev :=
  if (d.port p).state = .quiesced then
    let y := d.port p
    let d := (d.modPort p (fun x => { x with state := .up })).freshLink p
    (d.modPort p (fun x => { x with
      rxSeq := y.rxSeq, part := y.part, rxFlits := y.rxFlits, rxBad := y.rxBad, badRun := y.badRun })).pump p
  else d

/-- LANE_RETIRE received: the lane retires at this end too, and both ends retrain with the lanes that neither has retired (R325, R452). -/
def Dev.peerLane (d : Dev) (p lanes : Nat) : Dev :=
  let d := ((List.range 8).filter (fun l => bitOf lanes l && bitOf (d.port p).left l)).foldl (fun d l => d.loseLane p l) d
  let d := d.modPort p (fun x => { x with peerLanes := x.peerLanes &&& (255 - lanes) })
  if (d.port p).state = .up then d.startRetrain p else d

/-- A LINK record taken up: credits, then ACK or NAK, then what else it says. -/
def Dev.linkIn (d : Dev) (p : Nat) (pkt : Packet) (bit : Nat) : Dev :=
  let flags := pkt.f 55 48
  let seq := pkt.f 47 32
  let x := d.port p
  if !d.portOn p || pkt.type != 1 || pkt.broken || !bitOf flags bit || (x.state != .up && x.state != .quiesced) then d
  else
    let d := (d.takeRx p pkt).modPort p (fun x => x.credited pkt)
    let d := if bitOf flags 0 then d.modPort p (fun x => x.acked seq) else d
    let d := if bitOf flags 3 then d.rejoined p else d
    let d := if bitOf flags 1 then d.nakked p seq else d
    let d := if bitOf flags 4 then d.peerLane p (pkt.f 63 56) else d
    let d := if bitOf flags 2 then d.quiesced p else d
    d.pump p

/-- ACK (R309). -/
def execAck (p : PortId) (pkt : Packet) (s : State) : Host.Outcome State Fault Refusal := s.onFab (fun d => d.linkIn p pkt 0)
/-- NAK (R308). -/
def execNak (p : PortId) (pkt : Packet) (s : State) : Host.Outcome State Fault Refusal := s.onFab (fun d => d.linkIn p pkt 1)
/-- QUIESCE (R322). -/
def execQuiesce (p : PortId) (pkt : Packet) (s : State) : Host.Outcome State Fault Refusal := s.onFab (fun d => d.linkIn p pkt 2)
/-- REJOIN (R322). -/
def execRejoin (p : PortId) (pkt : Packet) (s : State) : Host.Outcome State Fault Refusal := s.onFab (fun d => d.linkIn p pkt 3)
/-- LANE_RETIRE (R325). -/
def execLaneRetire (p : PortId) (pkt : Packet) (s : State) : Host.Outcome State Fault Refusal := s.onFab (fun d => d.linkIn p pkt 4)

/-- QUIESCE_TIMEOUT (R322): QUIESCE_MS in QUIESCED. -/
def execQuiesceTimeout (p : PortId) (s : State) : Host.Outcome State Fault Refusal :=
  s.onFab (fun d =>
    let x := d.port p
    if x.state = .quiesced && d.portOn p && x.since + 100000 * bits (d.reg 0x8001C).toNat 31 16 ≤ d.lt then
      ((d.setPort p { x with state := .down, width := 0 }).post 0x6002 (packB [(0, p), (1, 4)])).evacuate p
    else d)

/-! ## Packets at the router (R311, R316, R318) -/

/-- A port has a link to receive on. -/
def Dev.receives (d : Dev) (p : Nat) : Bool :=
  d.portOn p && match (d.port p).state with | .up | .retraining | .quiesced => true | _ => false

/-- PACKET_FORWARD: a transit packet goes on its way, whatever its PART (R324). -/
def execPacketForward (p : PortId) (pkt : Packet) (s : State) : Host.Outcome State Fault Refusal :=
  s.onFab (fun d =>
    if d.receives p && !pkt.broken && 2 ≤ pkt.type && pkt.dst != d.addr then
      Dev.forward 2 (d.takeRx p pkt) (some (d.roleOf p)) pkt false none
    else d)

/-- BAD_PACKET (R311). -/
def execBadPacket (p : PortId) (pkt : Packet) (s : State) : Host.Outcome State Fault Refusal :=
  s.onFab (fun d => if d.receives p && pkt.broken then (d.takeRx p pkt).bump (portSet p) 8 1 else d)

/-! ## Packets at the endpoint (R330, R458) -/

/-- A device reset is in its drain window (R459). -/
def Dev.draining (d : Dev) : Bool := d.rs.run.isSome

/-- An endpoint packet at its device: the partition is checked, a draining device answers or discards it, otherwise its engine takes it
or leaves it in the port. -/
def Dev.inbound (d : Dev) (p : Nat) (pkt : Packet) (mine : Bool) (h : Dev → Option Dev) : Dev :=
  if !d.receives p || !mine || pkt.broken || pkt.dst != d.addr then d
  else if pkt.part != d.part || !d.inPart pkt.src then
    let d := ((d.takeRx p pkt).bump fabSet 1 1).post 0x6006 (partPayload pkt)
    if pkt.type = 2 || pkt.type = 3 then d.answer pkt 2 [] 0 else d
  else if d.draining then
    let d := d.takeRx p pkt
    if pkt.type = 2 || pkt.type = 3 then (d.bump rstSet 6 1).answer pkt 1 [] 0 else d
  else
    match h d with
    | some e => e.takeRx p pkt
    | none => d.holdRx p pkt

/-- A request served: its answer goes out. -/
def Svc.done (pkt : Packet) : Svc → Option Dev
  | .answer d st data poison => some (d.answer pkt st data poison)
  | .hold _ => none

/-- READ_RESP (R313). -/
def execReadResp (p : PortId) (pkt : Packet) (s : State) : Host.Outcome State Fault Refusal :=
  s.onFab (fun d => d.inbound p pkt (pkt.type = 4) (fun d => some (d.response pkt 3)))
/-- RESP (R313). -/
def execResp (p : PortId) (pkt : Packet) (s : State) : Host.Outcome State Fault Refusal :=
  s.onFab (fun d => d.inbound p pkt (pkt.type = 5) (fun d => some (d.response pkt 2)))

/-- RESPONSE_TIMEOUT (R319, R460). -/
def execResponseTimeout (ftag : BitVec 16) (s : State) : Host.Outcome State Fault Refusal :=
  s.onFab (fun d =>
    match Tbl.find d.fab.tags ftag.toNat with
    | some x => if d.xactDue x ≤ d.lt then d.endXact ftag.toNat x 3 ⟨0, []⟩ else d
    | none => d)

/-- QUIET_INTERVAL_END (R461): an end of 0 says that the one interval of this reset is over. -/
def execQuietIntervalEnd (_p : PortId) (s : State) : Host.Outcome State Fault Refusal :=
  s.onFab (fun d =>
    match d.fab.quiet with
    | some t => if t ≤ d.lt then { d with fab := { d.fab with quiet := some 0 } } else d
    | none => d)

/-- A COLL packet finds no room in the early-arrival store (R343). -/
def Dev.earlyBlocked (d : Dev) (pkt : Packet) : Bool :=
  d.flowCheck pkt = .eq && (d.slotFor pkt).isNone && d.isEarly pkt && 16384 < (d.col.early.map (·.len)).sum + pkt.len

/-- A COLL or HOPPER packet of an OP: into its slot, early, stale, or left in its port. -/
def Dev.collIn (d : Dev) (p : Nat) (pkt : Packet) (type op : Nat) : Dev :=
  let e := d.inbound p pkt (pkt.type = type && pkt.op = op) (fun d => d.collArrives pkt (fun d n s => d.intoSlot n s pkt))
  if d.earlyBlocked pkt && (e.port p).rx.contains pkt && pkt.type = type && pkt.op = op then e.earlyFull else e

/-- REDUCE (R343). -/
def execReduce (p : PortId) (pkt : Packet) (s : State) : Host.Outcome State Fault Refusal := s.onFab (fun d => d.collIn p pkt 6 0)
/-- COPY (R343). -/
def execCopy (p : PortId) (pkt : Packet) (s : State) : Host.Outcome State Fault Refusal := s.onFab (fun d => d.collIn p pkt 6 1)
/-- WIN_UP (R377). -/
def execWinUp (p : PortId) (pkt : Packet) (s : State) : Host.Outcome State Fault Refusal := s.onFab (fun d => d.collIn p pkt 6 0x80)
/-- WIN_DOWN (R377). -/
def execWinDown (p : PortId) (pkt : Packet) (s : State) : Host.Outcome State Fault Refusal := s.onFab (fun d => d.collIn p pkt 6 0x81)
/-- JRN_UP (R394). -/
def execJrnUp (p : PortId) (pkt : Packet) (s : State) : Host.Outcome State Fault Refusal := s.onFab (fun d => d.collIn p pkt 6 0x82)
/-- JRN_DOWN (R394). -/
def execJrnDown (p : PortId) (pkt : Packet) (s : State) : Host.Outcome State Fault Refusal := s.onFab (fun d => d.collIn p pkt 6 0x83)

/-- ABORT (R347, R348): the matching collective aborts with PEER_ABORT. -/
def execAbort (p : PortId) (pkt : Packet) (s : State) : Host.Outcome State Fault Refusal :=
  s.onFab (fun d => d.inbound p pkt (pkt.type = 6 && pkt.op = 2) (fun d =>
    d.collArrives pkt (fun d _ s => some (d.abortColl s.tag 3 pkt.src 0 true))))

/-- ARRIVAL (R367). -/
def execArrival (p : PortId) (pkt : Packet) (s : State) : Host.Outcome State Fault Refusal :=
  s.onFab (fun d => d.collIn p pkt 7 0)

/-- A READ_REQ of VC 0 and an OP (R386, R397). -/
def Dev.readIn (d : Dev) (p : Nat) (pkt : Packet) (op : Nat) : Dev :=
  d.inbound p pkt (pkt.type = 3 && pkt.op = op) (fun d => (d.serveRead pkt).done pkt)

/-- SHARD_HDR (R397). -/
def execShardHdr (p : PortId) (pkt : Packet) (s : State) : Host.Outcome State Fault Refusal := s.onFab (fun d => d.readIn p pkt 0x10)
/-- SHARD_DATA (R386). -/
def execShardData (p : PortId) (pkt : Packet) (s : State) : Host.Outcome State Fault Refusal := s.onFab (fun d => d.readIn p pkt 0x11)
/-- SHARD_VERIFY (R388). -/
def execShardVerify (p : PortId) (pkt : Packet) (s : State) : Host.Outcome State Fault Refusal := s.onFab (fun d => d.readIn p pkt 0x12)
/-- STEP_REC (R397). -/
def execStepRec (p : PortId) (pkt : Packet) (s : State) : Host.Outcome State Fault Refusal := s.onFab (fun d => d.readIn p pkt 0x13)
/-- JOURNAL_HDR (R397). -/
def execJournalHdr (p : PortId) (pkt : Packet) (s : State) : Host.Outcome State Fault Refusal := s.onFab (fun d => d.readIn p pkt 0x14)
/-- STOOK_READ (R389). -/
def execStookRead (p : PortId) (pkt : Packet) (s : State) : Host.Outcome State Fault Refusal :=
  s.onFab (fun d => d.inbound p pkt (pkt.type = 3 && pkt.op = 0x21) (fun d => (d.serveStookRead pkt).done pkt))
/-- The writes of a STOOK_WRITE that stays in its port because their channel is under write hold, counted (R272). -/
def Dev.stookHeld (d : Dev) (p : Nat) (pkt : Packet) : Dev :=
  if (d.port p).rx.contains pkt && pkt.type = 2 && d.stookOk pkt then
    (List.range pkt.len).foldl (fun d u =>
      let a := d.buddyBase + pkt.addr + 64 * u
      let n := (d.chanOf a).1
      if (d.chan n).hold then d.holdWrite (2 ^ 32 + 1) a (fun d => d.heldChan n) else d) d
  else d

/-- STOOK_WRITE (R389). -/
def execStookWrite (p : PortId) (pkt : Packet) (s : State) : Host.Outcome State Fault Refusal :=
  s.onFab (fun d => (d.inbound p pkt (pkt.type = 2) (fun d => (d.serveStookWrite pkt).done pkt)).stookHeld p pkt)

/-! ## Deadlines of work on a port that retrains (R77, R327) -/

/-- DEADLINE_PASSED: LT is past the deadline of work that has not completed. A collective or a job of a shard unit bound to a port that
retrains ends with UNIT_RETIRED. -/
def Dev.deadlinePassed (d : Dev) (tag : Tag) : Dev :=
  match d.work tag with
  | none => d
  | some w =>
    match w.deadline with
    | none => d
    | some t =>
      if t < d.lt && !w.noDeadline then
        let ports := (List.range 18).filter (fun p => (d.port p).state = .retraining && (d.port p).since ≤ t)
        let coll := ports.find? (fun p => (d.boundColls p).contains tag)
        let job := ports.find? (fun p => w.phase = .dispatched && (d.boundJobs p).contains tag.val)
        let d := match coll.or job with
          | some p => d.modWork tag (fun w => w.blame 4 3 (d.port p).since)
          | none => d
        let d := d.breakPromise tag
        if coll.isSome then d.abortNow tag 8 d.addr 3 true else if job.isSome then d.finishWork tag 9 0 else d
      else d

/-- DEADLINE_PASSED (R77). -/
def execDeadlinePassed (tag : Tag) (s : State) : Host.Outcome State Fault Refusal := s.onFab (fun d => d.deadlinePassed tag)

end Sys2Proof.Machine
end

