-- ==== Sys2Proof/Machine/UnitReset.lean ====
section
/-!
DEFINITION. Sys2Proof/Machine/UnitReset.lean: what a reset of level 1 to 4 ends and clears, and the acceptance of a device reset (15; R76,
R347, R453, R455, R457, R458).
-/
namespace Sys2Proof.Machine

/-! ## What a reset of level 1 to 4 reaches (R453, R457) -/

/-- The clusters a reset of level 2 to 4 reaches. -/
def resetClusters (level target : Nat) : List Nat :=
  match level with
  | 2 => [target]
  | 3 => (List.range 72).filter (fun c => quadOfCluster c = target)
  | 4 => List.range 72
  | _ => []

/-- The cores a reset of level 1 to 4 reaches. -/
def resetCores (level target : Nat) : List Nat := if level = 1 then [target] else (resetClusters level target).flatMap coresOf

/-- The descriptors a reset of cores and clusters ends: LAUNCHes with an entry on a core but those of a pre-empted context, and the
Drill transfers run by the clusters or aimed at the cores; one that an instruction issued ends with its LAUNCH (R457). -/
def Dev.reached (d : Dev) (ks cs : List Nat) : List Nat :=
  let live (t : Nat) : Bool := match d.work t with
    | some w => (d.ctx w.ctx).state != .preempted && (d.ctx w.ctx).state != .parkedPreempted
    | none => false
  let ls := (ks.flatMap d.launchesOn).filter live
  let aimed := (ks.map clusterOf).eraseDups.flatMap (fun c =>
    (d.cluster c).drill.filterMap (fun x =>
      if cs.contains c || (!x.isKv && ks.contains (xferOf x.rcd).core) then (x.tag <|> x.launch).map (·.val) else none))
  (ls ++ aimed).eraseDups

/-- A core reset: everything of it but its registers that report the past. -/
def Core.afterReset (k : Core) : Core :=
  { Core.empty with mism := k.mism, trap := k.trap, peer := k.peer, lastLt := k.lastLt, lastWord := k.lastWord, lastCols := k.lastCols }

/-- The collectives of contexts whose mask has a cluster of a reset quadrant (R347). -/
def Dev.collsIn (d : Dev) (cs : List Nat) : List Tag :=
  (d.col.slots.filter (fun e => !e.2.isOver && cs.any (fun c => bitOf (d.ctx e.2.ctx).mask.toNat c))).map (·.2.tag)

/-- The destinations of the moving transfers a reset ends, beyond PROGRESS: some of their writes may be past the cluster router and drain
(R458), so their bytes are free (log 57). -/
def Dev.blurMoving (d : Dev) (cl : ClusterId) (p : DXfer → Bool) : Dev :=
  ((d.cluster cl).drill.filter (fun x => x.moving && p x)).foldl (fun d x => d.blur (drillAcc cl x) x) d

/-- The moving transfers of the clusters a reset reaches, and those aimed at its cores. -/
def Dev.blurReset (d : Dev) (ks cs : List Nat) : Dev :=
  (List.finRange 72).foldl (fun d cl =>
    d.blurMoving cl (fun x => cs.contains cl.val || (!x.isKv && ks.contains (xferOf x.rcd).core))) d

/-- RST_STATUS and the counter as a reset is accepted (R455, R470). -/
def Dev.acceptReset (d : Dev) (level origin : Nat) : Dev :=
  ({ d with rs := { d.rs with level := level, result := 0, origin := origin } } : Dev).bump rstSet (level - 1) 1

/-- A reset completes: RST_DONE_LT, RST_ENDED, RESET_DONE (R445, R470). -/
def Dev.resetDone (d : Dev) (level target n : Nat) : Dev :=
  ({ d with rs := { d.rs with doneLt := d.lt, ended := n } } : Dev).post 0xB001
    (packB [(0, level), (2, target), (4, d.rs.origin), (8, n % 2 ^ 32)])

/-- A reset of level 1 to 4 (R457, R458): the work on the units ends with ABORTED_RESET and cause RESET, the units are reset. -/
def Dev.resetUnits (d : Dev) (level target : Nat) : Dev :=
  if level = 1 && !d.coreGood target then d.resetDone level target 0
  else
    let cs := resetClusters level target
    let ks := resetCores level target
    let colls := if 3 ≤ level then d.collsIn cs else []
    let tags := d.reached ks cs
    let d := colls.foldl (fun d t => d.abortColl t 7 d.addr level true) d
    let d := d.blameAll (fun w => w.entries.any (fun e => ks.contains e.core)) 3 level
    let d := tags.foldl (fun d t => if h : t < 16384 then (d.modWork t (fun w => w.blame 3 level d.lt)).endWork ⟨t, h⟩ 8 else d) d
    let d := d.blurReset ks cs
    let d := ks.foldl (fun d k => ((d.dropTransfers k).1.clearHopper k).modCore k Core.afterReset) d
    let d := cs.foldl (fun d c => d.modCluster c (fun x => { Cluster.empty with nextNum := x.nextNum })) d
    let d := (ks.map clusterOf).eraseDups.foldl (fun d c => d.freeCluster c) d
    Dev.settleFab 8 (d.resetDone level target (tags.length + colls.length))

/-! ## The device reset (R456, R458, R459) -/

/-- A reset is in progress (R455, R470). -/
def Dev.resetting (d : Dev) : Bool := d.rs.run.isSome || d.rs.wait.isSome

/-- A device reset accepted: a power transition ends at once, admission stops, a self test is given up, every collective sends ABORT. -/
def Dev.acceptDevice (d : Dev) (origin : Nat) : Dev :=
  let d := d.acceptReset 5 origin
  let d := { d with
    pw := { d.pw with trans := none }
    rs := { d.rs with
      run := some ⟨origin, false, d.lt⟩
      wait := none
      test := if d.rs.test = 1 then 0 else d.rs.test }
    hq := { d.hq with ctrlRun := false } }
  let d := d.blameAll (fun _ => true) 3 5
  Dev.settleFab 8 ((d.col.slots.map (·.2.tag)).foldl (fun d t => d.abortColl t 7 d.addr 5 true) d)

/-- A reset that waited for a power transition runs when it has ended (R455). -/
def Dev.resetTick (d : Dev) : Dev :=
  match d.rs.wait with
  | none => d
  | some (level, target) => if d.pw.busy then d else ({ d with rs := { d.rs with wait := none } } : Dev).resetUnits level target

end Sys2Proof.Machine
end

