-- ==== Sys2Proof/Machine/Power.lean ====
section
/-!
DEFINITION. Sys2Proof/Machine/Power.lean: power commands (13, 01): settings, P-state and domain transitions, the estimator, the cap,
ramp and floor controller, guarded mode and the voltage trim (R28 to R35, R401 to R420).
-/
namespace Sys2Proof.Machine

/-! ## What a domain needs and what it loses (R29 to R35) -/

/-- The half of the grid a cluster lies in (R22). -/
def halfOfCluster (cl : Nat) : Nat := cl % 6 / 3

/-- The domains a domain requires on: one of each list (R29). -/
def domNeeds (n : Nat) : List (List Nat) :=
  if n < 72 then [[88 + quadOfCluster n], (List.range 4).map (fun k => 72 + 2 * k + halfOfCluster n), [94]]
  else if 80 ≤ n && n < 88 then [[88 + n % 4]]
  else if n = 92 then [[88], [90]]
  else if n = 93 then [[89], [91]]
  else []

/-- Every requirement of a domain is met by those a test names. -/
def domMet (on : Nat → Bool) (n : Nat) : Bool := (domNeeds n).all (fun g => g.any on)

/-- A powered domain would lose a requirement if n went off. -/
def Dev.domNeeded (d : Dev) (n : Nat) : Bool :=
  (List.range 96).any (fun m => m != n && d.on m && !domMet (fun k => k != n && d.on k) m)

/-- The lines of a layer-half. -/
def Dev.linesIn (d : Dev) (b : Nat) : List Line := d.mm.lines.filter (fun l => lhBit (layerOf l.pair) l.half = b)

/-- Work a domain has not finished, for which power-off is refused at once (R31). What mapped data of a group out of self-refresh is, the
manual does not say; DESIGN CHOICE: a group whose channel map is not empty holds it (log 60). -/
def Dev.domBusy (d : Dev) (n : Nat) : Bool :=
  if n < 72 then (coresOf n).any (fun k => (d.core k).tag.isSome)
  else if 80 ≤ n && n < 84 then (List.range 18).any (fun p => hqOf p = n - 80 && (d.port p).en)
  else if 84 ≤ n && n < 88 then
    let g := d.group (n - 84)
    g.state != .selfRefresh && g.state != .off && !g.map.isEmpty
  else false

/-- The queues into and out of a domain are empty (R31), and a layer-half's lines are written back (R32). -/
def Dev.domQuiet (d : Dev) (n : Nat) : Bool :=
  if n < 72 then (d.cluster n).drill.isEmpty && (coresOf n).all (fun k => (d.core k).hopper.isEmpty)
  else if n < 80 then (d.linesIn (n - 72)).isEmpty
  else if 80 ≤ n && n < 84 then
    d.upd.jobs.all (fun e => e.2.unit % 4 != n - 80) && d.col.slots.all (fun e => e.1 / 4 != n - 80)
  else if 84 ≤ n && n < 88 then d.groupOut (n - 84) = 0
  else if n = 94 then d.hq.infl.isEmpty && d.hq.mail.isEmpty
  else true

/-- The status of a power-off, 0 when it may go on (R29 to R33). -/
def Dev.offStatus (d : Dev) (n : Nat) (mgmt : Bool) : Nat :=
  if n = 94 && !mgmt then 7
  else if d.domNeeded n then 4
  else if d.domBusy n then 5
  else if 72 ≤ n && n < 80 && (d.linesIn (n - 72)).any (fun l => l.pin) then 6
  else 0

/-- Shadows of the values whose low words lie in a range read 0 again (R12). -/
def Dev.dropShadows (d : Dev) (a n : Nat) : Dev := { d with shP := Tbl.cut d.shP a n, shM := Tbl.cut d.shM a n }

/-- The counters of a domain read 0 when it powers on again (R123, R449). -/
def Dev.dropCounters (d : Dev) (n : Nat) : Dev :=
  if n < 72 then
    let d := (coresOf n).foldl (fun d k => (((d.clearSet (idleSet k)).clearSet (furSet k)).clearSet (harSet k)).clearSet (attSet k)) d
    (d.clearSet (drillSet n)).dropShadows (clBase n) 0x10000
  else if 80 ≤ n && n < 84 then
    (List.range 18).foldl (fun d p => if hqOf p = n - 80 then (d.clearSet (portSet p)).dropShadows (portBase p) 0x100 else d) d
  else if 84 ≤ n && n < 88 then (List.range 6).foldl (fun d i => d.clearSet (grnSet (6 * (n - 84) + i))) d
  else if n = 94 then (d.clearSet hqsSet).clearSet fmwSet
  else if n = 95 then (List.range 6).foldl (fun d e => (d.clearSet (gleanSet e)).dropShadows (0xC0800 + 0x40 * e) 0x40) d
  else d

/-- The lines of a layer-half that powers off: written back and invalidated, but those whose channel is under write hold, which wait (R32,
R272). -/
def Dev.closeLayer (d : Dev) (b : Nat) : Dev :=
  (d.linesIn b).foldl (fun d l => if !d.mm.lines.contains l then d else if d.wbHeld l then d.heldBacks [l] else d.evict l) d

/-- What a domain loses as it powers off: a cluster's cores and Drill, a group's controllers (R35). -/
def Dev.domLose (d : Dev) (n : Nat) : Dev :=
  let d := d.dropCounters n
  if n < 72 then
    let d := (coresOf n).foldl (fun d k => d.setCore k Core.empty) d
    d.setCluster n Cluster.empty
  else if 84 ≤ n && n < 88 then d.modGroup (n - 84) (fun g => { g with state := .off, filling := false, srDue := false })
  else d

/-- A bit of the powered domains set or cleared. -/
def Dev.setDom (d : Dev) (n : Nat) (on : Bool) : Dev :=
  { d with dom := if on then d.dom ||| 2 ^ n else (if bitOf d.dom n then d.dom - 2 ^ n else d.dom) }

/-- A group as its domain powers on (R466): held in self-refresh it takes this session's settings; otherwise it trains. -/
def Group.powerUp (g : Group) : Group := { g with state := if g.selfRef then .selfRefresh else .training, filling := false, srDue := false }

/-- What starts as a domain powers on (R35, R289): a group's training, the training of each enabled port, the Glean engines in IDLE. -/
def Dev.domStart (d : Dev) (n : Nat) : Dev :=
  if 84 ≤ n && n < 88 then
    { d.modGroup (n - 84) Group.powerUp with rs := { d.rs with groupLt := Tbl.put d.rs.groupLt (n - 84) d.lt } }
  else if 80 ≤ n && n < 84 then
    (List.range 18).foldl (fun d p =>
      let x := d.port p
      if hqOf p = n - 80 && x.en && x.state != .retired then
        d.setPort p { x with state := .training, attempts := 0, since := d.lt, peer := none }
      else d) d
  else if n = 95 then
    (List.range 6).foldl (fun d e =>
      let off := 0xC0800 + 0x40 * e
      d.setReg off (BitVec.ofNat 32 (putBits (d.reg off).toNat 1 0 2))) d
  else d

/-! ## Transitions (R402 to R408) -/

/-- The transition replaced. -/
def Dev.setTrans (d : Dev) (t : Option Trans) : Dev := { d with pw := { d.pw with trans := t } }

/-- RESULT and FAILED_INDEX (R403). -/
def Dev.pwrResult (d : Dev) (r i : Nat) : Dev := { d with pw := { d.pw with result := r, failed := i } }

/-- POWER_CMD_DONE (R431). -/
def Dev.tellDone (d : Dev) (kind r i : Nat) : Dev := d.post 0x9004 (packB [(0, kind), (1, r), (2, i), (3, d.pw.pstate)])

/-- A transition command refused, or ended by its check: RESULT, FAILED_INDEX and POWER_CMD_DONE (R403). -/
def Dev.pwrDone (d : Dev) (kind r i : Nat) : Dev := (d.pwrResult r i).tellDone kind r i

/-- A free number of ticks up to a maximum the manual states (log 26). -/
def Dev.upTo (d : Dev) (max : Nat) : Dev × Nat :=
  let (i, d) := d.takeFresh
  (d, (Config.freeWord i).toNat % (max + 1))

/-- PWR_ENV_MAX (R407). -/
def Dev.envCap (d : Dev) : Nat := bits (d.reg 0x4003C).toNat 9 0
/-- FASTEST. -/
def Dev.fastest (d : Dev) : Nat := bits (d.reg 0x4003C).toNat 14 12
/-- MAX_RAMP. -/
def Dev.envRamp (d : Dev) : Nat := bits (d.reg 0x4003C).toNat 27 16

/-- A P-state change starts, each of its steps within its maximum (R405). A faster state's rails ramp before the clock stops, a slower
one's after it runs again; the state in force takes only the first and the last step. -/
def Dev.startPState (d : Dev) (kind target detail : Nat) : Dev :=
  let d := d.blameAll (fun _ => true) 2 detail
  let faster := decide (target < d.pw.pstate)
  let same := decide (target = d.pw.pstate)
  let (d, a) := d.upTo (if same then 700 else if faster then 2500 else 500)
  let (d, b) := d.upTo 1500
  let (d, c) := d.upTo (if faster then 200 else 2200)
  let t := d.lt
  d.setTrans (some (if same then ⟨kind, target, [], 0, none, true, t, t + a, t, t, false⟩
    else ⟨kind, target, [], 0, none, true, t, t + a + b + c, t + a, t + a + b, false⟩))

/-- A transition ends: a reset that waited for it acts first (R8, R455), then POWER_CMD_DONE is posted. RESULT and FAILED_INDEX of one that
completed stand as its acceptance or a later check left them (R403). A P-state faster than FASTEST is left at once (R407), otherwise
admission is released (R406). -/
def Dev.transEnd (d : Dev) (lic r i : Nat) : Dev :=
  match d.pw.trans with
  | none => d
  | some t =>
    let d := if r = 0 && (t.kind = 1 || t.kind = 4) then { d with pw := { d.pw with pstate := t.target } } else d
    let d := (d.setTrans none).resetTick
    let d := if r = 0 then d.tellDone t.kind 0 i else d.pwrDone t.kind r i
    if d.pw.pstate < d.fastest then d.startPState 4 d.fastest 7 else d.rescan lic [4]

/-- The wait before a domain is switched on, in ticks: LEAK of the last one switched over the ramp-up limit (R408), 0 without a package
record (R463). -/
def Dev.rampWait (d : Dev) (last : Option Nat) : Dev × Nat :=
  match last with
  | none => (d, 0)
  | some e =>
    let mw := if d.rs.recordOk then (Config.leakage d.pw.pstate e).toNat else 0
    (d.bump pwrSet 5 (ceilDiv mw d.pw.ctl.up), ceilDiv (100 * mw) d.pw.ctl.up)

/-- The positions of a domain command carried out as far as they go now: a domain already as commanded is passed, the first refusal
ends the command, otherwise the switch is under way (R30). -/
def Dev.domGo (lic : Nat) : Nat → Dev → Dev
  | 0, d => d
  | n + 1, d =>
    match d.pw.trans with
    | none => d
    | some t =>
      if t.armed then d
      else
        match t.doms[t.pos]? with
        | none => d.transEnd lic 0 0
        | some m =>
          if t.kind = 2 then
            if d.on m then Dev.domGo lic n (d.setTrans (some { t with pos := t.pos + 1 }))
            else if !domMet d.on m then d.transEnd lic 4 t.pos
            else
              let (d, w) := d.rampWait t.last
              let (d, k) := d.upTo 2000
              d.setTrans (some { t with armed := true, since := d.lt, due := d.lt + w + k })
          else if !d.on m then Dev.domGo lic n (d.setTrans (some { t with pos := t.pos + 1 }))
          else
            match d.offStatus m t.mgmt with
            | 0 =>
              let (d, k) := d.upTo 10000
              let d := d.setTrans (some { t with armed := true, since := d.lt, due := d.lt + k })
              if 72 ≤ m && m < 80 then d.closeLayer (m - 72) else d
            | r => d.transEnd lic r t.pos

/-- The switch under way done: the domain on, or drained and off (R31, R35). -/
def Dev.domSwitch (d : Dev) (lic : Nat) (t : Trans) (m : Nat) : Dev :=
  let next (last : Option Nat) : Option Trans := some { t with armed := false, pos := t.pos + 1, last := last }
  if t.kind = 2 then Dev.domGo lic 9 (((d.setDom m true).domStart m).setTrans (next (some m)))
  else Dev.domGo lic 9 (((d.setDom m false).domLose m).setTrans (next t.last))

/-- What a tick does to a transition in progress. -/
def Dev.transTick (d : Dev) (lic : Nat) : Dev :=
  match d.pw.trans with
  | none => d
  | some t =>
    if !t.armed || d.lt < t.due then d
    else if t.kind = 1 || t.kind = 4 then d.transEnd lic 0 0
    else
      match t.doms[t.pos]? with
      | none => d
      | some m =>
        let d := if t.kind = 3 && 72 ≤ m && m < 80 then d.closeLayer (m - 72) else d
        if t.kind = 3 && !d.domQuiet m then d else d.domSwitch lic t m

/-- P_STATE_COMMAND. -/
def Dev.pStateCommand (d : Dev) (v : Via) (val : Word) : Dev :=
  let s := bits val.toNat 2 0
  if !d.serves v 0x40004 then d
  else if d.pw.busy then d.pwrDone 1 1 0
  else if d.pw.th.tripped then d.pwrDone 1 8 0
  else if s < d.fastest then d.pwrDone 1 3 0
  else (({ d with pw := { d.pw with cmd := s } } : Dev).pwrResult 0 0).startPState 1 s 1

/-- P_STATE_COMMAND (R402 to R406). -/
def execPStateCommand (v : Via) (val : Word) (s : State) : Host.Outcome State Fault Refusal := s.onDev (fun d => d.pStateCommand v val)

/-- Entry i of PWR_DOM_LIST0 and PWR_DOM_LIST1 (R432). -/
def Dev.domEntry (d : Dev) (i : Nat) : Nat := bits (d.reg (0x40010 + 4 * (i / 4))).toNat (8 * (i % 4) + 6) (8 * (i % 4))

/-- A domain command (R408): the whole is checked first, then its positions are carried out in order. -/
def Dev.domCommand (d : Dev) (lic : Nat) (v : Via) (val : Word) (on : Bool) : Dev :=
  let kind := if on then 2 else 3
  let n := bits val.toNat 3 0
  let ds := (List.range n).map d.domEntry
  if !d.serves v 0x40018 then d
  else if d.pw.busy then d.pwrDone kind 1 0
  else if on && d.pw.th.tripped then d.pwrDone kind 8 0
  else if n = 0 || 8 < n then d.pwrDone kind 2 0
  else
    match firstWhere (fun i => 95 < d.domEntry i) n with
    | some i => d.pwrDone kind 2 i
    | none =>
      let d := (d.pwrResult 0 0).blameAll (fun _ => true) 2 2
      Dev.domGo lic 9 (d.setTrans (some ⟨kind, 0, ds, 0, none, false, d.lt, d.lt, d.lt, d.lt, decide (v = .mctp)⟩))

/-- DOMAIN_POWER_ON (R29, R30, R35, R408). -/
def execDomainPowerOn (v : Via) (val : Word) (s : State) : Host.Outcome State Fault Refusal :=
  s.onDev (fun d => d.domCommand s.sec.lic v val true)

/-- DOMAIN_POWER_OFF (R29 to R33). -/
def execDomainPowerOff (v : Via) (val : Word) (s : State) : Host.Outcome State Fault Refusal :=
  s.onDev (fun d => d.domCommand s.sec.lic v val false)

/-- DOMAIN_DRAIN_TIMEOUT (R31): 100 µs after the command reached the domain its queues are not empty: it stays on and, the transition
over, admits requests again. -/
def Dev.drainTimeout (d : Dev) (lic m : Nat) : Dev :=
  match d.pw.trans with
  | none => d
  | some t =>
    if t.kind = 3 && t.armed && t.doms[t.pos]? = some m && t.since + 10000 ≤ d.lt && !d.domQuiet m then
      d.transEnd lic 5 t.pos
    else d

/-- DOMAIN_DRAIN_TIMEOUT (R31). -/
def execDomainDrainTimeout (m : Nat) (s : State) : Host.Outcome State Fault Refusal := s.onDev (fun d => d.drainTimeout s.sec.lic m)

/-! ## Settings (R402, R403, R413) -/

/-- A setting checked: its register holds it and it acts from the next period (R402, R406), or it is refused and nothing changes. -/
def Dev.setting (d : Dev) (v : Via) (off val bad beyond : Nat) : Dev :=
  if !d.serves v off then d
  else if bad != 0 then d.pwrResult 2 0
  else if beyond != 0 then d.pwrResult 3 0
  else ((d.setReg off (BitVec.ofNat 32 val)).pwrResult 0 0).blameAll (fun _ => true) 2 3

/-- PWR_CAP as set. -/
def Dev.capSet (d : Dev) : Nat := bits (d.reg 0x40030).toNat 9 0
/-- PWR_FLOOR as set. -/
def Dev.floorSet (d : Dev) : Nat := bits (d.reg 0x40038).toNat 9 0

/-- PWR_CAP (R413). -/
def execPwrCap (v : Via) (val : Word) (s : State) : Host.Outcome State Fault Refusal :=
  s.onDev (fun d =>
    let w := bits val.toNat 9 0
    d.setting v 0x40030 w (b2n (w < 300 || 950 < w || w < d.floorSet)) (b2n (decide (d.envCap < w))))

/-- PWR_RAMP (R413). -/
def execPwrRamp (v : Via) (val : Word) (s : State) : Host.Outcome State Fault Refusal :=
  s.onDev (fun d =>
    let u := bits val.toNat 11 0
    let w := bits val.toNat 27 16
    d.setting v 0x40034 (u + fld w 16) (b2n (u = 0 || 2000 < u || w = 0 || 2000 < w)) (b2n (d.envRamp < u || d.envRamp < w)))

/-- PWR_FLOOR (R413). -/
def execPwrFloor (v : Via) (val : Word) (s : State) : Host.Outcome State Fault Refusal :=
  s.onDev (fun d =>
    let w := bits val.toNat 9 0
    d.setting v 0x40038 w (b2n (decide (d.capSet < w))) 0)

/-- The controller's state replaced. -/
def Dev.setCtl (d : Dev) (c : Ctl) : Dev := { d with pw := { d.pw with ctl := c } }

/-- PWR_EST_COMMIT (R410, R416, R418): the staged weights act from the next period. -/
def execPwrEstCommit (v : Via) (val : Word) (s : State) : Host.Outcome State Fault Refusal :=
  s.onDev (fun d =>
    let c := d.pw.ctl
    if d.serves v 0x40054 && bitOf val.toNat 0 then
      d.setCtl { c with
        next := some ((List.range 16).map (fun i => bits (d.reg (0x40400 + 4 * i)).toNat 15 0))
        committed := true
        leave := if c.leave = 0 then 1 else c.leave }
    else d)

/-- PWR_GUARD_CLEAR (R418). -/
def execPwrGuardClear (v : Via) (val : Word) (s : State) : Host.Outcome State Fault Refusal :=
  s.onDev (fun d =>
    let c := d.pw.ctl
    if d.serves v 0x40050 && bitOf val.toNat 0 && c.leave = 0 then d.setCtl { c with leave := 2 } else d)

/-! ## The estimator (R409, R410) -/

/-- A watt, in nW. -/
def nW : Nat := 1000000000

/-- The sensors whose mean a domain's leakage takes: a layer-half's own, a quadrant's for a domain of one quadrant, otherwise every
logic sensor (log 27). -/
def sensorsOf (n : Nat) : List Nat :=
  let quad (q : Nat) : List Nat := (List.range 24).map (fun i => 24 * q + i)
  if n < 72 then quad (quadOfCluster n)
  else if n < 80 then (List.range 12).map (fun j => 96 + 12 * (n - 72) + j)
  else if n < 92 then quad (n % 4)
  else List.range 96

/-- An effective temperature, in millionths of a degree. -/
def Dev.temp (d : Dev) (ch : Nat) : Int := Tbl.get d.pw.th.eff ch 0

/-- The mean effective temperature of a domain (R409). -/
def Dev.domTemp (d : Dev) (n : Nat) : Int :=
  let ts := (sensorsOf n).map d.temp
  ts.sum / (ts.length : Int)

/-- LEAK·2^((T − 60 °C)/25 °C) in nW, with 256 fractional bits and the last bit floored (log 28). -/
def leakNw (mw : Nat) (t : Int) : Nat :=
  let x := (t - 60000000) * (fxOne : Int) / 25000000
  let k := x / (fxOne : Int)
  let m := mw * 1000000 * fxExp (fxMul (x - k * fxOne).toNat fxLn2)
  if 0 ≤ k then m * 2 ^ k.toNat / fxOne else m / (fxOne * 2 ^ (-k).toNat)

/-- The leakage of a domain in nW; a record that could not be read holds no table (R463). -/
def Dev.leak (d : Dev) (n : Nat) : Nat := if d.rs.recordOk then leakNw (Config.leakage d.pw.pstate n).toNat (d.domTemp n) else 0

/-- W·n over 2 µs, in nW: a weight unit is 0.25 pJ. -/
def eventNw (w n : Nat) : Nat := w * n * 125

/-- The sum over some weights. -/
def Ctl.events (c : Ctl) (counts ws : List Nat) : Nat := (ws.map (fun i => eventNw (c.active.getD i 0) (counts.getD i 0))).sum

/-! ## The controller (R411) -/

/-- What the controller computes from a period's figures. -/
structure Control where
  ref : Nat
  g : Nat
  f : Nat
  short : Bool
  shortNw : Nat
  deriving DecidableEq, Repr

/-- A number held between two others, the upper bound winning. -/
def clampInt (x lo hi : Int) : Int := min hi (max lo x)

/-- The division of R411 rounded up, for a positive divisor. -/
def ceilInt (a b : Int) : Int := -((-a) / b)

/-- The arithmetic of R411, in nW: E, D and F of the period, FMAX, the cap and floor, the ramp limits times Δt, REF and g. Every
quotient but REF's is formed exactly; REF is floored to a nW (log 28). -/
def control (e dyn fill fmax cap floor up down ref g : Nat) : Control :=
  let n : Int := 64 - g
  let u : Int := ((e : Int) - fill) * n + dyn * g            -- U0·(64 − g)
  let hi : Int := min cap (ref + up)
  let lo : Int := min hi (max floor ((ref : Int) - down))
  let r := clampInt (u / n) lo hi
  let hi' : Int := min cap (r + up)
  let lo' : Int := min hi' (max floor (r - down))
  let g' : Int := if dyn = 0 then g else clampInt (ceilInt (u - hi' * n) dyn) 0 63
  let f' : Int := if fmax = 0 then 0 else clampInt (ceilInt (64 * (lo' * n - u)) (fmax * n)) 0 64
  ⟨r.toNat, g'.toNat, f'.toNat, decide ((fmax : Int) * n < lo' * n - u), ((lo' * n - u) / n - fmax).toNat⟩

/-- Settings and weights that act from the next period, after the envelope has lowered them (R402, R407, R410). -/
def Dev.nextPeriod (d : Dev) : Dev :=
  let cap := min d.capSet d.envCap
  let up := min (bits (d.reg 0x40034).toNat 11 0) d.envRamp
  let down := min (bits (d.reg 0x40034).toNat 27 16) d.envRamp
  let floor := min d.floorSet cap
  let d := ((d.setReg 0x40030 (BitVec.ofNat 32 cap)).setReg 0x40034 (BitVec.ofNat 32 (up + fld down 16))).setReg 0x40038 (BitVec.ofNat 32 floor)
  let c := d.pw.ctl
  d.setCtl { c with cap := cap, up := up, down := down, floor := floor, active := c.next.getD c.active, next := none }

/-- A thermal gate or a write hold is in force (R414). -/
def Dev.hotNow (d : Dev) : Bool := d.pw.th.frac.any (fun e => e.2 != 0) || d.mm.hold != 0 || (List.range 24).any (fun n => (d.chan n).hold)

/-- The throttle indicator at the start of a period or round: set when it throttles, and kept for 100 µs from the end of one that did
(R414); cause POWER for the work under way (R76, R446). -/
def Dev.throttleNow (d : Dev) (was : Bool) : Dev :=
  let d := if 0 < d.pw.ctl.g then d.blameAll (fun _ => true) 2 4 else d
  let d := if d.hotNow then d.blameAll (fun _ => true) 2 5 else d
  if 0 < d.pw.ctl.g || d.hotNow || was then { d with pw := { d.pw with throttle := true, thrLt := d.lt } } else d

/-- CONTROL_PERIOD: a period ends with its event counts and the array cycles no program step claimed. The period counts under the g
and f it ran with; outside guarded mode the controller gives those of the next. -/
def Dev.controlPeriod (d : Dev) (counts : List Nat) (idle : Nat) : Dev :=
  let c := d.pw.ctl
  if !d.hq.mgmtRun || d.lt % 200 != 0 || c.lastPeriod = some d.lt then d
  else
    let e := c.events counts (List.range 16) + (((List.range 97).filter d.on).map d.leak).sum
    let dyn := c.events counts [0, 1, 2, 3, 4, 6, 7, 8, 9]
    let fill := c.events counts [5]
    let fmax := eventNw (c.active.getD 5 0) idle
    let d := if 0 < c.g then d.bump pwrSet 2 1 else d
    let d := if 0 < c.f then d.bump pwrSet 3 1 else d
    let ref := c.ref.getD e
    let k := control e dyn fill fmax (c.cap * nW) (c.floor * nW) (c.up * 2000000) (c.down * 2000000) ref c.g
    let short := if c.guarded then c.short else k.short
    let d := if short then d.bump pwrSet 1 1 else d
    let c := { c with
      est := e
      lastPeriod := some d.lt
      winN := c.winN + 1
      winE := c.winE + e
      winD := c.winD + dyn * 10 ^ 12 / e
      winF := c.winF + fill * 10 ^ 12 / e
      winFmax := c.winFmax + fmax
      winShort := c.winShort + b2n short
      fmaxNw := if c.guarded then c.fmaxNw else fmax
      shortNw := if c.guarded then c.shortNw else k.shortNw
      short := short
      ref := if c.guarded then c.ref else some k.ref
      g := if c.guarded then c.g else k.g
      f := if c.guarded then c.f else k.f }
    ((d.setCtl c).nextPeriod).throttleNow (d.pw.throttle && (0 < d.pw.ctl.g || d.hotNow))

/-- CONTROL_PERIOD (R409, R411, R412). -/
def execControlPeriod (counts : List Nat) (idle : Nat) (s : State) : Host.Outcome State Fault Refusal :=
  s.onDev (fun d => d.controlPeriod counts idle)

/-- THROTTLE_CLEAR (R414): 100 µs after the last throttling period. -/
def execThrottleClear (s : State) : Host.Outcome State Fault Refusal :=
  s.onDev (fun d =>
    if d.pw.throttle && d.pw.thrLt + 10000 ≤ d.lt && d.pw.ctl.g = 0 && !d.hotNow then { d with pw := { d.pw with throttle := false } } else d)

/-! ## Windows and guarded mode (R415 to R418) -/

/-- M in nW: the mean over the samples of their sum over the domains, samples in 1/16 W (R415). -/
def measured (ivr : List (List Nat)) : Nat := (ivr.map List.sum).sum * nW / (16 * ivr.length)

/-- RATIO; where M is 0 or the field too narrow, the manual states no value (log 2). -/
def Dev.ratioOf (d : Dev) (est m : Nat) : Dev × Nat :=
  let r := 1024 * est / m
  if m = 0 || 4095 < r then
    let (i, d) := d.takeFresh
    (d, (Config.freeWord i).toNat % 4096)
  else (d, r)

/-- The window's divergence (R416): a window that diverges counts and advances RUN or restarts it, one that does not sets it to 0 and
has no direction. -/
def Ctl.diverge (c : Ctl) (est m : Nat) : Ctl × Bool :=
  let dir := if m < est then 1 else 2
  let gap := if m < est then est - m else m - est
  if c.committed then ({ c with run := 0, dir := 0 }, false)
  else if 12 * m < 100 * gap then ({ c with run := if c.run != 0 && c.dir = dir then min 7 (c.run + 1) else 1, dir := dir }, true)
  else ({ c with run := 0, dir := 0 }, false)

/-- The guarded controller's run at a window's end (R417), with Δt = 1 ms. -/
def Ctl.guardRun (c : Ctl) : Ctl :=
  let n := max 1 c.winN
  let e := c.meas * 108 / 100
  let fmax := c.winFmax / n
  let k := control e (e * (c.winD / n) / 10 ^ 12) (e * (c.winF / n) / 10 ^ 12) fmax (c.cap * nW) (c.floor * nW) (c.up * nW) (c.down * nW)
    (c.ref.getD e) c.g
  { c with ref := some k.ref, g := k.g, f := k.f, short := k.short, shortNw := k.shortNw, fmaxNw := fmax }

/-- FLOOR_SHORT (R412): posted once when every period of a window fell short, armed again by a window in which none did. -/
def Dev.floorShort (d : Dev) : Dev :=
  let c := d.pw.ctl
  if c.winN != 0 && c.winShort = c.winN && c.armed then
    (d.setCtl { c with armed := false }).post 0x9003 (packB [(0, c.shortNw / nW % 65536), (2, c.fmaxNw / nW % 65536)])
  else if c.winShort = 0 then d.setCtl { c with armed := true }
  else d

/-- MEASUREMENT_WINDOW: a window ends with its IVR samples and the package input. -/
def Dev.measurementWindow (d : Dev) (ivr : List (List Nat)) (input : Nat) : Dev :=
  let c := d.pw.ctl
  if !d.hq.mgmtRun || d.lt % 100000 != 0 || c.lastWin = some d.lt then d
  else
    let m := measured ivr
    let est := if c.winN = 0 then 0 else c.winE / c.winN
    let (d, ratio) := d.ratioOf est m
    let d := d.floorShort
    let c := { d.pw.ctl with
      lastWin := some d.lt
      estW := est
      meas := m
      input := input
      ratio := ratio
      domPower := ((List.range 97).zip (ivr.getLastD [])).foldl (fun (t : Tbl Nat) (e : Nat × Nat) => Tbl.set t e.1 (e.2 % 65536) 0) c.domPower }
    let (c', div) := c.diverge est m
    let d := if div then d.bump pwrSet 0 1 else d
    let exit : Bool := c.guarded && c.leave != 0
    let enter : Bool := !c.guarded && div && c'.run = 4
    let d := if exit then d.post 0x9002 c.leave else d
    let d := if enter then d.post 0x9001 (packB [(0, c'.dir), (4, est / nW % 65536), (6, m / nW % 65536)]) else d
    let c' := { c' with
      guarded := (c.guarded && !exit) || enter
      run := if exit then 0 else c'.run
      dir := if exit then 0 else c'.dir
      leave := 0
      committed := false }
    let c' := if c'.guarded then c'.guardRun else c'
    d.setCtl { c' with winN := 0, winE := 0, winD := 0, winF := 0, winFmax := 0, winShort := 0 }

/-- MEASUREMENT_WINDOW (R415 to R418). -/
def execMeasurementWindow (ivr : List (List Nat)) (input : Nat) (s : State) : Host.Outcome State Fault Refusal :=
  s.onDev (fun d => d.measurementWindow ivr input)

/-! ## Voltage trim (R420) -/

/-- The trims written to the package record, where it takes writes (R494). -/
def Dev.saveTrim (d : Dev) : Dev :=
  let t := d.pw.trim
  if d.fl.writable then
    { d with pw := { d.pw with trim := { t with saveLt := d.lt } }, fl := d.fl.write (fun c => { c with trims := t.now }) }
  else d

/-- A quadrant's trim adjusted by one unit inside ±25 mV; a low margin at the top posts TRIM_LIMIT once. -/
def Dev.trimQuad (d : Dev) (q : Nat) (m : Margin) : Dev :=
  let t := d.pw.trim
  let x := Tbl.get t.now q 0
  let put (y : Int) : Dev := { d with pw := { d.pw with trim := { t with now := Tbl.set t.now q y 0 } } }
  match m with
  | .inside => d
  | .high => if -20 < x then put (x - 1) else d
  | .low =>
    if x < 20 then put (x + 1)
    else if t.atLimit.contains q then d
    else ({ d with pw := { d.pw with trim := { t with atLimit := insertNat q t.atLimit } } } : Dev).post 0x9005 (packB [(0, q), (1, wrapInt 8 x)])

/-- VOLTAGE_TRIM: every 10 s; a trim that has moved 5 mV since the last save is saved. -/
def Dev.voltageTrim (d : Dev) (ms : List Margin) : Dev :=
  if !d.hq.mgmtRun || d.lt < d.pw.trim.lt + 1000000000 then d
  else
    let d := ((List.range 4).zip ms).foldl (fun (d : Dev) (e : Nat × Margin) => d.trimQuad e.1 e.2) d
    let d := { d with pw := { d.pw with trim := { d.pw.trim with lt := d.lt } } }
    let t := d.pw.trim
    if (List.range 4).any (fun q => decide (4 ≤ (Tbl.get t.now q 0 - Tbl.get d.fl.cur.trims q 0).natAbs)) then d.saveTrim else d

/-- VOLTAGE_TRIM (R420). -/
def execVoltageTrim (ms : List Margin) (s : State) : Host.Outcome State Fault Refusal := s.onDev (fun d => d.voltageTrim ms)

/-- TRIM_SAVE (R420): 24 h since the last save. -/
def execTrimSave (s : State) : Host.Outcome State Fault Refusal :=
  s.onDev (fun d => if d.hq.mgmtRun && d.pw.trim.saveLt + 8640000000000 ≤ d.lt then d.saveTrim else d)

end Sys2Proof.Machine
end

