-- ==== Sys2Proof/Machine/Reset.lean ====
section
/-!
DEFINITION. Sys2Proof/Machine/Reset.lean: reset, boot, the training of granary groups and the self test (15; R40, R43, R44, R79, R453 to
R470, R489 to R493). A reset of level 1 to 4 takes effect whole in its command; a device reset runs in three: accepted, its drain window
over, its control partition restarted (log 29). UnitReset.lean holds the first.
-/
namespace Sys2Proof.Machine

/-! ## The device reset (R456, R458, R459) -/

/-- Transit packets a port still holds. -/
def Dev.transit (d : Dev) (p : Nat) : List Packet :=
  (d.port p).rx.filter (fun q => 2 ≤ q.type && q.dst != d.addr) ++ (d.port p).tx.filter (fun q => q.src != d.addr)

/-- QUIESCE sent on every UP port (R459). -/
def Dev.quiesceAll (d : Dev) : Dev := (List.range 18).foldl (fun d p => if (d.port p).state = .up then d.sendLink p 4 0 else d) d

/-- An inbound WRITE or READ_REQ that was not finished is answered TARGET_RESET (R458). -/
def Dev.answerReset (d : Dev) : Dev :=
  (List.range 18).foldl (fun d p =>
    ((d.port p).rx.filter (fun q => (q.type = 2 || q.type = 3) && q.dst = d.addr)).foldl (fun d q =>
      ((d.takeRx p q).bump rstSet 6 1).answer q 1 [] 0) d) d

/-- A queue through a device reset (R54, R456). -/
def Queue.afterReset (x : Queue) : Queue :=
  if x.state = .disabled then x
  else { x with
    state := .stopped, head := x.prod, done := x.prod, nextRead := x.prod, ahead := [], held := [], reason := 0, holdIdx := 0
    coalN := 0, coalStart := none, waits := [] }

/-- A context through a device reset (R84, R456): STOPPED with no work; its waiting records are lost, its SEQ and LOST go on. -/
def Ctx.afterReset (x : Ctx) : Ctx :=
  if x.state = .free then x
  else { x with
    state := .stopped, park := none, preemptReq := none, withheld := false, saved := false, retiredSaved := [], wants := []
    hauls := [], firsts := [], discarded := 0, aborted := 0, ring := { x.ring with waiting := [] } }

/-- Records that wait for a ring. -/
def Dev.waitingRecords (d : Dev) : Nat := d.hq.devRing.waiting.length + (d.hq.ctxs.map (fun e => e.2.ring.waiting.length)).sum

/-- A group through a device reset (R456, R466): placed in self-refresh before it goes off; a training that had not ended runs again. -/
def Group.afterReset (g : Group) : Group :=
  { g with
    selfRef := g.selfRef || g.state = .active || g.state = .degraded
    trained := g.trained && !g.filling
    filling := false
    srDue := false
    state := .off }

/-- A port through a device reset (R461): it trains again with REJOIN when its quadrant is powered; lanes and retirement stay. -/
def Port.afterReset (x : Port) : Port :=
  { Port.empty with
    en := x.en, lr := x.lr, role := x.role, lanes := x.lanes, peerLanes := x.peerLanes
    state := if x.state = .retired then .retired else .disabled
    rejoin := x.en && x.state != .retired }

/-- The control plane through a device reset. The count of descriptors ended is kept, after those of earlier resets, for the
firmware that starts next (R79). -/
def Hqs.afterReset (h : Hqs) : Hqs :=
  { h with
    queues := h.queues.map (fun e => (e.1, e.2.afterReset))
    ctxs := h.ctxs.map (fun e => (e.1, e.2.afterReset))
    devRing := { h.devRing with waiting := [] }
    infl := []
    lastQ := []
    mail := []
    load := if h.bundleLen = 0 then .idle else .running
    updating := false
    ctrlRun := false
    owed := h.owed ++ [(h.infl.length, 5)] }

/-- The memory side through a device reset (R260, R269): lines without write-back, pins and fallow entries, caches of translations. -/
def Mm.afterReset (m : Mm) : Mm :=
  { m with
    groups := m.groups.map (fun e => (e.1, e.2.afterReset))
    chans := m.chans.map (fun e => (e.1, { e.2 with tally := 0 }))
    glean := []
    lines := []
    lru := []
    halves := m.halves.map (fun e => (e.1, { e.2 with pins := [], fallow := [], winReq := 0, winMiss := 0, run := 0, raised := false, ratio := 0 }))
    walks := [], clWalks := [], atc := [], pri := [], inval := none, heldWr := [], queued := [], missOut := [], tags := Store.zero }

/-- The logic die but the always-on domain reset (R396, R453, R456). What granary controllers had accepted drains to the DRAM first (R458); the
clusters lose all they hold, as at any power-off of theirs. -/
def Dev.dieReset (d : Dev) : Dev :=
  let n := d.waitingRecords
  let d := if n = 0 then d else d.bump fltSet 14 n
  let d := ((List.range 96).filter (fun m => m != 94 && d.on m)).foldl (fun d m => d.dropCounters m) d
  let d := (List.range 24).foldl Dev.flushQueue d
  { d with
    hq := d.hq.afterReset
    mm := d.mm.afterReset
    dom := 2 ^ 94
    gr := ⟨[], []⟩
    fab := { d.fab with
      ports := d.fab.ports.map (fun e => (e.1, e.2.afterReset))
      tags := [], txFlow := [], rxFlow := [], quiet := none, returned := [], ended := [], lost := [], handed := false }
    col := { d.col with slots := [], early := [], markers := [], earlyTold := false, armed := [] }
    upd := { d.upd with jobs := [], formed := [], told := [], due := true, ate := none } }

/-- DRAIN_WINDOW_END: no transit packet is left or RST_DRAIN_US has passed. What is left is discarded and counted, QUIESCE goes out, and
the logic die is reset. -/
def Dev.drainOver (d : Dev) : Option Dev :=
  match d.rs.run with
  | none => none
  | some r =>
    let n := ((List.range 18).map (fun p => (d.transit p).length)).sum
    if r.drained || !(n = 0 || r.since + 100 * bits (d.reg 0x160024).toNat 9 0 ≤ d.lt) then none
    else
      let d := d.answerReset
      let d := if n = 0 then d else d.bump rstSet 8 n
      let d := d.quiesceAll.dieReset
      some { d with rs := { d.rs with run := some { r with drained := true } } }

/-- DRAIN_WINDOW_END (R456, R458, R459). -/
def execDrainWindowEnd (s : State) : Host.Outcome State Fault Refusal :=
  s.onBoth (fun c d =>
    match d.drainOver with
    | none => (c, d)
    | some d => (c.renew, d))

/-- CONTROL_PARTITION_RESTART: the bundle is fetched again and its digest compared; RESET_DONE either way, and a firmware that starts
posts the PROMISE_BROKEN owed (R79, R464). -/
def Dev.partitionRestart (d : Dev) (v : BundleVerdict) : Dev :=
  match d.rs.run with
  | none => d
  | some r =>
    if !r.drained then d
    else
      let ok : Bool := decide (v ≠ .hostError) && decide (d.hq.bundleLen ≠ 0)
        && decide (Config.sha512 (d.hostRead d.hq.bundleAddr d.hq.bundleLen) = d.hq.digest)
      let n := (d.hq.owed.getLast?).elim 0 (·.1)
      let d := { d with
        rs := { d.rs with run := none }
        hq := { d.hq with ctrlRun := ok, load := if ok then .running else .idle } }
      let d := d.resetDone 5 0 n
      if ok then d.firmwareStart else d

/-- CONTROL_PARTITION_RESTART (R464). -/
def execControlPartitionRestart (v : BundleVerdict) (s : State) : Host.Outcome State Fault Refusal := s.onDev (fun d => d.partitionRestart v)

/-! ## Cold reset and boot (R39, R40, R453, R462, R463, R489) -/

/-- The part held in cold reset: reset values, but for the package record, the board's pins and rails, and the world outside with what the
ports have put out. -/
def Dev.cold (d : Dev) : Dev :=
  { State.reset.dev with
    fresh := d.fresh
    env := d.env
    fl := { State.reset.dev.fl with cur := d.fl.cur, older := d.fl.older, factory := d.fl.factory, factoryWays := d.fl.factoryWays, wpn := d.fl.wpn }
    pw := { Pwr.cold with
      th := { Pwr.cold.th with thermtrip := d.pw.th.thermtrip } }
    fab := { State.reset.dev.fab with wire := d.fab.wire, laneOut := d.fab.laneOut }
    rs := { State.reset.dev.rs with rails := d.rs.rails, refclk := d.rs.refclk, perst := d.rs.perst } }

/-- Identity and licences while the part is held: what the flash and the factory hold. -/
def Sec.cold (s : Sec) : Sec :=
  { s with lic := 0, seq := 0, nonce := 0, identity := false, deviceKey := 0, status := 0, lastSeq := 0, versioned := false, negotiated := false
           vca := [], certs := [], measured := [] }

/-- The floor plan loaded at STAGE 4 as one update (R43, R44): the factory map, then the retirement list. -/
def Floor.load (f : Floor) (ok : Bool) : Floor :=
  let entry (state source cause : Nat) : Word := BitVec.ofNat 32 (state + fld source 2 + fld cause 4 + fld 1 16)
  let fac := if ok then f.factory else []
  let lst := if ok then f.cur.list else []
  let cores := fac.foldl (fun (t : Tbl Word) (e : Nat × Nat) => Tbl.put t e.1 (entry 1 1 e.2)) []
  let cores := (lst.filter (fun e => e.1 = 1)).foldl (fun (t : Tbl Word) (e : Nat × Nat × Nat × Nat) =>
    Tbl.put t e.2.1 (entry 2 3 e.2.2.2)) cores
  let count (s : Nat) : Nat := (cores.filter (fun e => bits e.2.toNat 1 0 = s)).length
  let ports := (lst.filter (fun e => e.1 = 2 || e.1 = 3)).foldl (fun (t : Tbl Nat) (e : Nat × Nat × Nat × Nat) =>
    if Tbl.get t e.2.1 0 = 2 then t else Tbl.put t e.2.1 (if e.1 = 3 then 2 else 3)) []
  let chans := (lst.filter (fun e => e.1 = 4)).foldl (fun (t : Tbl Nat) (e : Nat × Nat × Nat × Nat) => Tbl.put t e.2.1 2) []
  { f with cores := cores, ports := ports, chans := chans, defect := count 1, retired := count 2, good := 1296 - count 1 - count 2, seq := 1 }

/-- The retirement list of a half as cold reset rebuilds it: the factory's pairs, then those of the record (R260). -/
def Floor.llcList (f : Floor) (ok : Bool) (h : Nat) : List RetEntry :=
  let ps : List (Nat × Nat × Nat × Nat) :=
    (f.factoryWays.filter (fun e => e.1 = h)).map (fun e => (e.2.1, e.2.2.1, e.2.2.2, 1))
    ++ (f.cur.list.filter (fun e => e.1 = 5 && e.2.1 = h)).map (fun e => (e.2.2.1 / 2048 % 640, e.2.2.1 % 2048, e.2.2.2, 3))
  if ok then ((List.range ps.length).zip ps).map (fun e => RetEntry.mk e.2.1 e.2.2.1 e.2.2.2.1 e.2.2.2.2 (BitVec.ofNat 32 (e.1 + 1))) else []

/-- The ports as the floor plan gives them: retired, or without their retired lanes. -/
def Floor.bootPorts (f : Floor) (ok : Bool) : Tbl Port :=
  let lst := if ok then f.cur.list else []
  (List.range 18).filterMap (fun p =>
    let lanes := (lst.filter (fun e => e.1 = 2 && e.2.1 = p)).foldl (fun m e => m &&& (255 - 2 ^ e.2.2.1)) 255
    let x := { Port.empty with lanes := lanes, state := if Tbl.get f.ports p 0 = 2 then .retired else .disabled }
    if x = Port.empty then none else some (p, x))

/-- POWER_ON: the boot ROM's stages (R462, R463). A record that is absent or fails gives the session nothing, and stays stored as it is. A
boot without REFCLK's PLLs stays in the always-on domain. -/
def Dev.boot (d : Dev) (b : Boot) : Dev :=
  let ok : Bool := b.record.usable
  let err := if !b.pll then 4 else match b.record with
    | .absent => 1
    | .bad => 2
    | _ => if b.puf then 0 else 3
  let mode := if !ok then 2 else if b.strap.val = 3 then 1 else b.strap.val
  let fl := (if b.record = .older then { d.fl with cur := d.fl.older } else d.fl).load ok
  let ret (h : Nat) : List RetEntry := fl.llcList ok h
  let d := { d with
    lt := 0
    fl := { fl with noRecord := !ok }
    mm := { d.mm with halves := (List.range 2).filterMap (fun h =>
      if (ret h).isEmpty then none else some (h, { LlcHalf.empty with ret := ret h, retSeq := BitVec.ofNat 32 (ret h).length })) }
    fab := { d.fab with ports := fl.bootPorts ok }
    pw := { d.pw with trim := { d.pw.trim with now := if ok then fl.cur.trims else [] } }
    rs := { d.rs with
      stage := if b.pll then 6 else 4
      error := err
      recordOk := ok
      strap := b.strap.val }
    mc := { d.mc with addr := b.addr.val } }
  let d := d.setReg 0x160020 (BitVec.ofNat 32 (mode + fld (b2n (ok && b.strap.val = 3)) 8))
  if b.pll then d.resetDone 6 0 0 else d

/-- The identity and licences as the boot ROM finds them (R471, R474, R476). Where the newest copy does not verify and the older one does, the
older one's are those before the last gate request that wrote, if that wrote the newest copy (R472). -/
def Sec.boot (s : Sec) (b : Boot) (newest : Word) : Sec :=
  let ok : Bool := b.record.usable
  let s := if b.record = .older && s.wroteGen = newest then { s with flashSlots := s.olderSlots, flashKeys := s.olderKeys } else s
  let s := { s with
    slots := if ok then s.flashSlots else []
    keys := if ok then s.flashKeys else []
    identity := b.puf
    deviceKey := if b.puf then Config.ed25519Public (Config.pufSeed s.helper) else 0 }
  s.renew.takeLicences

/-- POWER_ON (R462, R488, R489): the conditions on rails, REFCLK and PERST_N hold, and cold reset is released. -/
def execPowerOn (b : Boot) (s : State) : Host.Outcome State Fault Refusal :=
  s.onBoth (fun c d =>
    if d.rs.stage = 0 && d.rs.perst then (c.boot b d.fl.cur.gen, { d with rs := { d.rs with rails := true, refclk := true } }.boot b) else (c, d))

/-- PERST_N (R453, R459, R492): asserted, QUIESCE goes out and a cold reset takes the place of any reset; deasserted, the boot waits for
POWER_ON. -/
def execPerstN (level : Bool) (s : State) : Host.Outcome State Fault Refusal :=
  s.onBoth (fun c d =>
    if level then (c, { d with rs := { d.rs with perst := true } })
    else (c.cold, { d.quiesceAll.cold with rs := { d.cold.rs with perst := false } }))

/-- RAIL_LOSS (R489): a loss of power. PERST_N has to be released again. THERMTRIP_N stays asserted until VDD_AON is removed (R493). -/
def execRailLoss (aon : Bool) (s : State) : Host.Outcome State Fault Refusal :=
  s.onBoth (fun c d =>
    let d := d.cold
    (c.cold, { d with
      rs := { d.rs with rails := false, perst := false }
      pw := { d.pw with th := { d.pw.th with thermtrip := d.pw.th.thermtrip && !aon } } }))

/-- REFCLK_LOSS (R40): every domain but the always-on domain stops until a cold reset, and the management port is told. -/
def execRefclkLoss (s : State) : Host.Outcome State Fault Refusal :=
  s.onDev (fun d => { d with rs := { d.rs with refclk := false }, mc := { d.mc with clockLost := true } })

/-- THERMTRIP (R493). -/
def execThermtrip (s : State) : Host.Outcome State Fault Refusal :=
  s.onDev (fun d => { d with pw := { d.pw with th := { d.pw.th with thermtrip := true } } })

/-! ## RST_CMD (R453, R455) -/

/-- The number of targets of a level; 1 where it takes none. -/
def resetTargets (level : Nat) : Nat := match level with | 1 => 1296 | 2 => 72 | 3 => 4 | _ => 2048

/-- A refused reset. -/
def Dev.refuseReset (d : Dev) (r : Nat) : Dev := { d with rs := { d.rs with result := r } }

/-- RST_CMD: refused, or the level's reset. One of level 1 to 4 waits for a power transition, but for a core that is not GOOD, which
completes at once (R455). -/
def resetCommand (v : Via) (level target : Nat) (c : Sec) (d : Dev) : Sec × Dev :=
  if !d.serves v 0x160004 then (c, d)
  else if d.resetting then (c, d.refuseReset 1)
  else if level = 0 || 6 < level || resetTargets level ≤ target then (c, d.refuseReset 2)
  else if level = 6 then (if v = .pcie then (c, d.refuseReset 3) else (c.cold, d.quiesceAll.cold))
  else
    let c := if 4 ≤ level then c.takeLicences else c
    if level = 5 then (c, d.acceptDevice 1)
    else if d.pw.busy && (level != 1 || d.coreGood target) then (c, { d.acceptReset level 1 with rs := { (d.acceptReset level 1).rs with wait := some (level, if level = 4 then 0 else target) } })
    else (c, (d.acceptReset level 1).resetUnits level (if level = 4 then 0 else target))

/-- CORE_RESET (R453, R457). -/
def execCoreReset (v : Via) (n : Nat) (s : State) : Host.Outcome State Fault Refusal := s.onBoth (resetCommand v 1 n)
/-- CLUSTER_RESET (R453, R457). -/
def execClusterReset (v : Via) (n : Nat) (s : State) : Host.Outcome State Fault Refusal := s.onBoth (resetCommand v 2 n)
/-- QUADRANT_RESET (R453, R457). -/
def execQuadrantReset (v : Via) (n : Nat) (s : State) : Host.Outcome State Fault Refusal := s.onBoth (resetCommand v 3 n)
/-- COMPUTE_RESET (R453, R457). -/
def execComputeReset (v : Via) (s : State) : Host.Outcome State Fault Refusal := s.onBoth (resetCommand v 4 0)
/-- DEVICE_RESET (R456). -/
def execDeviceReset (v : Via) (s : State) : Host.Outcome State Fault Refusal := s.onBoth (resetCommand v 5 0)
/-- COLD_RESET (R453, R455): over PCIe it is refused with SELF_GATE. -/
def execColdReset (v : Via) (s : State) : Host.Outcome State Fault Refusal := s.onBoth (resetCommand v 6 0)

/-- PHYSICAL_FUNCTION_FLR (R453): a device reset; one in progress goes on. -/
def execPhysicalFunctionFlr (s : State) : Host.Outcome State Fault Refusal :=
  s.onBoth (fun c d => if d.pcieUp && d.rs.run.isNone then (c.takeLicences, d.acceptDevice 1) else (c, d))

/-! ## Function Level Reset of a virtual function (R454) -/

/-- The contexts bound to a function. -/
def Dev.ctxsOf (d : Dev) (vf : Fin 16) : List CtxId :=
  d.hq.ctxs.filterMap (fun e => if h : e.1 < 256 then (if e.2.state != .free && e.2.vf = vf then some ⟨e.1, h⟩ else none) else none)

/-- A context ended without waiting for its work: nothing more is written to its rings. Its transfers stop at a unit boundary that the
manual does not name, so what a moving one has yet to write is free (log 57). -/
def Dev.endCtx (d : Dev) (c : CtxId) : Dev :=
  let tags := (d.hq.infl.filter (fun e => e.2.ctx = c)).map (·.1)
  let d := (d.col.slots.filter (fun e => e.2.ctx = c)).foldl (fun d e => d.abortColl e.2.tag 7 d.addr 7 true) d
  let d := (List.finRange 72).foldl (fun d cl => d.blurMoving cl (fun x => x.ctx = c)) d
  let d := tags.foldl (fun d t => if h : t < 16384 then d.leaveCores ⟨t, h⟩ else d) d
  let d := { d with
    gr := { d.gr with
      clusters := d.gr.clusters.map (fun (e : Nat × Cluster) => (e.1, { e.2 with drill := e.2.drill.filter (fun x => x.ctx != c) })) }
    col := { d.col with slots := d.col.slots.filter (fun e => e.2.ctx != c) }
    upd := { d.upd with jobs := d.upd.jobs.filter (fun e => !tags.contains e.1) }
    mm := { d.mm with pri := d.mm.pri.filter (fun p => p.ctx != c) }
    hq := { d.hq with
      infl := d.hq.infl.filter (fun e => e.2.ctx != c)
      queues := d.hq.queues.map (fun (e : Nat × Queue) =>
        if e.2.ctx = c then (e.1, { e.2 with state := .disabled, held := [], reason := 0, holdIdx := 0, head := e.2.prod, nextRead := e.2.prod
                                             waits := [], coalN := 0, coalStart := none }) else e) } }
  let d := (List.range 72).foldl (fun d k => d.freeCluster k) d
  (d.releaseRanges c).modCtx c (fun x => { x with
    state := .free, pasid := 0, vf := 0, exclusive := false, mask := 0, save := 0, park := none, preemptReq := none, withheld := false
    saved := false, retiredSaved := [], wants := [], hauls := [], firsts := [], discarded := 0, aborted := 0, job := none, ring := { x.ring with waiting := [], stopped := true } })

/-- FUNCTION_LEVEL_RESET. Number 0 is the physical function, whose reset is PHYSICAL_FUNCTION_FLR. -/
def Dev.functionReset (d : Dev) (vf : Fin 16) : Dev :=
  if vf = 0 || !d.pcieUp || d.rs.run.isSome then d
  else
    let cs := d.ctxsOf vf
    let n := (d.hq.infl.filter (fun e => cs.contains e.2.ctx)).length
    let d := cs.foldl (fun d c => d.endCtx c) d
    let d := d.post 0xB001 (packB [(0, 7), (2, vf.val), (4, 1), (8, n)])
    d.post 0x1001 (packB [(4, n), (12, 3), (14, 7)])

/-- FUNCTION_LEVEL_RESET (R454). -/
def execFunctionLevelReset (vf : Fin 16) (s : State) : Host.Outcome State Fault Refusal := s.onFab (fun d => d.functionReset vf)

/-! ## Training of granary groups (R466, R467) -/

/-- GROUP_TRAINING_DONE: for each channel of the group the attempt it passed, 0 for one that failed three. The map takes the channels that
passed and are not retired. A first training goes on into the zero fill; a later one leaves the contents undefined. -/
def Dev.groupTrained (d : Dev) (g : Nat) (passed : List Nat) : Dev :=
  let x := d.group g
  if x.state != .training || x.filling || !d.on (84 + g) then d
  else
    let at_ (i : Nat) : Nat := passed.getD i 0
    let ok (i : Nat) : Bool := 1 ≤ at_ i && at_ i ≤ 3
    let mine := (List.range 6).filter (fun i => d.chanState (6 * g + i) = 0)
    let map := (mine.filter ok).map (fun i => 6 * g + i)
    let tries := (mine.map (fun i => if ok i then at_ i else 3)).foldl max 0
    let d := { d with fl := { d.fl with due := (mine.filter (fun i => !ok i)).foldl (fun l i => insertNat (6 * g + i) l) d.fl.due } }
    let d := d.trainDone (18 + g) tries (Tbl.get d.rs.groupLt g 0) (!map.isEmpty)
    if x.trained then ((d.modGroup g (fun y => { y with state := .active, map := map })).scramble g).writeResumes
    else d.modGroup g (fun y => { y with map := map, trained := true, filling := true })

/-- GROUP_TRAINING_DONE (R466). -/
def execGroupTrainingDone (g : GroupId) (passed : List Nat) (s : State) : Host.Outcome State Fault Refusal :=
  s.onDev (fun d => d.groupTrained g passed)

/-- ZERO_FILL_DONE: the whole map holds zero with valid check bits, and the group serves. -/
def Dev.zeroFilled (d : Dev) (g : Nat) : Dev :=
  let x := d.group g
  if x.state = .training && x.filling && d.on (84 + g) then
    let lo := g * 2 ^ 37
    let d := d.setGran ⟨Tbl.cut d.mm.gran.data lo (2 ^ 37), Tbl.cut d.mm.gran.chk (lo / 64) (2 ^ 31)⟩
    let d := d.modGroup g (fun y => { y with epoch := 0, filling := false })
    (d.modGroup g (fun y => { y with state := d.servingState g })).writeResumes
  else d

/-- ZERO_FILL_DONE (R467). -/
def execZeroFillDone (g : GroupId) (s : State) : Host.Outcome State Fault Refusal := s.onDev (fun d => d.zeroFilled g)

/-! ## Start-up self test (R468) -/

/-- RST_SELFTEST_CMD: refused with a code, or the test runs. -/
def Dev.selftest (d : Dev) (v : Via) (val : Word) : Dev :=
  let off := (List.range 80 ++ [88, 89, 90, 91, 95]).any (fun n => !d.on n)
  let r := if off then 1 else if d.fl.valid then 2 else if d.resetting || d.rs.test = 1 then 3 else 0
  if !d.serves v 0x16002C || !bitOf val.toNat 0 then d
  else if r = 0 then { d with rs := { d.rs with test := 1, testResult := 0, testLt := d.lt } }
  else { d with rs := { d.rs with testResult := r } }

/-- RST_SELFTEST_CMD (R468). -/
def execRstSelftestCmd (v : Via) (val : Word) (s : State) : Host.Outcome State Fault Refusal := s.onDev (fun d => d.selftest v val)

/-- A core the test found bad: DEFECT with SOURCE 2, unless it was DEFECT or RETIRED already (R42, R43). -/
def Floor.found (f : Floor) (core cause : Nat) : Floor :=
  if 1296 ≤ core || bits (Tbl.get f.cores core 0).toNat 1 0 != 0 then f
  else { f with
    cores := Tbl.put f.cores core (BitVec.ofNat 32 (1 + fld 2 2 + fld (cause % 16) 4 + fld ((f.seq + 1).toNat % 65536) 16))
    good := f.good - 1
    defect := f.defect + 1 }

/-- A way pair the test found bad entered in its half's list (R260, R468). -/
def LlcHalf.foundPair (x : LlcHalf) (s set pair : Nat) : LlcHalf :=
  if 1024 ≤ x.ret.length || x.ret.any (fun e => e.slice = s && e.set = set && e.pair = pair) then x
  else { x with ret := x.ret ++ [RetEntry.mk s set pair 2 (x.retSeq + 1)], retSeq := x.retSeq + 1 }

/-- SELF_TEST_END: the results are one floor-plan update, GLB_FP_VALID is set, caches and local stores hold zero. -/
def Dev.selftestEnd (d : Dev) (cores : List (Nat × Nat)) (pairs : List (Nat × Nat × Nat × Nat)) : Dev :=
  if d.rs.test != 1 || d.rs.run.isSome then d
  else
    let d := d.fpUpdate (fun f => { cores.foldl (fun (f : Floor) (e : Nat × Nat) => f.found e.1 e.2) f with valid := true })
    let d := pairs.foldl (fun (d : Dev) (e : Nat × Nat × Nat × Nat) => d.modHalf e.1 (fun x => x.foundPair e.2.1 e.2.2.1 e.2.2.2)) d
    let d := { d with
      mm := { d.mm with lines := [], lru := [], tags := Store.zero }
      gr := { d.gr with cores := d.gr.cores.map (fun (e : Nat × Core) => (e.1, { e.2 with ls := Store.zero, orig := [], l1 := [], l1lru := [] })) }
      rs := { d.rs with test := 2, testMs := min 65535 ((d.lt - d.rs.testLt) / 100000) } }
    d.post 0xB002 (packB [(0, d.fl.good), (2, d.fl.defect), (4, d.fl.retired), (8, d.fl.seq.toNat)])

/-- SELF_TEST_END (R468). -/
def execSelfTestEnd (cores : List (Nat × Nat)) (pairs : List (Nat × Nat × Nat × Nat)) (s : State) : Host.Outcome State Fault Refusal :=
  s.onDev (fun d => d.selftestEnd cores pairs)

end Sys2Proof.Machine
end

