-- ==== Sys2Proof/Machine/Thermal.lean ====
section
/-!
DEFINITION. Sys2Proof/Machine/Thermal.lean: the housekeeping round (13, R421 to R430): readings, the neighbour model, SUSPECT,
write holds, thermal gating, granary readouts and the trip. Temperatures are in millionths of a degree (log 28).
-/
namespace Sys2Proof.Machine

/-- A degree Celsius. -/
def degC : Int := 1000000

/-- The sensor channel of a cache position: layer-half b = 2·(k − 1) + h, position j (R421). -/
def posChan (b j : Nat) : Nat := 96 + 12 * b + j

/-- The logic sensor under position j of half h (R421). -/
def underPos (h j : Nat) : Nat := if j < 6 then 48 * h + j else 48 * h + 24 + (j - 6)

/-- w_k in percent and θ_k in 10^-4 K/W (R422). -/
def modelWeights (k : Nat) : Nat × Nat :=
  match k with
  | 1 => (55, 1000)
  | 2 => (50, 1250)
  | 3 => (50, 1000)
  | _ => (45, 625)

/-- T_model of R422, P in nW. -/
def tModel (k : Nat) (below above : Int) (p : Nat) : Int :=
  let (w, th) := modelWeights k
  ((w : Int) * below + ((100 - w : Nat) : Int) * above) / 100 + ((th * p / 10 ^ 7 : Nat) : Int)

/-- A maximum; 0 of none. -/
def maxOf (ts : List Int) : Int := match ts with | [] => 0 | t :: ts => ts.foldl max t
/-- A minimum. -/
def minOf (ts : List Int) : Int := match ts with | [] => 0 | t :: ts => ts.foldl min t
/-- A mean. -/
def meanOf (ts : List Int) : Int := ts.sum / (ts.length : Int)

/-- A temperature as the registers and records hold it: 1/8 °C in 12 bits, floored. -/
def eighths (t : Int) : Int := t / 125000

/-! ## The state of the round -/

/-- The part with its thermal state replaced. -/
def Dev.setTh (d : Dev) (t : Therm) : Dev := { d with pw := { d.pw with th := t } }

/-- The last reading of a temperature channel. -/
def Dev.reading (d : Dev) (ch : Nat) : Int := Tbl.get d.pw.th.read ch 0 * 125000

/-- An effective temperature written. -/
def Dev.setEff (d : Dev) (ch : Nat) (t : Int) : Dev := d.setTh { d.pw.th with eff := Tbl.set d.pw.th.eff ch t 0 }

/-- A layer-half is SUSPECT. -/
def Dev.isSuspect (d : Dev) (b : Nat) : Bool := bitOf d.pw.th.suspect b

/-! ## Readings (R421) -/

/-- A conversion is good: present and, of a temperature channel, from −40 °C to 150 °C. A powered-off layer-half is not read. -/
def goodSample (ch : Nat) (x : Option Int) : Bool :=
  match x with
  | none => false
  | some v => 204 ≤ ch || (-320 ≤ v && v ≤ 1200)

/-- A channel that the round reads. -/
def Dev.reads (d : Dev) (ch : Nat) : Bool := ch < 230 && (ch < 96 || 192 ≤ ch || d.on (72 + (ch - 96) / 12))

/-- A channel's sample taken: FAILED from the first bad one on. -/
def Dev.sample (d : Dev) (ch : Nat) (x : Option Int) : Dev :=
  if !d.reads ch then d
  else
    let d := match x with
      | some v => d.setTh { d.pw.th with read := Tbl.set d.pw.th.read ch v 0 }
      | none => d
    if goodSample ch x || d.pw.th.failed.contains ch then d
    else (d.setTh { d.pw.th with failed := insertNat ch d.pw.th.failed }).post 0xA003 ch

/-! ## Effective values (R422 to R424) -/

/-- The logic sensors: a FAILED one takes the largest effective value of the others of its quadrant. -/
def Dev.effLogic (d : Dev) : Dev :=
  let bad (c : Nat) : Bool := d.pw.th.failed.contains c
  let quad (c : Nat) : List Nat := (List.range 24).map (fun i => c / 24 * 24 + i)
  (List.range 96).foldl (fun (e : Dev) c =>
    if !bad c then e.setEff c (d.reading c)
    else
      let ts := ((quad c).filter (fun i => !bad i)).map d.reading
      if ts.isEmpty then e else e.setEff c (maxOf ts)) d

/-- The mean power of a layer-half over the round's 1 ms, in nW: a weight unit of 0.25 pJ for each sector access and bridge beat of its
traffic, floored, and its leakage (R410, R422). -/
def Dev.layerPower (d : Dev) (b : Nat) (traffic : Nat × Nat) : Nat :=
  let w (i : Nat) : Nat := d.pw.ctl.active.getD i 0
  (w 10 * traffic.1 + w 11 * traffic.2) / 4 + d.leak (72 + b)

/-- The temperature above position j of a layer-half in the previous round; over layer 4 it is the plate. -/
def Dev.aboveOf (d : Dev) (prev : Tbl Int) (b j : Nat) : Int :=
  if b < 6 then Tbl.get prev (posChan (b + 2) j) 0 else ((bits (d.reg 0x4006C).toNat 9 0 : Nat) : Int) * 250000

/-- The temperature below position j in this round. -/
def Dev.belowOf (d : Dev) (b j : Nat) : Int := d.temp (if b < 2 then underPos b j else posChan (b - 2) j)

/-- A layer-half evaluated: model, Δ and SUSPECT, effective values. The list of those that became SUSPECT, with Δ, goes on. -/
def Dev.effLayer (prev : Tbl Int) (traffic : List (Nat × Nat)) (r : Dev × List (Nat × Int)) (b : Nat) : Dev × List (Nat × Int) :=
  let (d, new) := r
  let on := d.on (72 + b)
  let p := if on then d.layerPower b (traffic.getD b (0, 0)) else 0
  let js := List.range 12
  let model (j : Nat) : Int := tModel (b / 2 + 1) (d.belowOf b j) (d.aboveOf prev b j) p
  let good := js.filter (fun j => !d.pw.th.failed.contains (posChan b j))
  let delta := meanOf (good.map model) - meanOf (good.map (fun j => d.reading (posChan b j)))
  let run := if on && !good.isEmpty && decide (6 * degC < delta) then Tbl.get d.pw.th.rounds b 0 + 1 else 0
  let become : Bool := on && !d.isSuspect b && 3 ≤ run
  let sus : Bool := d.isSuspect b || become
  let eff (j : Nat) : Int :=
    let c := posChan b j
    if !on || d.pw.th.failed.contains c then model j
    else if sus then max (d.reading c) (model j)
    else d.reading c
  let th := { d.pw.th with
    rounds := Tbl.set d.pw.th.rounds b (min run 3) 0
    suspect := if become then d.pw.th.suspect ||| 2 ^ b else d.pw.th.suspect
    model := js.foldl (fun (t : Tbl Int) j => Tbl.set t (12 * b + j) (model j) 0) d.pw.th.model
    eff := js.foldl (fun (t : Tbl Int) j => Tbl.set t (posChan b j) (eff j) 0) d.pw.th.eff }
  (d.setTh th, if become then new ++ [(b, delta)] else new)

/-! ## Trip (R429, R430) -/

/-- PWR_TRIP and THERMAL_TRIP, with cause POWER for the promises a trip breaks (R406): a device reset follows, and a transition in progress
ends with TRIPPED (R8, R429, R430). -/
def Dev.trip (d : Dev) (ch : Nat) (t : Int) : Dev :=
  let d := d.setTh { d.pw.th with tripped := true, tripCh := ch, tripTemp := t }
  let d := (d.post 0xA004 (packB [(0, ch), (2, wrapInt 16 (eighths t))])).blameAll (fun _ => true) 2 6
  let x := d.pw.trans
  let d := d.setTrans none
  let d := if d.rs.run.isSome then d else d.acceptDevice 2
  match x with
  | some x => d.pwrDone x.kind 8 (if x.kind = 1 || x.kind = 4 then 0 else x.pos)
  | none => d

/-- The hottest of some channels. -/
def Dev.hottest (d : Dev) (cs : List Nat) : Nat := cs.foldl (fun m c => if d.temp m < d.temp c then c else m) (cs.getD 0 0)

/-- The channels a trip is judged on. -/
def tripChans : List Nat := List.range 192

/-- The channel that trips in this round. -/
def Dev.tripAt (d : Dev) : Option Nat :=
  let c := d.hottest tripChans
  if 115 * degC < d.temp c then some c else none

/-! ## Write holds (R425, R257, R272, R428) -/

/-- The effective temperatures of a layer-half. -/
def Dev.halfTemps (d : Dev) (b : Nat) : List Int := (List.range 12).map (fun j => d.temp (posChan b j))

/-- A layer-half's write hold begins or ends. -/
def Dev.holdLayer (d : Dev) (b : Nat) : Dev :=
  let ts := d.halfTemps b
  let pay (n : Nat) : Nat := packB [(0, b / 2 + 1), (1, b % 2), (4, n % 2 ^ 32)]
  if bitOf d.mm.hold b then
    if maxOf ts ≤ 105 * degC && 3 * degC ≤ minOf ts then
      let n := Tbl.get d.mm.holdN b 0
      let mine (a : Nat) : Bool := match d.mm.lines.find? (fun l => l.num = a / 256 && l.half = b % 2) with
        | some l => lhBit (layerOf l.pair) l.half = b
        | none => true
      let d := { d with mm := { d.mm with
        hold := d.mm.hold - 2 ^ b
        holdN := Tbl.erase d.mm.holdN b
        heldWr := d.mm.heldWr.filter (fun e => 2 ^ 32 ≤ e.1 || !mine e.2) } }
      (d.runDeferred (b % 2) mine).post 0x3005 (pay n)
    else d
  else if 108 * degC < maxOf ts || minOf ts < 0 then
    ({ d with mm := { d.mm with hold := d.mm.hold ||| 2 ^ b, holdN := Tbl.erase d.mm.holdN b } } : Dev).post 0x3004 (pay 0)
  else d

/-- A package's readout copied to both its channels, and their write hold. As a hold ends, what waits in the channel's queue is written, a
group's SR_ENTER that waited for it takes effect, and the misses that waited for their victims' write-backs are tried anew. -/
def Dev.holdPackage (d : Dev) (p : Nat) : Dev :=
  let ch := 192 + p
  if d.pw.th.failed.contains ch then d
  else
    let t := d.reading ch
    let c := (t / degC)
    [2 * p, 2 * p + 1].foldl (fun (d : Dev) n =>
      let d := d.modChan n (fun x => { x with temp := wrapInt 8 c })
      let pay (v : Nat) : Nat := packB [(0, n), (4, v % 2 ^ 32)]
      if (d.chan n).hold then
        if t ≤ 102 * degC then
          let k := (d.chan n).held
          let here (a : Nat) : Bool := (d.chanOf a).1 = n
          let d := d.modChan n (fun x => { x with hold := false, held := 0 })
          let d := { d.flushQueue n with mm := { (d.flushQueue n).mm with
            missOut := []
            heldWr := d.mm.heldWr.filter (fun e => e.1 < 2 ^ 32 || !here e.2) } }
          ((d.runDeferred (2 + n / 6) here).settleSr (n / 6)).post 0x4004 (pay k)
        else d
      else if 105 * degC < t then
        (d.modChan n (fun x => { x with hold := true, held := 0 })).post 0x4003 (packB [(0, n), (1, wrapInt 8 c)])
      else d) d

/-! ## Thermal gating (R426) -/

/-- The next fraction of a source: it starts at 16, rises by 8 up to 56 above its limit, falls by 8 at its release. -/
def nextFrac (now : Nat) (t limit release : Int) (start : Bool) : Nat :=
  if now = 0 then (if start then 16 else 0)
  else if limit < t then min 56 (now + 8)
  else if t ≤ release then now - 8
  else now

/-- The quadrants a source gates: a logic sensor its own, a layer-half both of its half. -/
def gatesQuad (key q : Nat) : Bool := if key < 96 then key / 24 = q else (key - 96) % 2 = q / 2

/-- The fraction of a quadrant: the largest of its sources. -/
def Dev.quadFrac (d : Dev) (q : Nat) : Nat := ((d.pw.th.frac.filter (fun e => gatesQuad e.1 q)).map (·.2)).foldl max 0

/-- Every source's fraction in this round. -/
def Dev.gateRound (d : Dev) : Dev :=
  let fr := d.pw.th.frac
  let logic := (List.range 96).foldl (fun (t : Tbl Nat) c =>
    Tbl.set t c (nextFrac (Tbl.get fr c 0) (d.temp c) (105 * degC) (102 * degC) (decide (105 * degC < d.temp c))) 0) fr
  let all := (List.range 8).foldl (fun (t : Tbl Nat) b =>
    let m := maxOf (d.halfTemps b)
    Tbl.set t (96 + b) (nextFrac (Tbl.get fr (96 + b) 0) m (108 * degC) (105 * degC) (bitOf d.mm.hold b && decide (108 * degC < m))) 0) logic
  d.setTh { d.pw.th with frac := all }

/-- THERMAL_GATE_ON and THERMAL_GATE_OFF of a quadrant. The channel given is the hottest of its sources. -/
def Dev.gateEvents (d : Dev) (before : List Nat) (q : Nat) : Dev :=
  let was := before.getD q 0
  let now := d.quadFrac q
  if was = 0 && now != 0 then
    let cs := ((d.pw.th.frac.filter (fun e => gatesQuad e.1 q && e.2 != 0)).flatMap (fun e =>
      if e.1 < 96 then [e.1] else (List.range 12).map (fun j => posChan (e.1 - 96) j)))
    let c := d.hottest cs
    d.post 0xA001 (packB [(0, q), (1, c), (2, wrapInt 16 (eighths (d.temp c)))])
  else if was != 0 && now = 0 then d.post 0xA005 q
  else d

/-! ## The round -/

/-- SENSOR_ROUND: readings, model and effective values; then the trip, the SUSPECT update, write holds and gating, in that order
(R430). -/
def sensorRound (samples : List (Option Int)) (traffic : List (Nat × Nat)) (c : Sec) (d : Dev) : Sec × Dev :=
  if !d.hq.mgmtRun || d.lt % 100000 != 0 || d.pw.th.lastRound = some d.lt then (c, d)
  else
    let was := d.pw.throttle && d.hotNow
    let d := (List.range 256).foldl (fun (d : Dev) ch => d.sample ch (samples.getD ch none)) d
    let prev := d.pw.th.eff
    let (d, new) := (List.range 8).foldl (Dev.effLayer prev traffic) (d.effLogic, [])
    let d := d.setTh { d.pw.th with lastRound := some d.lt }
    let (c, d) := match d.tripAt with
      | some ch => if d.pw.th.tripped then (c, d) else (if d.rs.run.isSome then c else c.takeLicences, d.trip ch (d.temp ch))
      | none => (c, d)
    let d := new.foldl (fun (d : Dev) (e : Nat × Int) =>
      (d.bump pwrSet 4 1).post 0xA002 (packB [(0, e.1 / 2 + 1), (1, e.1 % 2), (2, wrapInt 16 (eighths e.2))])) d
    let d := (List.range 8).foldl Dev.holdLayer d
    let d := (List.range 12).foldl Dev.holdPackage d
    let before := (List.range 4).map d.quadFrac
    let d := (List.range 4).foldl (fun (d : Dev) q => d.gateEvents before q) d.gateRound
    (c, d.throttleNow was)

/-- SENSOR_ROUND (R421 to R430). -/
def execSensorRound (samples : List (Option Int)) (traffic : List (Nat × Nat)) (s : State) : Host.Outcome State Fault Refusal :=
  s.onBoth (sensorRound samples traffic)

/-- PWR_TRIP_CLEAR (R429): only while every effective temperature is at or below 95.0 °C. -/
def execPwrTripClear (v : Via) (val : Word) (s : State) : Host.Outcome State Fault Refusal :=
  s.onDev (fun d =>
    if d.serves v 0x40068 && bitOf val.toNat 0 && (List.range 192).all (fun ch => d.temp ch ≤ 95 * degC) then
      d.setTh { d.pw.th with tripped := false }
    else d)

/-- PWR_SUSPECT_CLEAR (R423): a bit written 1 ends SUSPECT and restarts the count of rounds. -/
def execPwrSuspectClear (v : Via) (val : Word) (s : State) : Host.Outcome State Fault Refusal :=
  s.onDev (fun d =>
    if d.serves v 0x40074 then
      (setBits val.toNat 8).foldl (fun (d : Dev) b =>
        d.setTh { d.pw.th with
          suspect := if bitOf d.pw.th.suspect b then d.pw.th.suspect - 2 ^ b else d.pw.th.suspect
          rounds := Tbl.erase d.pw.th.rounds b }) d
    else d)

end Sys2Proof.Machine
end

