-- ==== Sys2Proof/Machine/Regs.lean ====
section
/-!
DEFINITION. Sys2Proof/Machine/Regs.lean: what every BAR0 register reads as, and a register read over PCIe or MCTP with its shadow
(R12, R15, R16, R41, R88, R90, R128, R157, R205, R231, R262, R263, R295, R296, R332, R355, R399, R400, R432, R451, R470, R483, R497).
-/
namespace Sys2Proof.Machine

/-! ## Counter sets by offset -/

/-- The core whose register group an offset of a cluster window lies in. -/
def coreOfOff (off : Nat) : Option Nat :=
  let o := off % 0x10000
  if 0x400000 ≤ off && off < 0x880000 && 0x1000 ≤ o && o < 0x5800 then some (coreAt ((off - 0x400000) / 0x10000) ((o - 0x1000) / 0x400)) else none

/-- The counter sets with a register in the block of an offset. -/
def setsAt (off : Nat) : List CtrSet :=
  match off / 0x20000 with
  | 0 => [hqsSet]
  | 1 => [fmwSet]
  | 2 => [pwrSet]
  | 3 => [fltSet]
  | 4 => if 0x81000 ≤ off && off < 0x82200 then [portSet ((off - 0x81000) / 0x100)] else [fabSet]
  | 5 => [llcSet 0, llcSet 1]
  | 6 => if 0xC0800 ≤ off then [gleanSet ((off - 0xC0800) / 0x40)] else [grnSet ((off - 0xC0100) / 0x20)]
  | 7 => [xltSet]
  | 8 => [gateSet]
  | 9 => if 0x130000 ≤ off then [grpSet ((off - 0x130000) / 16)] else [updSet]
  | 10 => [colSet]
  | 11 => [rstSet]
  | _ =>
    match coreOfOff off with
    | some k => [idleSet k, furSet k, harSet k, attSet k]
    | none => if 0x400000 ≤ off && off < 0x880000 then [drillSet ((off - 0x400000) / 0x10000)] else []

/-- The width of the counter whose low word lies at an offset. -/
def ctrWidth (off : Nat) : Option Nat := (setsAt off).findSome? (fun cs => (cs.ctrs.find? (fun e => e.1 = off)).map (·.2))

/-! ## 64-bit values (R12) -/

/-- The 64-bit value whose low word lies at an offset, where one is read low word first. -/
def Dev.value64 (d : Dev) (off : Nat) : Option Nat :=
  if off = 0x10 then some d.lt
  else if off = 0x60014 then some d.fl.lastLt
  else if off = 0x16000C then some d.rs.doneLt
  else if 0xC0800 ≤ off && off < 0xC0980 && (off % 0x40 = 0x8 || off % 0x40 = 0x10) then
    some (if off % 0x40 = 0x8 then (d.glean ((off - 0xC0800) / 0x40)).start else (d.glean ((off - 0xC0800) / 0x40)).last)
  else
    match (if off % 0x400 = 0x24 then coreOfOff off else none) with
    | some k => some (d.core k).lastLt
    | none => if ctrWidth off = some 64 then some (d.ctrAt off).val else none

/-! ## The blocks -/

/-- A field of a register read: the value at its low bit, cut to its width. -/
def rf (v lo n : Nat) : Nat := fld (v % 2 ^ n) lo

/-- A sum of bits. -/
def bitSum (n : Nat) (p : Nat → Bool) : Nat := ((List.range n).map (fun i => if p i then 2 ^ i else 0)).sum

/-- Two-bit states packed. -/
def packStates (n : Nat) (f : Nat → Nat) : Nat := ((List.range n).map (fun i => fld (f i) (2 * i))).sum

/-- GLB (R41). -/
def Dev.readGlb (d : Dev) (o : Nat) : Nat :=
  let f := d.fl
  if o = 0x0 then 0x00A04160
  else if o = 0x4 then 0x24632424
  else if o = 0x8 then 0x06041812
  else if o = 0x20 then f.seq.toNat
  else if o = 0x24 then f.good + fld f.defect 16
  else if o = 0x28 then f.retired
  else if o = 0x30 then packStates 16 d.portState
  else if o = 0x34 then packStates 2 (fun i => d.portState (16 + i))
  else if o = 0x38 then packStates 16 d.chanState
  else if o = 0x3C then packStates 8 (fun i => d.chanState (16 + i))
  else if o = 0x40 then b2n f.valid
  else if 0x1000 ≤ o && o < 0x1000 + 4 * 1296 then (d.coreEntry ((o - 0x1000) / 4)).toNat
  else 0

/-- HQS (R88). The FE registers read as the firmware last accepted them, HQS_CTX_CMD with them; HQS_Q_CMD reads 0. -/
def Dev.readHqs (d : Dev) (o : Nat) : Nat :=
  let q := d.queue (bits (d.reg 0x11000).toNat 11 0)
  let c := d.ctx (bits (d.reg 0x12000).toNat 7 0)
  if o = 0x0 then 0x01001000
  else if o = 0x4 then 0x0800FE10
  else if o = 0x14 then
    bitSum 16 (fun c => d.classBound c != 0) + rf d.util 16 11 + rf d.hq.lastClass 27 4 + rf (b2n d.hq.checkFail) 31 1
  else if o = 0x18 then d.hq.infl.length
  else if 0x100 ≤ o && o < 0x180 then (d.reg (0x10000 + o)).toNat
  else if 0x200 ≤ o && o < 0x240 then d.classInflight ((o - 0x200) / 4) % 2 ^ 24
  else if o = 0x1028 then q.state.code
  else if 0x1004 ≤ o && o < 0x1024 then q.reg o
  else if o = 0x2034 then c.state.code
  else if 0x2004 ≤ o && o ≤ 0x2030 then c.reg o
  else if o = 0x10 || o = 0x34 || o = 0x1000 || o = 0x2000 || (0x3000 ≤ o && o ≤ 0x3010) then (d.reg (0x10000 + o)).toNat
  else 0

/-- FMW_LOAD_STATUS (R91). -/
def LoadState.code : LoadState → Nat
  | .idle => 0 | .fetching => 1 | .verifying => 2 | .running => 3 | .rejectSignature => 4 | .rejectFormat => 5 | .updateWaiting => 6
  | .updatePaused => 7 | .rolledBack => 8 | .deferExpired => 9 | .rejectFetch => 10

/-- FMW (R90). -/
def Dev.readFmw (d : Dev) (o : Nat) : Nat :=
  let h := d.hq
  if o = 0x0 then h.mail.length + rf (b2n h.ctrlRun) 8 1 + rf (b2n h.mgmtRun) 9 1 + rf (b2n (h.load = .updatePaused)) 10 1
  else if o = 0x4 then rf h.lastOff 0 24 + rf h.lastRes 24 8
  else if o = 0x110 then h.load.code
  else if o = 0x118 then h.pauseUs % 2 ^ 16
  else if o = 0x11C then h.version.toNat
  else if o = 0x100 || o = 0x104 || o = 0x108 || o = 0x114 then (d.reg (0x20000 + o)).toNat
  else 0

/-- The P-states (R404): CLK_CORE in MHz and the rated cap in W. -/
def pstateInfo (s : Nat) : Nat × Nat :=
  ([(1200, 900), (1100, 800), (1000, 710), (900, 620), (800, 540), (700, 460), (600, 390), (400, 300)]).getD s (0, 0)

/-- PWR_SENSOR (R432). -/
def Dev.readSensor (d : Dev) (ch : Nat) : Nat :=
  let t := d.pw.th
  rf (wrapInt 12 (Tbl.get t.read ch 0)) 0 12 + rf (if ch < 192 then wrapInt 12 (eighths (d.temp ch)) else 0) 16 12
    + rf (b2n (t.failed.contains ch)) 30 1 + rf (b2n (96 ≤ ch && ch < 192 && d.isSuspect ((ch - 96) / 12))) 31 1

/-- PWR (R432). -/
def Dev.readPwr (d : Dev) (o : Nat) : Nat :=
  let p := d.pw
  let c := p.ctl
  if o = 0x0 then 0x01006008
  else if o = 0x4 then p.cmd
  else if o = 0x8 then p.pstate + rf (b2n (match p.trans with | some t => t.kind = 1 || t.kind = 4 | none => false)) 8 1
  else if o = 0xC then b2n p.busy + rf p.result 4 8 + rf p.failed 16 3
  else if 0x20 ≤ o && o < 0x30 then
    let w := (o - 0x20) / 4
    bitSum 32 (fun i => let n := 32 * w + i; n = 96 || (n < 96 && bitOf d.dom n))
  else if o = 0x40 then c.g + rf c.f 8 7 + rf (b2n c.guarded) 16 1 + rf (b2n p.throttle) 17 1 + rf (b2n c.short) 18 1
  else if o = 0x44 then rf (c.est / nW) 0 12 + rf (c.estW / nW) 16 12
  else if o = 0x48 then rf (c.meas / nW) 0 12 + rf c.input 16 12
  else if o = 0x4C then c.run + rf c.dir 4 2 + rf c.ratio 16 12
  else if o = 0x64 then b2n p.th.tripped + rf p.th.tripCh 8 8 + rf (wrapInt 12 (eighths p.th.tripTemp)) 16 12
  else if o = 0x70 then p.th.suspect
  else if o = 0x78 then ((List.range 4).map (fun q => fld (d.quadFrac q) (8 * q))).sum
  else if 0x200 ≤ o && o < 0x220 then let i := pstateInfo ((o - 0x200) / 4); i.1 + fld i.2 16
  else if 0x240 ≤ o && o < 0x250 then
    let q := (o - 0x240) / 4
    wrapInt 6 (Tbl.get p.trim.now q 0) + rf (b2n (p.trim.atLimit.contains q)) 8 1
  else if 0x400 ≤ o && o < 0x440 then
    rf (d.reg (0x40000 + o)).toNat 0 16 + rf (c.active.getD ((o - 0x400) / 4) 0) 16 16
  else if 0x500 ≤ o && o < 0x500 + 4 * 97 then (if d.rs.recordOk then (Config.leakage p.pstate ((o - 0x500) / 4)).toNat else 0)
  else if 0x700 ≤ o && o < 0x700 + 4 * 97 then Tbl.get c.domPower ((o - 0x700) / 4) 0
  else if 0x1000 ≤ o && o < 0x1400 then d.readSensor ((o - 0x1000) / 4)
  else if 0x1400 ≤ o && o < 0x1580 then wrapInt 12 (eighths (Tbl.get p.th.model (12 * ((o - 0x1400) / 4 / 12) + (o - 0x1400) / 4 % 12) 0))
  else if o = 0x10 || o = 0x14 || (0x30 ≤ o && o ≤ 0x3C) || o = 0x58 || o = 0x6C then (d.reg (0x40000 + o)).toNat
  else 0

/-- FLT (R451). -/
def Dev.readFlt (d : Dev) (o : Nat) : Nat :=
  if o = 0x0 then 0x280E
  else if o = 0x4 then (d.reg 0x60004).toNat
  else if o = 0x8 then (d.hq.devRing.posted - 1) % 2 ^ 32
  else if o = 0xC then (d.mc.sent - 1) % 2 ^ 32
  else if o = 0x10 then d.fl.last.toNat
  else 0

/-- FAB_PORT_STATE (R322). -/
def LState.code : LState → Nat
  | .disabled => 0 | .training => 1 | .up => 2 | .retraining => 3 | .quiesced => 4 | .down => 5 | .retired => 6

/-- A port's registers (R332). -/
def Dev.readPort (d : Dev) (p o : Nat) : Nat :=
  let x := d.port p
  if o = 0x0 then b2n x.en + rf (b2n x.lr) 1 1 + rf (d.roleOf p) 4 5
  else if o = 0x4 then x.state.code + rf x.width 4 4 + rf x.lanes 8 8
  else if o = 0x8 then (match x.peer with | some (a, r) => rf a 0 18 + rf r 18 5 + 2 ^ 31 | none => 0)
  else if o = 0xC then (d.reg (portBase p + 0xC)).toNat
  else if o = 0x10 then x.shared % 2 ^ 13
  else if o = 0x14 then x.replay.length % 2 ^ 10
  else if 0x80 ≤ o && o < 0xA0 then Tbl.get x.tally ((o - 0x80) / 4) 0
  else 0

/-- FAB (R332). -/
def Dev.readFab (d : Dev) (o : Nat) : Nat :=
  if o = 0x0 then 0x00104812
  else if o = 0x20 then rf d.fab.cfgPort 0 5 + rf d.fab.cfgResult 8 4
  else if o = 0x24 then d.fab.tags.length
  else if o = 0x28 then b2n d.pw.throttle
  else if 0x1000 ≤ o && o < 0x2200 then d.readPort ((o - 0x1000) / 0x100) (o % 0x100)
  else if (0x4 ≤ o && o ≤ 0x1C) || (0x3000 ≤ o && o < 0x3100 && o % 16 != 12) then (d.reg (0x80000 + o)).toNat
  else 0

/-- A word of a pin or fallow entry (R263). -/
def entryWord (e : Option RangeEntry) (i : Nat) : Nat :=
  match e with
  | none => 0
  | some e =>
    match i with
    | 0 => e.base % 2 ^ 32
    | 1 => e.base / 2 ^ 32 % 2 ^ 32
    | 2 => e.lines % 2 ^ 32
    | _ => e.ctx.val + 2 ^ 8 + fld (b2n e.flag) 9

/-- A word of a retirement list entry (R263). -/
def retWord (e : Option RetEntry) (i : Nat) : Nat :=
  match e with
  | none => 0
  | some e =>
    if i = 0 then rf e.slice 0 10 + rf e.set 10 11 + rf (e.pair / 2) 21 2 + rf e.pair 23 1 + rf e.source 24 2 + 2 ^ 31 else e.seq.toNat

/-- The registers of a half (R262). -/
def Dev.readHalf (d : Dev) (h o : Nat) : Nat :=
  let x := d.half h
  let ls := d.mm.lines.filter (fun l => l.half = h && l.valid != 0)
  if o = 0x0 then (d.reg (0xA0100 + 0x100 * h)).toNat
  else if o = 0x4 then d.ways h + rf (d.pinWays h) 8 5
  else if o = 0x8 then d.pinLinesOf h
  else if o = 0xC then x.run + rf (b2n x.raised) 8 1 + rf x.ratio 16 11
  else if o = 0x10 then ls.length
  else if o = 0x14 then (ls.filter (fun l => l.enc != 0)).length
  else if o = 0x18 then d.missCount h
  else if o = 0x1C then x.fallow.length + rf x.pins.length 8 7
  else if o = 0x20 then x.ret.length
  else if o = 0x24 then x.retSeq.toNat
  else 0

/-- LLC (R262). -/
def Dev.readLlc (d : Dev) (o : Nat) : Nat :=
  if o = 0x0 then 0x08000280
  else if o = 0x4 then 0x40407810
  else if o = 0x10 || o = 0x14 then (d.reg (0xA0000 + o)).toNat
  else if o = 0x18 then d.mm.hold
  else if o = 0x1C then bitSum 8 (fun b => d.admits (72 + b))
  else if 0x100 ≤ o && o < 0x300 then d.readHalf ((o - 0x100) / 0x100) (o % 0x100)
  else if 0x2000 ≤ o && o < 0x2800 then entryWord (Tbl.find (d.half ((o - 0x2000) / 0x400)).fallow (o % 0x400 / 16)) (o / 4 % 4)
  else if 0x3000 ≤ o && o < 0x3800 then entryWord (Tbl.find (d.half ((o - 0x3000) / 0x400)).pins (o % 0x400 / 16)) (o / 4 % 4)
  else if 0x4000 ≤ o && o < 0x8000 then retWord ((d.half ((o - 0x4000) / 0x2000)).ret[o % 0x2000 / 8]?) (o / 4 % 2)
  else if 0x8000 ≤ o && o < 0x8000 + 4 * 1296 then
    let (h, s, shared) := homeOf ((o - 0x8000) / 4)
    s + fld h 12 + fld (b2n shared) 13
  else 0

/-- GRN_GROUP_STATE (R295). -/
def GState.code : GState → Nat
  | .off => 0 | .training => 1 | .active => 2 | .selfRefresh => 3 | .degraded => 4

/-- GRN (R295). -/
def Dev.readGrn (d : Dev) (o : Nat) : Nat :=
  if o = 0x0 then 0x003F6418
  else if o = 0x4 || o = 0x8 || o = 0xC then (d.reg (0xC0000 + o)).toNat
  else if o = 0x10 then bitSum 24 (fun n => (d.chan n).hold)
  else if o = 0x14 then bitSum 24 (fun n => d.chanState n = 2)
  else if 0x50 ≤ o && o < 0x60 then
    let g := d.group ((o - 0x50) / 4)
    g.state.code + rf g.map.length 8 3 + rf g.cap 16 16
  else if 0x60 ≤ o && o < 0x70 then min 2048 (d.groupOut ((o - 0x60) / 4))
  else if 0x100 ≤ o && o < 0x400 then
    let c := d.chan ((o - 0x100) / 0x20)
    if o % 0x20 = 0x18 then c.tally else if o % 0x20 = 0x1C then c.temp else 0
  else if 0x800 ≤ o && o < 0x980 then
    if o % 0x40 = 0 then (d.reg (0xC0000 + o)).toNat else if o % 0x40 = 4 then (d.glean ((o - 0x800) / 0x40)).pos % 2 ^ 32 else 0
  else 0

/-- XLT (R296). -/
def Dev.readXlt (d : Dev) (o : Nat) : Nat :=
  if o = 0x0 then 0x000E0330
  else if o = 0x24 then b2n d.mm.inval.isSome
  else if o = 0x4 || o = 0x8 || (0x10 ≤ o && o ≤ 0x1C) || (0x1000 ≤ o && o < 0x2000) then (d.reg (0xE0000 + o)).toNat
  else 0

/-- GATE (R483). A request is served whole in its command, so BUSY reads 0 (log 5). -/
def readGate (c : Sec) (d : Dev) (o : Nat) : Nat :=
  let lic (l : Nat) : Option (List Byte) := Tbl.find c.slots l
  if o = 0x0 then 0x10000048
  else if o = 0x4 then c.seq.toNat
  else if 0x8 ≤ o && o < 0x28 then bits c.nonce.toNat (32 * ((o - 8) / 4) + 31) (32 * ((o - 8) / 4))
  else if 0x40 ≤ o && o < 0x60 then bits c.deviceKey.toNat (32 * ((o - 0x40) / 4) + 31) (32 * ((o - 0x40) / 4))
  else if o = 0x60 then bitSum 8 (fun s => (Tbl.find c.keys s).isSome)
  else if o = 0x64 then rf c.lic 0 4 + rf c.features 8 4 + fld (bitSum 4 (fun l => (lic l).isSome)) 16
  else if o = 0x68 || o = 0x70 || o = 0x74 || o = 0x78 then (d.reg (0x100000 + o)).toNat
  else if o = 0x80 then c.status
  else if o = 0x84 then c.lastSeq.toNat
  else if 0x200 ≤ o && o < 0x400 && o % 0x40 < 0x20 then
    bits (Tbl.get c.keys ((o - 0x200) / 64) 0).toNat (32 * (o % 0x40 / 4) + 31) (32 * (o % 0x40 / 4))
  else if 0x400 ≤ o && o < 0x440 then
    match lic ((o - 0x400) / 16) with
    | none => 0
    | some l =>
      match o / 4 % 4 with
      | 0 => rf (licFeatures l) 0 4 + rf (b2n (c.licValid l)) 31 1
      | 1 => licSerial l % 2 ^ 32
      | 2 => licSerial l / 2 ^ 32
      | _ => 0
  else 0

/-- A slot's registers (R355). -/
def Dev.readSlot (d : Dev) (n o : Nat) : Nat :=
  match Tbl.find d.col.slots n with
  | none => 0
  | some s =>
    let x := match d.work s.tag with | some w => w.desc | none => 0
    if o = 0x0 then
      (if s.cause != 0 then 3 else if s.lastIn || s.isOver then 2 else 1) + rf s.ctx.val 8 8 + rf (dOp x) 16 4 + rf s.cause 24 8
    else if o = 0x4 then rf s.id 0 16 + rf (d.phaseCode x s) 16 3 + rf (d.slotStep x s) 19 13
    else if o = 0x8 then (match d.awaited x s with | some a => rf a 0 18 + rf (b2n (s.thr.contains a)) 31 1 | none => 0)
    else bits (dId x).toNat 31 0

/-- COL (R355). -/
def Dev.readCol (d : Dev) (o : Nat) : Nat :=
  let c := d.col
  if o = 0x0 then 0x40040010
  else if o = 0x10 then bitSum 16 (fun s => (Tbl.find c.slots s).isSome)
  else if o = 0x14 then (c.early.map (fun q => q.len)).sum % 2 ^ 15
  else if o = 0x18 then rf c.cfgCtx 0 8 + rf c.cfgResult 8 4
  else if o = 0x68 then (match c.lastThr with | some a => rf a 0 18 + 2 ^ 31 | none => 0)
  else if o = 0x4 || o = 0x8 || o = 0xC || (0x100 ≤ o && o < 0x500) then (d.reg (0x140000 + o)).toNat
  else if 0x1000 ≤ o && o < 0x1400 && o % 0x40 < 0x10 then d.readSlot ((o - 0x1000) / 0x40) (o % 0x40)
  else 0

/-- A generation of the own buddy region is COMPLETE (R390, R399). -/
def Dev.genValid (d : Dev) (g : Nat) : Bool := d.buddyOn && genComplete (d.granBytes (d.buddyBase + g * d.buddyHalf) 64)

/-- UPD (R399). -/
def Dev.readUpd (d : Dev) (o : Nat) : Nat :=
  let u := d.upd
  if o = 0x0 then 0xFFF41010
  else if o = 0x34 then bitSum 4 d.unitBusy + rf (bitSum 2 d.genValid) 4 2
  else if o = 0x3C then rf u.cfgOff 0 8 + rf u.cfgResult 8 4
  else if 0x4 ≤ o && o ≤ 0x38 then (d.reg (0x120000 + o)).toNat
  else if 0x10000 ≤ o && o < 0x20000 then
    let g := (o - 0x10000) / 16
    let x := d.grp g
    match o / 4 % 4 with
    | 0 => 0
    | 1 => x.flushed
    | 2 => x.nonzero
    | _ => rf x.quiet 0 16 + rf (b2n x.raised) 16 1 + rf (b2n (d.ctrAt (0x130000 + 16 * g)).sat) 17 1
  else 0

/-- RST (R470). -/
def readRst (c : Sec) (d : Dev) (o : Nat) : Nat :=
  let r := d.rs
  if o = 0x0 then 0x1606
  else if o = 0x8 then b2n d.resetting + rf r.level 4 3 + rf r.result 8 4 + rf r.origin 12 2
  else if o = 0x14 then r.ended % 2 ^ 32
  else if o = 0x18 then
    (if r.stage = 6 && d.hq.ctrlRun then 7 else r.stage) + rf r.error 8 4 + rf (b2n r.recordOk) 16 1 + rf (b2n c.identity) 17 1
  else if o = 0x1C then r.strap
  else if o = 0x30 then r.test + rf r.testResult 8 4 + rf r.testMs 16 16
  else if 0x100 ≤ o && o < 0x100 + 4 * 22 then (Tbl.get r.train ((o - 0x100) / 4) 0).toNat
  else if o = 0x20 || o = 0x24 || o = 0x28 || o = 0x34 then (d.reg (0x160000 + o)).toNat
  else 0

/-- A core's registers in its cluster's window (R128, R157, R205, R231, R400). A unit of the Harrow or the attention path that has taken an
operation is busy until the tick ends, its special functions with 4 cycles left (log 5). -/
def Dev.readCore (d : Dev) (core o : Nat) : Nat :=
  let k := d.core core
  let runs (q : Nat) : Bool := (List.range 8).any (fun s => let t := (k.stage (8 * q + s)).state; t != .unused && t != .ended)
  if o = 0x0 then core + fld (bitSum 3 runs) 16
  else if o = 0x4 then k.trap.toNat
  else if o = 0x8 then d.llcOut core
  else if o = 0xC then k.peer.toNat
  else if o = 0x2C then k.lastWord.toNat
  else if o = 0x30 then k.lastCols.toNat
  else if o = 0x38 then
    rf (k.fops.filter (fun f => f.arr = 0)).length 0 2 + rf (k.fops.filter (fun f => f.arr = 1)).length 2 2
  else if o = 0x54 then rf (4 * bits k.harBusy 0 0) 0 4 + rf (bits k.harBusy 2 1) 8 2
  else if o = 0x74 then
    bits k.harBusy 3 3 + rf (bitSum 4 (fun s => (Tbl.get k.sets s ASet.empty).begun)) 4 4 + rf (bitSum 4 (fun s => (Tbl.get k.sets s ASet.empty).compat)) 8 4
  else if o = 0x78 then k.hopper.length + rf (b2n (d.upd.formed.any (fun f => f.core = core))) 8 1
  else if 0x200 ≤ o && o < 0x280 then
    let t := (o - 0x200) / 4
    Tbl.get k.tok t 0 + fld (d.waiters core false t).length 16
  else 0

/-- A cluster window (R128, R157). -/
def Dev.readCluster (d : Dev) (n o : Nat) : Nat :=
  let x := d.cluster n
  let head := x.drill.head?
  if o = 0x0 then n + fld (quadOfCluster n) 8 + fld (halfOfCluster n) 12
  else if o = 0x4 then
    (match x.ctx with | some c => c.val | none => 0) + rf (b2n ((coresOf n).any (fun k => (d.core k).tag.isSome))) 8 1 + rf (b2n x.paused) 9 1
  else if o = 0x10 then (d.reg (clBase n + 0x10)).toNat
  else if 0x100 ≤ o && o < 0x200 then
    let t := (o - 0x100) / 4
    Tbl.get x.tok t 0 + fld (d.waiters (coreAt n 0) true t).length 16
  else if o = 0x800 then
    rf x.drill.length 0 5 + rf (b2n (match head with | some h => h.started | none => false)) 8 1
      + rf (b2n (match head with | some h => h.faulted | none => false)) 9 1
  else if o = 0x804 then x.nextNum.toNat
  else if 0x1000 ≤ o && o < 0x5800 then d.readCore (coreAt n ((o - 0x1000) / 0x400)) (o % 0x400)
  else 0

/-- What a register reads that is neither a counter nor a 64-bit value. -/
def readPlain (c : Sec) (d : Dev) (off : Nat) : Nat :=
  let o := off % 0x20000
  match off / 0x20000 with
  | 0 => if off < 0x10000 then d.readGlb off else d.readHqs (off - 0x10000)
  | 1 => d.readFmw o
  | 2 => d.readPwr o
  | 3 => d.readFlt o
  | 4 => d.readFab o
  | 5 => d.readLlc o
  | 6 => d.readGrn o
  | 7 => d.readXlt o
  | 8 => readGate c d o
  | 9 => d.readUpd o
  | 10 => d.readCol o
  | 11 => readRst c d o
  | _ => if 0x400000 ≤ off && off < 0x880000 then d.readCluster ((off - 0x400000) / 0x10000) (off % 0x10000) else 0

/-! ## A read (R12, R15, R458, R497) -/

/-- The live value of a register: a SAT register, a counter of 16 or 32 bits, anything else. -/
def readWord (c : Sec) (d : Dev) (off : Nat) : Nat :=
  match (setsAt off).find? (fun cs => cs.sat = off) with
  | some cs => if 0x130000 ≤ off && off < 0x140000 then readPlain c d off else d.satWord cs   -- a group's SAT lies in its STATE register
  | none => if (ctrWidth off).isSome then (d.ctrAt off).val else readPlain c d off

/-- A register read over a path: the low word of a 64-bit value captures its high word, the high word returns the shadow. An access
that reaches no register reads 0. -/
def readReg (v : Via) (c : Sec) (d : Dev) (off : Nat) : Dev × Word :=
  if off % 4 != 0 || !d.reaches v off then (d, 0)
  else
    match d.value64 off, d.value64 (off - 4) with
    | some x, _ => (d.capture v off (BitVec.ofNat 32 (x / 2 ^ 32)), BitVec.ofNat 32 x)
    | none, some _ => if 4 ≤ off then (d, d.shadow v (off - 4)) else (d, BitVec.ofNat 32 (readWord c d off))
    | none, none => (d, BitVec.ofNat 32 (readWord c d off))

/-- LOW_WORD_READ: a PCIe read. The table has no row for the read of a register that is no low word: this one reads it too (log 35). -/
def Dev.lowRead (c : Sec) (d : Dev) (off : Nat) : Dev :=
  let r := readReg .pcie c d off
  { r.1 with env := { r.1.env with busRead := r.2.toNat } }

/-- LOW_WORD_READ (R12). -/
def execLowWordRead (off : Word) (s : State) : Host.Outcome State Fault Refusal := s.onDev (fun d => d.lowRead s.sec off.toNat)

end Sys2Proof.Machine
end

