-- ==== Sys2Proof/Machine/Contract.lean ====
section
/-!
DEFINITION. Sys2Proof/Machine/Contract.lean: dispatch (R65, R96, R101, R333, R361, R396), COST reached (R71) and the completion of
finished work (R68, R350).
-/
namespace Sys2Proof.Machine

/-! ## Dispatch order (R65) -/

/-- The deadline R65 orders by; while a peer input is awaited, the one the descriptor would have from its acceptance (log 34). -/
def Work.orderLt (w : Work) : Nat := w.deadline.getD (w.acceptedLt + 100 * w.bound)

/-- Earlier in dispatch order: deadline, then queue number, then the older index. -/
def Work.ahead (a b : Work) : Bool :=
  a.orderLt < b.orderLt || (a.orderLt = b.orderLt && (a.q < b.q || (a.q = b.q && newer b.idx a.idx)))


/-- The shards a shard unit's descriptor names (R362): the first and their number; WINNOW_RECOVER and JOURNAL_RESOLVE name none. -/
def namedShards (x : Rec64) : Nat × Nat := if dOp x = 0x705 || dOp x = 0x70B then (0, 0) else shardRange x

/-- Two descriptors name a shard in common. -/
def shareShard (x y : Rec64) : Bool :=
  let a := namedShards x
  let b := namedShards y
  a.1 < b.1 + b.2 && b.1 < a.1 + a.2

/-- The shard unit a descriptor starts on (R361): the lowest free one of a powered headland quadrant, in acceptance order, with no running
descriptor that names one of its shards. -/
def Dev.unitFor (d : Dev) (w : Work) : Option Nat :=
  if d.hq.infl.any (fun e => isShardOp (dOp e.2.desc)
      && ((e.2.undispatched && e.2.before w) || (e.2.phase = .dispatched && shareShard e.2.desc w.desc))) then none
  else firstWhere (fun u => d.admits (80 + u) && !d.unitBusy u) 4

/-- Accepted work can be dispatched now (R65, R96, R101, R333, R361). -/
def Dev.fits (d : Dev) (w : Work) : Bool :=
  let op := dOp w.desc
  let st : CState := (d.ctx w.ctx).state
  if st != .active && st != .stopping then false
  else if op < 0x100 then false
  else if op = 0x100 then w.phase = .checked && (d.ctx w.ctx).preemptReq.isNone && (d.entriesStatus w.entries != 0 || d.launchFits w)
  else if w.phase != .accepted then false
  else if isCollective op then d.freeSlot.isSome
  else if isShardOp op then (d.unitFor w).isSome
  else true

/-- The work dispatched next. -/
def Dev.nextWork (d : Dev) : Option (Nat × Work) :=
  d.hq.infl.foldl (fun (r : Option (Nat × Work)) e =>
    if !d.fits e.2 then r
    else
      match r with
      | none => some e
      | some b => if e.2.ahead b.2 then some e else r) none

/-! ## The device-reset row of the update engine (R396) -/

/-- A shard record after a device reset: a replica's STEP is all ones; an OPEN shard's staged elements are lost, and COUNT_BAD says that its
step can only be skipped (log 61, DEDUCED); a shard whose sweep was cut is CORRUPT. -/
def Shard.afterReset (s : Shard) : Shard :=
  if s.role = 2 then s.put 64 8 (2 ^ 64 - 1)
  else
    let s := if s.flag 0 then (s.put 88 4 0).setFlags 16 else s
    if s.sweepPos = 0 then s else s.setBit 4 true

/-- The device-reset row applied to the shard table. Where the table cannot be read the row stays due. -/
def Dev.applyDue (d : Dev) (ac : Acc) : Mv Unit :=
  if !d.upd.due then .ok d ()
  else
    let r := Mv.each d (fun d i => (d.shard ac i).bind (fun d s =>
      if s.afterReset.bs = s.bs then .ok d () else d.putShard ac i s.afterReset)) (List.range d.shardCount)
    let clear (d : Dev) : Dev := { d with upd := { d.upd with due := false } }
    match r with
    | .ok d _ => .ok (clear d) ()
    | .fault d f a => .fault d f a
    | .wait d a => .wait d a
    | .stall d c => .stall d c

/-! ## Dispatch -/

/-- A descriptor marked dispatched from now on. -/
def Dev.markDispatched (d : Dev) (tag : Tag) (w : Work) : Dev :=
  let d := d.setWork tag { w with phase := .dispatched, since := some d.lt }
  { d with upd := { d.upd with jobs := Tbl.erase d.upd.jobs tag } }

/-- A descriptor dispatched. -/
def Dev.start (d : Dev) (tag : Tag) (w : Work) : Dev :=
  let op := dOp w.desc
  if op = 0x100 then
    match d.entriesStatus w.entries with
    | 0 => d.startLaunch tag w
    | 9 => (d.modWork tag (fun w => w.blame 4 1 d.lt)).finishWork tag 9 0
    | st => d.finishWork tag st 0
  else if isCollective op then
    match d.freeSlot with
    | none => d
    | some n => (d.markDispatched tag w).armSlot n tag w
  else if isShardOp op then
    match d.unitFor w with
    | none => d
    | some u => (d.markDispatched tag w).setJob tag (Job.start u)
  else d.markDispatched tag w

/-- Work of group 0x700 dispatched once the device-reset row is applied (R396). A fault of the shard table meets it as one of its own would: a
collective aborts with LOCAL_FAULT, any other parks its context and is tried again after RESUME_CONTEXT (log 61, DEDUCED). -/
def Dev.startUpd (d : Dev) (tag : Tag) (w : Work) : Dev :=
  match d.applyDue (d.updAcc w.ctx) with
  | .ok d _ => d.start tag w
  | .fault d f a => if isCollective (dOp w.desc) then (d.start tag w).abortColl tag 2 d.addr 0 true else d.parkWork tag w f.cause (some (f, a))
  | .wait d _ => d
  | .stall d _ => d

/-- DISPATCH. -/
def Dev.dispatch (d : Dev) : Dev :=
  if !d.fwRuns then d
  else
    match d.nextWork with
    | none => d
    | some (k, w) =>
      if h : k < 16384 then
        if 0x700 ≤ dOp w.desc then d.startUpd ⟨k, h⟩ w else d.start ⟨k, h⟩ w
      else d

/-- DISPATCH (R65). -/
def execDispatch (s : State) : Host.Outcome State Fault Refusal := s.onFab (fun d => d.dispatch)

/-! ## Completion (R68, R345, R350) -/

/-- PEER_THROTTLED of a finished collective: the slowest throttled peer and the ticks waited on throttled peers. -/
def Dev.noteThrottled (d : Dev) (s : Slot) : Dev :=
  let us := bits (d.reg 0x14000C).toNat 23 0
  let total := (s.thrTicks.map (·.2)).sum
  let worst := s.thrTicks.foldl (fun (r : Nat × Nat) e => if r.2 < e.2 then e else r) (0, 0)
  if us = 0 || total ≤ 100 * us then d
  else d.postCtx s.ctx 0x7002 (packB [(0, s.id), (4, worst.1), (8, total % 2 ^ 64)])

/-- What finished work held is given back: a collective's slot with its counters, a shard unit's job. -/
def Dev.giveBack (d : Dev) (tag : Tag) : Dev :=
  let d := { d with upd := { d.upd with jobs := Tbl.erase d.upd.jobs tag } }
  match d.slotOf tag with
  | none => d
  | some (n, s) =>
    let d := { d with col := { d.col with slots := Tbl.erase d.col.slots n } }
    if s.cause = 0 then (d.bump colSet 0 1).noteThrottled s else d.bump colSet 1 1

/-- The record of work with a status may be written: while the control partition runs, a hand-off pause included (R93); that of work which
a retirement ended waits for the end of the pause (R438). -/
def Dev.recordsOut (d : Dev) (status : Nat) : Bool := if status = 9 then d.fwRuns else d.fwUp

/-- DESCRIPTOR_COMPLETE: work that has finished (R68). -/
def Dev.completeDesc (d : Dev) (lic : Nat) (tag : Tag) : Dev :=
  match d.work tag with
  | none => d
  | some w =>
    match w.phase with
    | .finished st _ => if d.recordsOut st then (d.giveBack tag).complete lic tag else d
    | _ => d

/-- DESCRIPTOR_COMPLETE (R68). -/
def execDescriptorComplete (tag : Tag) (s : State) : Host.Outcome State Fault Refusal := s.onDev (fun d => d.completeDesc s.sec.lic tag)

/-! ## COST (R71) -/

/-- The dispatched time of work has reached its COST. -/
def Dev.costReached (d : Dev) (w : Work) : Bool :=
  match w.phase, w.since with
  | .dispatched, some t => 100 * dCost w.desc ≤ w.spent + (d.lt - t) && !w.noDeadline && !w.stopping
  | _, _ => false

/-- Work without OVERRUN_CONTINUE stops at its next boundary, with its own COST overrun as the cause (R76): a LAUNCH once its cores have
stopped, a moving transfer at its unit boundary, a shard unit's or the headland's work at once. -/
def Dev.stopForCost (d : Dev) (tag : Tag) (w : Work) : Dev :=
  let mine (x : DXfer) : Bool := x.tag = some tag
  let d := d.setWork tag { w.blame 1 1 d.lt with stopping := true }
  if dOp w.desc = 0x100 then (d.coresWith tag).foldl (fun d n => d.settleCost n) d
  else if d.gr.clusters.any (fun e => e.2.drill.any (fun x => mine x && x.moving)) then
    d.mapDrills (fun xs => xs.map (fun x => if mine x then { x with stop := some 6 } else x))
  else (d.mapDrills (fun xs => xs.filter (fun x => !mine x))).finishWork tag 6 0

/-- COST_EXCEEDED. With OVERRUN_CONTINUE the promise is broken here and now, by the context's own overrun. -/
def Dev.costExceeded (d : Dev) (tag : Tag) : Dev :=
  match d.work tag with
  | none => d
  | some w =>
    if !d.costReached w then d
    else if isCollective (dOp w.desc) then d.abortColl tag 1 d.addr 0 true
    else if dOverrun w.desc then
      (((d.modWork tag (fun w => w.blame 1 1 d.lt)).promiseBroken tag 1 1 d.lt)).modWork tag (fun w => { w with noDeadline := true })
    else d.stopForCost tag w

/-- COST_EXCEEDED (R71). -/
def execCostExceeded (tag : Tag) (s : State) : Host.Outcome State Fault Refusal := s.onFab (fun d => d.costExceeded tag)

end Sys2Proof.Machine
end

