-- ==== Sys2Proof/Machine/Gate.lean ====
section
/-!
DEFINITION. Sys2Proof/Machine/Gate.lean: the two-key gate (16, R473 to R480, R483; R44, R300, R302, R407).
-/
namespace Sys2Proof.Machine

/-! ## A request (R477, R478) -/

/-- KIND. -/
def gKind (r : List Byte) : Nat := byteField r 4 1
/-- BODY_LEN. -/
def gLen (r : List Byte) : Nat := byteField r 6 2
/-- GATE_SEQ carried. -/
def gSeq (r : List Byte) : Word := BitVec.ofNat 32 (byteField r 8 4)
/-- BODY. -/
def gBody (r : List Byte) : List Byte := (r.drop 64).take (gLen r)
/-- SLOT_A and SLOT_B. -/
def gSlots (r : List Byte) : Nat × Nat := (byteField r (64 + gLen r) 1, byteField r (65 + gLen r) 1)
/-- The message both signatures cover: bytes 0 to 63 + BODY_LEN. -/
def gSigned (r : List Byte) : List Byte := r.take (64 + gLen r)
/-- SIG_A and SIG_B. -/
def gSigs (r : List Byte) : List Byte × List Byte := ((r.drop (72 + gLen r)).take 64, (r.drop (136 + gLen r)).take 64)

/-- The entries of a WRITE_REGS body: offset and value. -/
def gEntries (b : List Byte) : List (Nat × Nat) := (List.range (b.length / 8)).map (fun i => (byteField b (8 * i) 4, byteField b (8 * i + 4) 4))

/-- The body of a kind has its length and zeros where it is reserved. -/
def gBodyOk (r : List Byte) : Bool :=
  let b := gBody r
  match gKind r with
  | 1 => 8 ≤ b.length
  | 2 => b.length = 160
  | 3 => b.length = 8
  | 4 => b.length = 40 && zeroRange b 1 7
  | 5 => b.length = 8 && zeroRange b 1 7
  | 6 => b.length = 8 && zeroRange b 1 7
  | 7 => b.length = 64
  | _ => false

/-- MAGIC, FORMAT, KIND, BODY_LEN, length and reserved fields are right. -/
def gFormat (r : List Byte) : Bool :=
  200 ≤ r.length && byteField r 0 4 = 0x32475442 && byteField r 5 1 = 1 && gLen r % 8 = 0 && gLen r ≤ 4096 && r.length = 200 + gLen r
    && zeroRange r 12 4 && zeroRange r 48 16 && zeroRange r (66 + gLen r) 6 && gBodyOk r

/-! ## Gated registers (R475) -/

/-- The bits of a register's G2 fields; 0 where it has none. -/
def gateMask (off : Nat) : Nat :=
  if off = 0x4003C then 0x0FFF73FF
  else if off = 0x80004 then 0x3FFFF
  else if off = 0x80008 then 0x1F1F1F
  else if off = 0x8000C then 0xFF
  else if 0x83000 ≤ off && off < 0x83100 then
    (match off % 16 with | 0 => 0x1F1F1F1F | 4 => 0x80FF1F1F | 8 => 0xFF | _ => 0)
  else if 0xE1000 ≤ off && off < 0xE2000 then
    (match off % 16 with | 0 => 0xFFFFF000 | 4 => 0xFFFFFFFF | 8 => 1 | _ => 0)
  else 0

/-- One gated register written: its G2 fields take the value, the others stay; a high word commits the pair (R15). -/
def Dev.gateWrite (d : Dev) (e : Nat × Nat) : Dev :=
  let m := gateMask e.1
  let old := (d.reg e.1).toNat
  let d := d.setReg e.1 (BitVec.ofNat 32 ((old &&& (2 ^ 32 - 1 - m)) + (e.2 &&& m)))
  if 0xE1000 ≤ e.1 && e.1 < 0xE2000 && e.1 % 16 = 4 then d.setWide e.1 ((d.reg (e.1 - 4)).toNat + fld e.2 32) else d

/-- The condition of R475 on an entry. -/
def Dev.gateAllows (d : Dev) (e : Nat × Nat) : Bool :=
  if 0xE1000 ≤ e.1 && e.1 < 0xE2000 then !(d.ctx ((e.1 - 0xE1000) / 16)).state.live
  else if e.1 = 0x80004 then
    (e.2 &&& 0x3FFFF) = d.addr || (List.range 18).all (fun p => !(d.port p).en)
  else if e.1 = 0x4003C then
    300 ≤ bits e.2 9 0 && bits e.2 9 0 ≤ 950 && 1 ≤ bits e.2 27 16 && bits e.2 27 16 ≤ 2000
  else true

/-- The addresses the valid partition entries cover together (R302). -/
def Dev.covered (d : Dev) : Nat :=
  let es := ((List.range 16).map (fun i => ((d.reg (0x83000 + 16 * i)).toNat, (d.reg (0x83004 + 16 * i)).toNat))).filter (fun e => bitOf e.2 31)
  let inside (lo hi c : Nat) : Bool := lo ≤ c && c ≤ hi
  ((List.range 32).map (fun x =>
    let es := es.filter (fun e => inside (bits e.1 4 0) (bits e.1 12 8) x)
    ((List.range 32).map (fun y =>
      let es := es.filter (fun e => inside (bits e.1 20 16) (bits e.1 28 24) y)
      ((List.range 32).map (fun z =>
        ones (((es.filter (fun e => inside (bits e.2 4 0) (bits e.2 12 8) z)).map (fun e => bits e.2 23 16)).foldl (· ||| ·) 0) 8)).sum)).sum)).sum

/-- The licence limit of R302 holds of the values a request writes. -/
def Dev.gateLicensed (d : Dev) (lic : Nat) (es : List (Nat × Nat)) : Bool :=
  let e := es.foldl Dev.gateWrite d
  bitOf lic 2
    || ((!es.any (fun x => x.1 = 0x80008) || 8 * e.dimSize 1 * e.dimSize 2 * e.dimSize 3 ≤ 4096)
        && (!es.any (fun x => 0x83000 ≤ x.1 && x.1 < 0x83100) || e.covered ≤ 4096))

/-! ## Evaluation (R479) -/

/-- A key slot's key. -/
def Sec.key (c : Sec) (s : Nat) : Option (BitVec 256) := Tbl.find c.keys s

/-- The keys that sign a request: those of its slots, or those a CLAIM carries. -/
def Sec.signers (c : Sec) (r : List Byte) : BitVec 256 × BitVec 256 :=
  let b := gBody r
  let s := gSlots r
  if gKind r = 7 then (BitVec.ofNat 256 (byteField b 0 32), BitVec.ofNat 256 (byteField b 32 32))
  else ((c.key s.1).getD 0, (c.key s.2).getD 0)

/-- A slot a request names is empty or above 7. -/
def Sec.unknownKey (c : Sec) (r : List Byte) : Bool :=
  let s := gSlots r
  let n := byteField (gBody r) 0 1
  let none' (k : Nat) : Bool := (c.key k).isNone
  7 < s.1 || 7 < s.2 || (gKind r != 7 && (none' s.1 || none' s.2))
    || (gKind r = 4 && 7 < n) || (gKind r = 5 && none' n)

/-- The lowest free licence slot. -/
def Sec.freeLicence (c : Sec) : Option Nat := firstWhere (fun l => (Tbl.find c.slots l).isNone) 4

/-- The slot of an installed SERIAL. -/
def Sec.licenceAt (c : Sec) (serial : Nat) : Option Nat := (c.slots.find? (fun e => licSerial e.2 = serial)).map (·.1)

/-- The reason a request is refused, 0 when it applies: the first of R479 that holds. -/
def gateReason (v : Via) (r : List Byte) (c : Sec) (d : Dev) : Nat :=
  let k := gKind r
  let b := gBody r
  let es := gEntries b
  let s := gSlots r
  let keys := c.signers r
  let sig (key : BitVec 256) (x : List Byte) : Bool := signed key (gSigned r) x
  if d.resetting || d.hq.load = .updatePaused then 1
  else if !c.identity then 2
  else if !gFormat r then 3
  else if byteField r 16 32 != c.nonce.toNat then 4
  else if gSeq r != c.seq then 5
  else if k = 7 && (v = .pcie || 2 ≤ c.keys.length) then 6
  else if k != 7 && c.keys.length < 2 then 7
  else if c.unknownKey r then 8
  else if (if k = 7 then s != (0, 1) else s.1 = s.2) then 9
  else if !(sig keys.1 (gSigs r).1 && sig keys.2 (gSigs r).2) then 10
  else if k = 1 && es.any (fun e => gateMask e.1 = 0) then 11
  else if k = 1 && es.any (fun e => !d.gateAllows e) then 12
  else if k = 1 && !d.gateLicensed c.lic es then 13
  else if k = 2 && (!c.licValid b || (c.licenceAt (licSerial b)).isSome) then 14
  else if k = 2 && c.freeLicence.isNone then 15
  else if k = 5 && c.keys.length < 3 then 16
  else if k = 3 && (c.licenceAt (byteField b 0 8)).isNone then 17
  else if k != 1 && !d.fl.wpn then 18
  else 0

/-- The service section written (R44, R463, R472): what the session has kept goes into it. Where the stored record could not be used, this is a
fresh section in its place. -/
def Dev.writeService (d : Dev) : Dev :=
  let fill (c : RecordCopy) : RecordCopy :=
    if d.fl.noRecord then ⟨c.gen, d.fl.kept, d.pw.trim.now, d.rs.session.foldl (fun l k => insertNat k l) []⟩ else c
  { d with fl := { d.fl.write fill with noRecord := false } }

/-- The retirement kinds a CLEAR_RETIREMENT names. -/
def clearsKind (m kind : Nat) : Bool :=
  (bitOf m 0 && kind = 1) || (bitOf m 1 && (kind = 2 || kind = 3)) || (bitOf m 2 && kind = 4) || (bitOf m 3 && kind = 5)

/-- WRITE_REGS applied. A FASTEST that excludes the P-state in force starts the envelope's transition (R407). -/
def Dev.gateWrites (d : Dev) (es : List (Nat × Nat)) : Dev :=
  let d := es.foldl Dev.gateWrite d
  if es.any (fun e => e.1 = 0x4003C) && !d.pw.busy && d.pw.pstate < d.fastest then d.startPState 4 d.fastest 7 else d

/-- Licences and keys as the service section holds them from the generation written on (R472). -/
def Sec.store (c : Sec) (gen : Word) : Sec :=
  { c with flashSlots := c.slots, flashKeys := c.keys, wroteGen := gen, olderSlots := c.flashSlots, olderKeys := c.flashKeys }

/-- A request's effect (R478), and its LICENCE_CHANGED. -/
def gateApply (r : List Byte) (c : Sec) (d : Dev) : Sec × Dev :=
  let b := gBody r
  let n := byteField b 0 1
  let gen := d.writeService.fl.cur.gen
  let changed (c : Sec) (d : Dev) : Sec × Dev := (c.store gen, d.writeService.post 0xC003 c.features)
  match gKind r with
  | 1 => (c, d.gateWrites (gEntries b))
  | 2 => changed { c with slots := Tbl.put c.slots (c.freeLicence.getD 0) b } d
  | 3 => changed { c with slots := Tbl.erase c.slots ((c.licenceAt (byteField b 0 8)).getD 0) } d
  | 4 => (({ c with keys := Tbl.put c.keys n (BitVec.ofNat 256 (byteField b 8 32)) } : Sec).store gen, d.writeService)
  | 5 => (({ c with keys := Tbl.erase c.keys n } : Sec).store gen, d.writeService)
  | 6 =>
    let d := d.writeService
    (c.store gen, { d with fl := { d.fl with cur := { d.fl.cur with list := d.fl.cur.list.filter (fun e => !clearsKind n e.1) } } })
  | _ =>
    (({ c with keys := Tbl.put (Tbl.put c.keys 0 (c.signers r).1) 1 (c.signers r).2 } : Sec).store gen, d.writeService)

/-- The block that refuses an entry sets its own status register (reason 12): FAB_CFG_STATUS or PWR_CMD_STATUS; XLT has none (log 32). -/
def Dev.gateRefuse (d : Dev) (es : List (Nat × Nat)) : Dev :=
  match es.find? (fun e => !d.gateAllows e) with
  | some e => if e.1 = 0x80004 then d.fabRefuse 0 2 else if e.1 = 0x4003C then d.pwrResult 2 0 else d
  | none => d

/-- A gate request served: GATE_STATUS, GATE_LAST_SEQ, the counters and events, and its effect where it applies. The events of one
request are posted in ascending code. -/
def gate (v : Via) (r : List Byte) (c : Sec) (d : Dev) : Sec × Dev × Nat :=
  let why := gateReason v r c d
  let seq := gSeq r
  let c' := { c with
    status := fld (if v = .pcie then 1 else 2) 4 + rf (gKind r) 8 8 + fld why 16
    lastSeq := seq }
  if why = 0 then
    let d := (d.bump gateSet 0 1).post 0xC001 (packB [(0, gKind r), (4, seq.toNat)])
    let x := gateApply r { c' with seq := c'.seq + 1 } d
    (x.1, x.2, 0)
  else
    let d := if why = 13 then d.fabRefuse 0 1 else if why = 12 then d.gateRefuse (gEntries (gBody r)) else d
    (c', (d.bump gateSet 1 1).post 0xC002 (packB [(0, why), (4, seq.toNat)]), why)

/-- The management partition serves gate requests (R479). -/
def Dev.gateServed (d : Dev) (v : Via) : Bool := d.hq.mgmtRun && (match v with | .pcie => d.reaches .pcie 0x10007C | .mctp => 1 ≤ d.rs.stage)

/-- A request of one kind arrives. -/
def gateOf (k : Nat) (v : Via) (r : List Byte) (c : Sec) (d : Dev) : Sec × Dev :=
  if d.gateServed v && gKind r = k then let x := gate v r c d; (x.1, x.2.1) else (c, d)

/-- WRITE_REGS (R478). -/
def execWriteRegs (v : Via) (r : List Byte) (s : State) : Host.Outcome State Fault Refusal := s.onBoth (gateOf 1 v r)
/-- INSTALL_LICENCE (R478). -/
def execInstallLicence (v : Via) (r : List Byte) (s : State) : Host.Outcome State Fault Refusal := s.onBoth (gateOf 2 v r)
/-- REMOVE_LICENCE (R478). -/
def execRemoveLicence (v : Via) (r : List Byte) (s : State) : Host.Outcome State Fault Refusal := s.onBoth (gateOf 3 v r)
/-- ENROLL_KEY (R478). -/
def execEnrollKey (v : Via) (r : List Byte) (s : State) : Host.Outcome State Fault Refusal := s.onBoth (gateOf 4 v r)
/-- REVOKE_KEY (R478). -/
def execRevokeKey (v : Via) (r : List Byte) (s : State) : Host.Outcome State Fault Refusal := s.onBoth (gateOf 5 v r)
/-- CLEAR_RETIREMENT (R478). -/
def execClearRetirement (v : Via) (r : List Byte) (s : State) : Host.Outcome State Fault Refusal := s.onBoth (gateOf 6 v r)
/-- CLAIM (R478). -/
def execClaim (v : Via) (r : List Byte) (s : State) : Host.Outcome State Fault Refusal := s.onBoth (gateOf 7 v r)

/-- GATE_REQ_CMD: the request read from host memory at GATE_REQ_LO and HI; one that cannot be read there is of a wrong length
(log 32). -/
def gateCmd (val : Word) (c : Sec) (d : Dev) : Sec × Dev :=
  let a := d.wide64 0x100074
  let n := bits (d.reg 0x100078).toNat 12 0
  if d.gateServed .pcie && bitOf val.toNat 0 then
    let dead := (List.range ((a + n) / 4096 + 1 - a / 4096)).any (fun i => a + 4096 * i < a + n && d.hostDead (a + 4096 * i)) || d.hostDead (a + n - 1)
    let x := gate .pcie (if dead then [] else d.hostRead a n) c d
    (x.1, x.2.1)
  else (c, d)

/-- GATE_REQ_CMD (R479). -/
def execGateReqCmd (val : Word) (s : State) : Host.Outcome State Fault Refusal := s.onBoth (gateCmd val)

end Sys2Proof.Machine
end

