-- ==== Sys2Proof/Machine/Scalar.lean ====
section
/-!
DEFINITION. Sys2Proof/Machine/Scalar.lean: the classes SCALAR, BRANCH, TOKEN, FENCE, TRAP and END (R105 to R114, R118, R120), and
the instructions that are not encodings at all.
-/
namespace Sys2Proof.Machine

/-! ## SCALAR and BRANCH (R105) -/

/-- SD of a SCALAR instruction. -/
def iSd (w : IWord) : Nat := wf w 52 48
/-- SA of a SCALAR instruction. -/
def iSa (w : IWord) : Nat := wf w 47 43
/-- SB of a SCALAR instruction. -/
def iSb (w : IWord) : Nat := wf w 42 38
/-- IMM, and TARGET of a BRANCH. -/
def iImm (w : IWord) : Word := BitVec.ofNat 32 (wf w 31 0)

/-- The word is the SCALAR instruction of an OP. -/
def isScalar (op : Nat) (w : IWord) : Bool := iClass w = 0 && wf w 58 53 = op

/-- A SCALAR instruction that writes SD with a value of SA and SB. Reserved bits raise ILLEGAL_INSTRUCTION (R120). -/
def Dev.scalar (d : Dev) (a : At) (w : IWord) (op : Nat) (f : Word → Word → Word) : Dev :=
  d.issue a w (isScalar op w) (fun d _ i =>
    if wf w 37 32 != 0 then .trap d 1 0 none
    else .done (d.setSreg a.core i (iSd w) (f (d.sreg a.core i (iSa w)) (d.sreg a.core i (iSb w)))))

/-- SCALAR_ADD (R105). -/
def execScalarAdd (at_ : At) (w : IWord) (s : State) : Host.Outcome State Fault Refusal :=
  s.onDev (fun d => d.scalar at_ w 0 (fun x y => x + y))
/-- SCALAR_SUB (R105). -/
def execScalarSub (at_ : At) (w : IWord) (s : State) : Host.Outcome State Fault Refusal :=
  s.onDev (fun d => d.scalar at_ w 1 (fun x y => x - y))
/-- SCALAR_AND (R105). -/
def execScalarAnd (at_ : At) (w : IWord) (s : State) : Host.Outcome State Fault Refusal :=
  s.onDev (fun d => d.scalar at_ w 2 (fun x y => x &&& y))
/-- SCALAR_OR (R105). -/
def execScalarOr (at_ : At) (w : IWord) (s : State) : Host.Outcome State Fault Refusal :=
  s.onDev (fun d => d.scalar at_ w 3 (fun x y => x ||| y))
/-- SCALAR_XOR (R105). -/
def execScalarXor (at_ : At) (w : IWord) (s : State) : Host.Outcome State Fault Refusal :=
  s.onDev (fun d => d.scalar at_ w 4 (fun x y => x ^^^ y))
/-- SHL (R105): by bits 4:0 of SB. -/
def execShl (at_ : At) (w : IWord) (s : State) : Host.Outcome State Fault Refusal :=
  s.onDev (fun d => d.scalar at_ w 5 (fun x y => x <<< (y.toNat % 32)))
/-- SHR (R105): logical, by bits 4:0 of SB. -/
def execShr (at_ : At) (w : IWord) (s : State) : Host.Outcome State Fault Refusal :=
  s.onDev (fun d => d.scalar at_ w 6 (fun x y => x >>> (y.toNat % 32)))
/-- SCALAR_MUL (R105): the low 32 bits. -/
def execScalarMul (at_ : At) (w : IWord) (s : State) : Host.Outcome State Fault Refusal :=
  s.onDev (fun d => d.scalar at_ w 7 (fun x y => x * y))
/-- ADDI (R105). -/
def execAddi (at_ : At) (w : IWord) (s : State) : Host.Outcome State Fault Refusal :=
  s.onDev (fun d => d.scalar at_ w 8 (fun x _ => x + iImm w))
/-- MOVI (R105). -/
def execMovi (at_ : At) (w : IWord) (s : State) : Host.Outcome State Fault Refusal :=
  s.onDev (fun d => d.scalar at_ w 9 (fun _ _ => iImm w))

/-- LD_ARG (R105, R120): the argument word at byte offset IMM, bits 1:0 taken as they stand; LOCAL_RANGE at or beyond ARG_LEN.
DESIGN CHOICE: a word that starts below ARG_LEN and ends past it traps too (log 53). -/
def execLdArg (at_ : At) (w : IWord) (s : State) : Host.Outcome State Fault Refusal :=
  s.onDev (fun d => d.issue at_ w (isScalar 10 w) (fun d _ i =>
    if wf w 37 32 != 0 then .trap d 1 0 none
    else
      let args := match d.launchOf at_.core with | none => [] | some x => x.args
      let o := (iImm w).toNat
      if args.length < o + 4 then .trap d 2 0 none
      else .done (d.setSreg at_.core i (iSd w) (BitVec.ofNat 32 (leNat ((args.drop o).take 4))))))

/-- CORE_ID (R105). -/
def execCoreId (at_ : At) (w : IWord) (s : State) : Host.Outcome State Fault Refusal :=
  s.onDev (fun d => d.scalar at_ w 11 (fun _ _ => BitVec.ofNat 32 at_.core.val))

/-- A BRANCH of a condition (R105, R120): a target outside the stream, or not a multiple of 8, or reserved bits, raise
ILLEGAL_INSTRUCTION. The condition judges SA and says what SA becomes. -/
def Dev.branch (d : Dev) (a : At) (w : IWord) (cond : Nat) (taken : Word → Bool) (next : Word → Word) : Dev :=
  d.issue a w (iClass w = 1 && wf w 58 56 = cond) (fun d _ i =>
    let t := (iImm w).toNat
    let s := (d.core a.core).stage i
    let sa := d.sreg a.core i (wf w 55 51)
    if wf w 50 32 != 0 || t % 8 != 0 || s.len ≤ t then .trap d 1 0 none
    else
      let d := d.setSreg a.core i (wf w 55 51) (next sa)
      if taken (next sa) then .jump d (iImm w) else .done d)

/-- BRANCH_ALWAYS (R105). -/
def execBranchAlways (at_ : At) (w : IWord) (s : State) : Host.Outcome State Fault Refusal :=
  s.onDev (fun d => d.branch at_ w 0 (fun _ => true) id)
/-- BRANCH_IF_ZERO (R105). -/
def execBranchIfZero (at_ : At) (w : IWord) (s : State) : Host.Outcome State Fault Refusal :=
  s.onDev (fun d => d.branch at_ w 1 (fun x => x = 0) id)
/-- BRANCH_IF_NONZERO (R105). -/
def execBranchIfNonzero (at_ : At) (w : IWord) (s : State) : Host.Outcome State Fault Refusal :=
  s.onDev (fun d => d.branch at_ w 2 (fun x => x != 0) id)
/-- BRANCH_IF_NEGATIVE (R105). -/
def execBranchIfNegative (at_ : At) (w : IWord) (s : State) : Host.Outcome State Fault Refusal :=
  s.onDev (fun d => d.branch at_ w 3 (fun x => x.msb) id)
/-- DEC (R105): SA less 1, then a branch if it is not 0. -/
def execDec (at_ : At) (w : IWord) (s : State) : Host.Outcome State Fault Refusal :=
  s.onDev (fun d => d.branch at_ w 4 (fun x => x != 0) (fun x => x - 1))

/-! ## TOKEN (R110 to R114) -/

/-- SCOPE, TOKEN and COUNT of a TOKEN instruction. -/
def tkScope (w : IWord) : Bool := bitOf w.toNat 55
/-- TOKEN. -/
def tkNum (w : IWord) : Nat := wf w 54 49
/-- COUNT. -/
def tkCount (w : IWord) : Nat := wf w 48 33

/-- A TOKEN instruction of an OP: reserved bits or HINT raise ILLEGAL_INSTRUCTION, then a core token of 32 or more, or a COUNT the
operation does not take, TOKEN_RANGE (R110, R120). -/
def Dev.token_ (d : Dev) (a : At) (w : IWord) (op : Nat) (f : Dev → CtxId → Nat → Res) : Dev :=
  d.issue a w (iClass w = 2 && wf w 58 56 = op) (fun d c i =>
    if wf w 24 0 != 0 || 4 < wf w 32 30 then .trap d 1 0 none
    else if (!tkScope w && 32 ≤ tkNum w) || (op = 3) != (tkCount w = 0) then .trap d 3 0 none
    else f d c i)

/-- A stage blocks on a token and its sequencer switches (R107). -/
def Core.block (k : Core) (i hint lt : Nat) (want : Bool × Nat × Nat × Bool) : Core :=
  (k.modStage i (fun s => { s with state := .blocked, hint := hint, blockLt := lt, want := some want, stall := none })).switch i

/-- WAIT and WAIT_INV: granted when the value is there and no earlier waiter stands, else the stage blocks (R111). -/
def Dev.waitOn (d : Dev) (core i : Nat) (w : IWord) (inv : Bool) : Res :=
  let sc := tkScope w
  let t := tkNum w
  let n := tkCount w
  let v := d.token core sc t
  if n ≤ v && (d.waiters core sc t).isEmpty then
    let d := d.setToken core sc t (v - n)
    .done (if inv then d.modCore core Core.dropL1 else d)
  else .left (d.modCore core (fun k => k.block i (wf w 32 30) d.lt (sc, t, n, inv)))

/-- WAIT (R111). -/
def execWait (at_ : At) (w : IWord) (s : State) : Host.Outcome State Fault Refusal :=
  s.onDev (fun d => d.token_ at_ w 0 (fun d _ i => d.waitOn at_.core i w false))

/-- WAIT_INV (R111). -/
def execWaitInv (at_ : At) (w : IWord) (s : State) : Host.Outcome State Fault Refusal :=
  s.onDev (fun d => d.token_ at_ w 2 (fun d _ i => d.waitOn at_.core i w true))

/-- SIGNAL (R111, R112, R114): it waits for the stage's operations that an array holds, and overflow parks with TOKEN_OVERFLOW.
DESIGN CHOICE: R122 has no row for that wait, which counts as LLC_MISS (log 5). -/
def execSignal (at_ : At) (w : IWord) (s : State) : Host.Outcome State Fault Refusal :=
  s.onDev (fun d => d.token_ at_ w 1 (fun d _ i =>
    if (d.core at_.core).holds i then .stall d 2
    else
      match (d.resolve at_.core i (.done d)).signal at_.core (tkScope w) (tkNum w) (tkCount w) with
      | none => .trap d 4 0 none
      | some d => .left d))

/-- TOKEN_READ (R111). -/
def execTokenRead (at_ : At) (w : IWord) (s : State) : Host.Outcome State Fault Refusal :=
  s.onDev (fun d => d.token_ at_ w 3 (fun d _ i =>
    .done (d.setSreg at_.core i (wf w 29 25) (BitVec.ofNat 32 (d.token at_.core (tkScope w) (tkNum w))))))

/-! ## FENCE, TRAP, END (R107, R118, R120) -/

/-- A FENCE of a KIND. A store is performed when its instruction is done, so WR has nothing to wait for (log 5). -/
def Dev.fence (d : Dev) (a : At) (w : IWord) (kind : Nat) (inv : Bool) : Dev :=
  d.issue a w (iClass w = 3 && wf w 58 56 = kind) (fun d _ _ =>
    if wf w 55 0 != 0 then .trap d 1 0 none else .done (if inv then d.modCore a.core Core.dropL1 else d))

/-- FENCE_WR (R118). -/
def execFenceWr (at_ : At) (w : IWord) (s : State) : Host.Outcome State Fault Refusal := s.onDev (fun d => d.fence at_ w 0 false)
/-- FENCE_INV (R118). -/
def execFenceInv (at_ : At) (w : IWord) (s : State) : Host.Outcome State Fault Refusal := s.onDev (fun d => d.fence at_ w 1 true)
/-- FENCE_FULL (R118). -/
def execFenceFull (at_ : At) (w : IWord) (s : State) : Host.Outcome State Fault Refusal := s.onDev (fun d => d.fence at_ w 2 true)

/-- TRAP (R120): PROGRAM_TRAP with its CODE. -/
def execTrap (at_ : At) (w : IWord) (s : State) : Host.Outcome State Fault Refusal :=
  s.onDev (fun d => d.issue at_ w (iClass w = 0xB) (fun d _ _ =>
    if wf w 58 16 != 0 then .trap d 1 0 none else .trap d 5 (wf w 15 0) none))

/-- END (R103, R107): EXIT recorded, the stage ENDED, the sequencer switched, the LAUNCH finished when it was the last. -/
def execEndStream (at_ : At) (w : IWord) (s : State) : Host.Outcome State Fault Refusal :=
  s.onDev (fun d => d.issue at_ w (iClass w = 0xC) (fun d _ i =>
    if wf w 58 32 != 0 then .trap d 1 0 none
    else
      let e := BitVec.ofNat 32 (wf w 31 0)
      let d := d.modCore at_.core (fun k => (k.modStage i (fun s => { s with state := .ended, exit := e, stall := none })).switch i)
      match (d.core at_.core).tag with
      | none => .left d
      | some t => .left (((d.modWork t (fun x => { x with exits := x.exits ||| e })).tryFinish t).settleCost at_.core)))

/-- Reserved classes, operations, conditions and kinds (R104, R105, R110, R118, R120); reserved bits and operands of an assigned
operation are judged with that operation. -/
def reservedWord (w : IWord) : Bool :=
  let op3 := wf w 58 56
  match iClass w with
  | 0 => 11 < wf w 58 53
  | 1 => 4 < op3
  | 2 => 3 < op3
  | 3 => 2 < op3
  | 4 => 4 < op3
  | 5 => 3 < op3
  | 6 =>
    let op := wf w 58 53
    !(op ≤ 0x08 || (0x0A ≤ op && op ≤ 0x0C) || (0x10 ≤ op && op ≤ 0x14) || (0x18 ≤ op && op ≤ 0x1B) || (0x20 ≤ op && op ≤ 0x24)
      || (0x28 ≤ op && op ≤ 0x2D) || op = 0x30 || (0x32 ≤ op && op ≤ 0x39))
  | 7 => 4 < op3
  | 8 => 0 < op3
  | 9 => 5 < op3
  | 10 => 3 < op3
  | 11 => false
  | 12 => false
  | _ => true

/-- ILLEGAL_INSTRUCTION (R120). -/
def execIllegalInstruction (at_ : At) (w : IWord) (s : State) : Host.Outcome State Fault Refusal :=
  s.onDev (fun d => d.issue at_ w (reservedWord w) (fun d _ _ => .trap d 1 0 none))

end Sys2Proof.Machine
end

