-- ==== Sys2Proof/Machine/Spdm.lean ====
section
/-!
DEFINITION. Sys2Proof/Machine/Spdm.lean: the SPDM 1.3 responder (R481, R482). The manual names the requests, capabilities, algorithms and
measurements; the layout of the messages, the order of a connection and what a signature covers are those of DMTF DSP0274 1.3 (log 33).
-/
namespace Sys2Proof.Machine

/-! ## Measurements (R482) -/

/-- A register as 4 bytes. -/
def Dev.reg4 (d : Dev) (off : Nat) : List Byte := natLe 4 (d.reg off).toNat

/-- The input of measurement 4. -/
def hwConfig (c : Sec) (d : Dev) : List Byte :=
  (List.range 8).flatMap (fun s => natLe 32 ((c.key s).getD 0).toNat) ++ natLe 4 c.seq.toNat
    ++ (List.range 256).flatMap (fun x =>
        d.reg4 (0xE1000 + 16 * x) ++ d.reg4 (0xE1004 + 16 * x) ++ natLe 4 ((d.reg (0xE1008 + 16 * x)).toNat % 2))
    ++ d.reg4 0x80004 ++ d.reg4 0x80008 ++ d.reg4 0x8000C
    ++ (List.range 16).flatMap (fun e => d.reg4 (0x83000 + 16 * e) ++ d.reg4 (0x83004 + 16 * e) ++ d.reg4 (0x83008 + 16 * e))
    ++ d.reg4 0x4003C

/-- The input of measurement 3. -/
def fwConfig (c : Sec) : List Byte :=
  (List.range 4).flatMap (fun l => Tbl.get c.slots l (List.replicate 160 0)) ++ [BitVec.ofNat 8 c.lic]

/-- A measurement's digest. Measurement 2 is the digest kept of the bundle that runs. -/
def measurement (c : Sec) (d : Dev) (i : Nat) : BitVec 512 :=
  match i with
  | 1 => Config.sha512 Config.bootRom
  | 2 => d.hq.digest
  | 3 => Config.sha512 (fwConfig c)
  | _ => Config.sha512 (hwConfig c d)

/-- The DMTF value type of a measurement. -/
def measureType (i : Nat) : Nat := match i with | 1 => 0 | 2 => 1 | 3 => 3 | _ => 2

/-- A measurement block: index, DMTF specification, size, value type, value size, digest. -/
def measureBlock (c : Sec) (d : Dev) (i : Nat) : List Byte :=
  [BitVec.ofNat 8 i, 1] ++ natLe 2 67 ++ [BitVec.ofNat 8 (measureType i)] ++ natLe 2 64 ++ bytesOf 64 (measurement c d i)

/-! ## Messages -/

/-- A message of SPDM 1.3. -/
def spdm (code p1 p2 : Byte) (body : List Byte) : List Byte := [0x13, code, p1, p2] ++ body

/-- An ERROR response. -/
def spdmError (code data : Byte) : List Byte := spdm 0x7F code data []

/-- A request's code, its parameters, and bytes of it. -/
def sCode (r : List Byte) : Nat := byteField r 1 1
/-- Param1. -/
def sP1 (r : List Byte) : Nat := byteField r 2 1
/-- Param2. -/
def sP2 (r : List Byte) : Nat := byteField r 3 1

/-- Thirty-two bytes of a nonce the standard leaves to the responder. -/
def Dev.spdmNonce (d : Dev) : Dev × List Byte :=
  let (n, d) := d.takeFresh
  (d, (List.range 32).map (Config.freeByte n))

/-- A signature by the device key over the SPDM prefix, the context string and the digest of a transcript. -/
def Sec.spdmSign (c : Sec) (context : List Byte) (transcript : List Byte) : List Byte :=
  let version := "dmtf-spdm-v1.3.*".toList.map (fun x => BitVec.ofNat 8 x.toNat)
  let pre := version ++ version ++ version ++ version ++ List.replicate (36 - context.length) 0 ++ context
  bytesOf 64 (Config.ed25519Sign (Config.pufSeed c.helper) (pre ++ bytesOf 64 (Config.sha512 transcript)))

/-- The bytes of a string. -/
def asciiOf (x : String) : List Byte := x.toList.map (fun y => BitVec.ofNat 8 y.toNat)

/-! ## The responder -/

/-- The digest of the certificate chain of slot 0. -/
def Sec.chainHash (c : Sec) : List Byte := bytesOf 64 (Config.sha512 c.chain)

/-- GET_VERSION: the connection begins again. -/
def spdmVersion (r : List Byte) (c : Sec) : Sec × List Byte :=
  let a : List Byte := [0x10, 0x04, 0, 0, 0, 1] ++ natLe 2 0x1300
  ({ c with versioned := true, negotiated := false, vca := r ++ a, certs := [], measured := [] }, a)

/-- GET_CAPABILITIES: CERT_CAP, CHAL_CAP and MEAS_CAP with signatures. -/
def spdmCapabilities (r : List Byte) (c : Sec) : Sec × List Byte :=
  if !c.versioned then (c, spdmError 4 0)
  else
    let a := spdm 0x61 0 0 ([0, BitVec.ofNat 8 (Config.spdmLimits 0).toNat, 0, 0] ++ natLe 4 0x16 ++ natLe 4 (Config.spdmLimits 1).toNat
      ++ natLe 4 (Config.spdmLimits 2).toNat)
    ({ c with vca := c.vca ++ r ++ a }, a)

/-- NEGOTIATE_ALGORITHMS: Ed25519 and SHA-512 where the request offers them, DMTF measurements with SHA-512. -/
def spdmAlgorithms (r : List Byte) (c : Sec) : Sec × List Byte :=
  if !c.versioned then (c, spdmError 4 0)
  else
    let meas := bitOf (byteField r 6 1) 0
    let asym := bitOf (byteField r 8 4) 10
    let hash := bitOf (byteField r 12 4) 2
    let a := spdm 0x63 0 0 (natLe 2 36 ++ [BitVec.ofNat 8 (b2n meas), 0] ++ natLe 4 (fld (b2n meas) 3) ++ natLe 4 (fld (b2n asym) 10)
      ++ natLe 4 (fld (b2n hash) 2) ++ List.replicate 16 0)
    ({ c with negotiated := true, vca := c.vca ++ r ++ a }, a)

/-- GET_DIGESTS: slot 0 alone. -/
def spdmDigests (r : List Byte) (c : Sec) : Sec × List Byte :=
  if !c.negotiated then (c, spdmError 4 0)
  else if !c.identity then (c, spdmError 5 0)
  else
    let a := spdm 0x01 1 1 c.chainHash
    ({ c with certs := c.certs ++ r ++ a }, a)

/-- GET_CERTIFICATE: a portion of the chain of slot 0. -/
def spdmCertificate (r : List Byte) (c : Sec) : Sec × List Byte :=
  let off := byteField r 4 2
  let n := min (byteField r 6 2) (c.chain.length - off)
  if !c.negotiated then (c, spdmError 4 0)
  else if !c.identity then (c, spdmError 5 0)
  else if sP1 r % 16 != 0 || c.chain.length ≤ off then (c, spdmError 1 0)
  else
    let a := spdm 0x02 0 0 (natLe 2 n ++ natLe 2 (c.chain.length - off - n) ++ (c.chain.drop off).take n)
    ({ c with certs := c.certs ++ r ++ a }, a)

/-- The measurement summary a CHALLENGE asks for: none, that of the trusted base (which of the four it takes is not stated, so it is free),
or that of all. -/
def measureSummary (c : Sec) (d : Dev) (type : Nat) : Dev × List Byte :=
  match type with
  | 0 => (d, [])
  | 1 =>
    let (n, d) := d.takeFresh
    (d, (List.range 64).map (Config.freeByte n))
  | _ => (d, bytesOf 64 (Config.sha512 ([1, 2, 3, 4].flatMap (measureBlock c d))))

/-- CHALLENGE: CHALLENGE_AUTH signed with the device key. -/
def spdmChallenge (r : List Byte) (c : Sec) (d : Dev) : Sec × Dev × List Byte :=
  if !c.negotiated then (c, d, spdmError 4 0)
  else if !c.identity then (c, d, spdmError 5 0)
  else if sP1 r != 0 || (sP2 r != 0 && sP2 r != 1 && sP2 r != 255) then (c, d, spdmError 1 0)
  else
    let (d, nonce) := d.spdmNonce
    let (d, sum) := measureSummary c d (sP2 r)
    let a := spdm 0x03 0 1 (c.chainHash ++ nonce ++ sum ++ natLe 2 0 ++ (r.drop 36).take 8)
    let sig := c.spdmSign (asciiOf "responder-challenge_auth signing") (c.vca ++ c.certs ++ r ++ a)
    ({ c with certs := [], measured := [] }, d, a ++ sig)

/-- GET_MEASUREMENTS: the number of measurements, one of them or all, signed where asked. -/
def spdmMeasurements (r : List Byte) (c : Sec) (d : Dev) : Sec × Dev × List Byte :=
  let signs : Bool := bitOf (sP1 r) 0
  let op := sP2 r
  let is := if op = 0 then [] else if op = 255 then [1, 2, 3, 4] else [op]
  if !c.negotiated then (c, d, spdmError 4 0)
  else if !c.identity then (c, d, spdmError 5 0)
  else if 4 < op && op != 255 then (c, d, spdmError 1 0)
  else
    let (d, nonce) := d.spdmNonce
    let blocks := is.flatMap (measureBlock c d)
    let a := spdm 0x60 (if op = 0 then 4 else 0) 0 ([BitVec.ofNat 8 is.length] ++ natLe 3 blocks.length ++ blocks ++ nonce ++ natLe 2 0
      ++ (r.drop (if signs then 37 else 4)).take 8)
    if signs then
      let sig := c.spdmSign (asciiOf "responder-measurements signing") (c.vca ++ c.measured ++ r ++ a)
      ({ c with measured := [] }, d, a ++ sig)
    else ({ c with measured := c.measured ++ r ++ a }, d, a)

/-- The management partition answers SPDM requests over MCTP (R481). -/
def Dev.spdmServed (d : Dev) : Bool := d.hq.mgmtRun && 1 ≤ d.rs.stage

/-- A response sent. -/
def Dev.spdmSend (d : Dev) (a : List Byte) : Dev := { d with env := { d.env with spdm := d.env.spdm ++ [a] } }

/-- A request of one code answered. -/
def spdmAnswer (code : Nat) (r : List Byte) (f : Sec → Dev → Sec × Dev × List Byte) (c : Sec) (d : Dev) : Sec × Dev :=
  if d.spdmServed && sCode r = code then
    let x := f c d
    (x.1, x.2.1.spdmSend x.2.2)
  else (c, d)

/-- An answer that leaves the part as it is. -/
def keepDev (f : Sec → Sec × List Byte) (c : Sec) (d : Dev) : Sec × Dev × List Byte := let x := f c; (x.1, d, x.2)

/-- GET_VERSION (R481). -/
def execGetVersion (r : List Byte) (s : State) : Host.Outcome State Fault Refusal := s.onBoth (spdmAnswer 0x84 r (keepDev (spdmVersion r)))
/-- GET_CAPABILITIES (R481). -/
def execGetCapabilities (r : List Byte) (s : State) : Host.Outcome State Fault Refusal := s.onBoth (spdmAnswer 0xE1 r (keepDev (spdmCapabilities r)))
/-- NEGOTIATE_ALGORITHMS (R481). -/
def execNegotiateAlgorithms (r : List Byte) (s : State) : Host.Outcome State Fault Refusal := s.onBoth (spdmAnswer 0xE3 r (keepDev (spdmAlgorithms r)))
/-- GET_DIGESTS (R481). -/
def execGetDigests (r : List Byte) (s : State) : Host.Outcome State Fault Refusal := s.onBoth (spdmAnswer 0x81 r (keepDev (spdmDigests r)))
/-- GET_CERTIFICATE (R481). -/
def execGetCertificate (r : List Byte) (s : State) : Host.Outcome State Fault Refusal := s.onBoth (spdmAnswer 0x82 r (keepDev (spdmCertificate r)))
/-- CHALLENGE (R481). -/
def execChallenge (r : List Byte) (s : State) : Host.Outcome State Fault Refusal := s.onBoth (spdmAnswer 0x83 r (spdmChallenge r))
/-- GET_MEASUREMENTS (R482). -/
def execGetMeasurements (r : List Byte) (s : State) : Host.Outcome State Fault Refusal := s.onBoth (spdmAnswer 0xE0 r (spdmMeasurements r))

/-- A request code R481 names. -/
def spdmKnown (code : Nat) : Bool :=
  code = 0x81 || code = 0x82 || code = 0x83 || code = 0x84 || code = 0xE0 || code = 0xE1 || code = 0xE3

/-- UNSUPPORTED_REQUEST: ERROR UnsupportedRequest with the request's code (R481). -/
def execUnsupportedRequest (r : List Byte) (s : State) : Host.Outcome State Fault Refusal :=
  s.onDev (fun d => if d.spdmServed && !spdmKnown (sCode r) then d.spdmSend (spdmError 7 (BitVec.ofNat 8 (sCode r))) else d)

end Sys2Proof.Machine
end

