-- ==== Sys2Proof/Machine/Writes.lean ====
section
/-!
DEFINITION. Sys2Proof/Machine/Writes.lean: register writes under their access codes (R11, R15, R16), and the MCTP management messages
(R496 to R498).
-/
namespace Sys2Proof.Machine

/-! ## Counter clears (R11) -/

/-- The counter set of each core that a cluster window's clear register names by its offset in the window. -/
def clearsOf (o : Nat) : Option (Nat → CtrSet) :=
  match o with
  | 0x14 => some idleSet
  | 0x18 => some furSet
  | 0x1C => some harSet
  | 0x20 => some attSet
  | _ => none

/-- The cluster of a window offset. -/
def clusterAt (off : Nat) : Option Nat := if 0x400000 ≤ off && off < 0x880000 then some ((off - 0x400000) / 0x10000) else none

/-- UPD_GROUP_COUNTER_CLEAR (R399): one group or every group. -/
def Dev.clearGroups (d : Dev) (val : Nat) : Dev :=
  if bitOf val 31 then { d with ctr := Tbl.cut d.ctr 0x130000 0x10000 } else d.clearSet (grpSet (bits val 11 0))

/-- A clear register written; none where the offset names none. -/
def Dev.clearAt (d : Dev) (off val : Nat) : Option Dev :=
  if off = 0x120040 then some (d.clearGroups val)
  else
    match clusterAt off, clearsOf (off % 0x10000) with
    | some cl, some cs => some ((setBits val 18).foldl (fun d k => d.clearSet (cs (coreAt cl k))) d)
    | _, _ =>
      match (setsAt off).find? (fun cs => cs.clear = off) with
      | none => none
      | some cs =>
        let d := d.clearBits cs val
        some (if off = 0x140070 && bitOf val 6 then { d with col := { d.col with lastThr := none } } else d)

/-- COUNTER_CLEAR (R11). -/
def execCounterClear (off val : Word) (s : State) : Host.Outcome State Fault Refusal :=
  s.onDev (fun d => d.atReg .pcie off.toNat (fun d => (d.clearAt off.toNat val.toNat).getD d))

/-! ## Registers that hold what is written (R16) -/

/-- The bits an RW register without a rule of its own holds; 0 for any other offset. -/
def plainMask (off : Nat) : Nat :=
  if off = 0x10034 || off = 0x60004 || off = 0xA0010 || off = 0xC0008 || off = 0xE0008 || off = 0x160034
    || off = 0x80010 || off = 0x140008 || off = 0x120038 || off = 0x40058 || off = 0x100068
    || (0x400000 ≤ off && off < 0x880000 && off % 0x10000 = 0x10) then 1
  else if off = 0x11000 then 0xFFF
  else if off = 0x12000 then 0xFF
  else if off = 0x13000 || off = 0x20100 || off = 0x120008 then 0xFFFFF000
  else if off = 0x20114 || off = 0xE0018 then 0xFFFF
  else if off = 0x1300C then 0xFFFFFFFC
  else if off = 0x20108 then 0x7FFFFFF
  else if off = 0x40010 || off = 0x40014 then 0x7F7F7F7F
  else if off = 0x4006C then 0x3FF
  else if 0x40400 ≤ off && off < 0x40440 then 0xFFFF
  else if off = 0xA0014 then 0x7FF
  else if off = 0xC0004 then 3
  else if off = 0xC000C then 0xFFFF00FF
  else if 0xC0800 ≤ off && off < 0xC0980 && off % 0x40 = 0 then 0xFFFF0003
  else if off = 0xE0010 then 0x1FF
  else if off = 0xE0014 then 0xFFE00000
  else if off = 0x100070 then 0xFFFFFFC0
  else if off = 0x100078 then 0x1FFF
  else if off = 0x120014 then 0xFFFFFC00
  else if off = 0x14000C then 0xFFFFFF
  else if off = 0x13010 || off = 0x20104 || off = 0x80018 || off = 0xE001C || off = 0x100074 || off = 0x12000C || off = 0x120018
    || off = 0x12001C then 0xFFFFFFFF
  else 0

/-- High words whose write commits the value (R15). -/
def commits (off : Nat) : Bool :=
  off = 0x13010 || off = 0x20104 || off = 0xE0018 || off = 0x100074 || off = 0x12000C || off = 0x120018

/-- A plain RW register written. -/
def Dev.plainWrite (d : Dev) (off val : Nat) : Dev :=
  let v := val &&& plainMask off
  let d := d.setReg off (BitVec.ofNat 32 v)
  if commits off then d.setWide off ((d.reg (off - 4)).toNat + fld v 32) else d

/-! ## Registers with a rule of their own and no command of their own -/

/-- FAB_PORT_CFG (R298, R299, R332): REACH is taken while the port is DISABLED, P17's ROLE in any state, then EN; a refusal changes
nothing. -/
def Dev.portCfg (d : Dev) (lic p val : Nat) : Dev :=
  let x := d.port p
  if p < 7 && bitOf val 1 then d.fabRefuse p 4
  else
    let d' := d.setPort p { x with lr := if x.state = .disabled then bitOf val 1 else x.lr, role := if p = 17 then bits val 8 4 else x.role }
    if bitOf val 0 && !x.en then
      let e := d'.portEnable lic p
      if (e.port p).en then e else { d with fab := { d.fab with cfgPort := e.fab.cfgPort, cfgResult := e.fab.cfgResult } }
    else if !bitOf val 0 && x.en then d'.portDisable p
    else d'

/-- FAB_PORT_RESERVE (R315, R332). -/
def Dev.portReserve (d : Dev) (p val : Nat) : Dev :=
  let qs := (List.range 8).map (fun q => bits val (4 * q + 3) (4 * q))
  if (d.port p).state = .disabled && qs.all (fun r => 1 ≤ r && r ≤ 8) && qs.sum ≤ 32 then d.setReg (portBase p + 0xC) (BitVec.ofNat 32 val)
  else d.fabRefuse p 4

/-- A G2 register written directly: ignored and counted (R16, R475). XLT_CTX_CFG also has the RW field PRI_EN (R296). -/
def Dev.directG2 (d : Dev) (off val : Nat) : Dev :=
  let d := d.bump gateSet 2 1
  if 0xE1000 ≤ off && off % 16 = 8 then d.setReg off (BitVec.ofNat 32 ((d.reg off).toNat % 2 + fld (bits val 1 1) 1)) else d

/-- A register that takes a value only inside a range: the values it ignores leave it as it is. -/
def Dev.rangeWrite (d : Dev) (off val mask : Nat) (ok : Bool) : Dev := if ok then d.setReg off (BitVec.ofNat 32 (val &&& mask)) else d

/-- The registers whose write has a rule of its own and no command of its own; none for any other. -/
def Dev.ruledWrite (d : Dev) (lic off val : Nat) : Option Dev :=
  if gateMask off != 0 then some (d.directG2 off val)
  else if off = 0x13008 then some (d.rangeWrite off val 0xFFFF (6 ≤ bits val 4 0 && bits val 4 0 ≤ 16))
  else if 0xE0010 ≤ off && off ≤ 0xE001C then some (if d.mm.inval.isSome then d else d.plainWrite off val)
  else if off = 0x80014 then some (d.rangeWrite off val 0xFFFFFF (bits val 23 0 != 0))
  else if off = 0x8001C then
    some (d.rangeWrite off val 0xFFFF0F0F (bits val 3 0 != 0 && 1 ≤ bits val 11 8 && bits val 11 8 ≤ 8))
  else if 0x81000 ≤ off && off < 0x82200 && off % 0x100 = 0 then some (d.portCfg lic ((off - 0x81000) / 0x100) val)
  else if 0x81000 ≤ off && off < 0x82200 && off % 0x100 = 0xC then some (d.portReserve ((off - 0x81000) / 0x100) val)
  else if off = 0xE0004 then some (d.rangeWrite off val 0x3FF (1 ≤ bits val 9 0 && bits val 9 0 ≤ 1000))
  else if off = 0x120010 then some (if 65536 < bits val 16 0 then d.updRefuse 0x10 2 else d.setReg off (BitVec.ofNat 32 (bits val 16 0)))
  else if off = 0x120020 then some (if bits val 31 16 = 0 then d.updRefuse 0x20 2 else d.setReg off (BitVec.ofNat 32 val))
  else if off = 0x140004 then some (d.rangeWrite off val 0xFFFF (bits val 15 0 != 0))
  else if off = 0x160020 then
    some (if bits val 1 0 = 3 then d else d.setReg off (BitVec.ofNat 32 ((d.reg off).toNat / 4 * 4 + bits val 1 0)))
  else if off = 0x160024 then some (d.rangeWrite off val 0x3FF (5 ≤ bits val 9 0 && bits val 9 0 ≤ 1000))
  else if off = 0x160028 then some (d.rangeWrite off val 0xFFFF0007 (bits val 2 0 != 0 && bits val 31 16 != 0))
  else none

/-! ## The write of a register -/

/-- The meaning of a write whose register is one of a command of its own: none for any other. -/
def ownWrite (v : Via) (off val : Word) (s : State) : Option (Host.Outcome State Fault Refusal) :=
  let o := off.toNat
  let x := val.toNat
  let nothing : Host.Outcome State Fault Refusal := .next s
  if o = 0x10010 then some (execHqsBlockMax val s)
  else if o = 0x13004 then some (execHqsDevEvqHi val s)
  else if 0x10000 ≤ o && isFe (o - 0x10000) then some (execFeWrite off val s)
  else if o = 0x2010C then some (match bits x 1 0 with | 1 => execLoad s | 2 => execUpdate s | _ => nothing)
  else if o = 0x40004 then some (execPStateCommand v val s)
  else if o = 0x40018 then some (if bitOf x 8 then execDomainPowerOn v val s else execDomainPowerOff v val s)
  else if o = 0x40030 then some (execPwrCap v val s)
  else if o = 0x40034 then some (execPwrRamp v val s)
  else if o = 0x40038 then some (execPwrFloor v val s)
  else if o = 0x40050 then some (execPwrGuardClear v val s)
  else if o = 0x40054 then some (execPwrEstCommit v val s)
  else if o = 0x40068 then some (execPwrTripClear v val s)
  else if o = 0x40074 then some (execPwrSuspectClear v val s)
  else if 0x81000 ≤ o && o < 0x82200 && o % 0x100 = 0x18 then
    some (if bitOf x 0 then (if h : (o - 0x81000) / 0x100 < 18 then execRetrain ⟨(o - 0x81000) / 0x100, h⟩ s else nothing) else nothing)
  else if o = 0xA0100 then some (execLlcPinLimit 0 val s)
  else if o = 0xA0200 then some (execLlcPinLimit 1 val s)
  else if 0xC0040 ≤ o && o < 0xC0050 then
    let g : GroupId := BitVec.toFin (BitVec.ofNat 2 ((o - 0xC0040) / 4))
    some (match bits x 1 0 with | 1 => execSrEnter g s | 2 => execSrExit g s | 3 => execRemap g s | _ => nothing)
  else if o = 0xE0020 then some (if bitOf x 0 then execXltInvalCmd s else nothing)
  else if o = 0x10007C then some (execGateReqCmd val s)
  else if o = 0x120004 then some (execUpdCtx val s)
  else if 0x120024 ≤ o && o ≤ 0x120030 then some (execUpdStookCfg off val s)
  else if 0x140100 ≤ o && o < 0x140500 then some (execColCtxJob (BitVec.toFin (BitVec.ofNat 8 ((o - 0x140100) / 4))) val s)
  else if o = 0x160004 then some (s.onBoth (resetCommand v (bits x 2 0) (bits x 26 16)))
  else if o = 0x16002C then some (execRstSelftestCmd v val s)
  else none

/-- A register write over a path: a command's own register, a clear register, one with a rule of its own, a plain one; any other offset
ignores it. -/
def writeReg (v : Via) (off val : Word) (s : State) : Host.Outcome State Fault Refusal :=
  if off.toNat % 4 != 0 || !s.dev.reaches v off.toNat then .next s
  else
    match ownWrite v off val s with
    | some r => r
    | none => s.onFab (fun d =>
      match d.clearAt off.toNat val.toNat, d.ruledWrite s.sec.lic off.toNat val.toNat with
      | some e, _ => e
      | none, some e => e
      | none, none => if plainMask off.toNat = 0 then d else d.plainWrite off.toNat val.toNat)

/-- REGISTER_WRITE (R15, R16). -/
def execRegisterWrite (off val : Word) (s : State) : Host.Outcome State Fault Refusal := writeReg .pcie off val s

/-! ## Management messages (R496 to R498) -/

/-- The management port answers once the boot ROM runs (R462, R463). -/
def Dev.mctpUp (d : Dev) : Bool := 1 ≤ d.rs.stage

/-- COMMAND of a message. -/
def mCommand (m : List Byte) : Nat := byteField m 3 1
/-- LENGTH of a message. -/
def mLength (m : List Byte) : Nat := byteField m 6 2
/-- The payload of a message. -/
def mPayload (m : List Byte) : List Byte := m.drop 8

/-- The two bytes of the PCI Vendor ID, most significant first. -/
def vendorBytes : List Byte := [BitVec.ofNat 8 (Config.vendorId.toNat / 256), BitVec.ofNat 8 Config.vendorId.toNat]

/-- A message of the vendor-defined type with the device's VENDOR_ID. -/
def mOurs (m : List Byte) : Bool := 8 ≤ m.length && byteField m 0 1 = 0x7E && (m.drop 1).take 2 = vendorBytes

/-- A response to a message. -/
def mAnswer (m : List Byte) (status : Nat) (payload : List Byte) : List Byte :=
  [0x7E] ++ vendorBytes ++ [BitVec.ofNat 8 (mCommand m % 128 + 128), m.getD 4 0, BitVec.ofNat 8 status] ++ natLe 2 payload.length ++ payload

/-- A response sent. -/
def Dev.mctpSend (d : Dev) (a : List Byte) : Dev := { d with env := { d.env with mctp := d.env.mctp ++ [a] } }

/-- A request of a command with its length as the command requires; 2 BAD_LENGTH otherwise. -/
def mLengthOk (m : List Byte) (need : Nat → Bool) : Bool := m.length = 8 + mLength m && need (mLength m)

/-- Words read from consecutive offsets over MCTP. -/
def mctpRead (c : Sec) (d : Dev) (off n : Nat) : Dev × List Byte :=
  (List.range n).foldl (fun (r : Dev × List Byte) i =>
    let (e, w) := readReg .mctp c r.1 (off + 4 * i)
    ({ e with env := { e.env with busRead := w.toNat } }, r.2 ++ bytesOf 4 w)) (d, [])

/-- REG_READ: the words, and DOMAIN_OFF when one of them lies in a powered-off domain. A COUNT outside 1 to 64 or an offset that is no
multiple of 4 is answered as a wrong length (log 32). -/
def Dev.regRead (c : Sec) (d : Dev) (m : List Byte) : Dev :=
  let p := mPayload m
  let off := byteField p 0 4
  let n := byteField p 4 1
  if !d.mctpUp || !mOurs m || mCommand m != 1 then d
  else if !mLengthOk m (· = 5) || n = 0 || 64 < n || off % 4 != 0 then d.mctpSend (mAnswer m 2 [])
  else
    let status := if (List.range n).any (fun i => !d.on (regDomain (off + 4 * i))) then 4 else 0
    let (d, bs) := mctpRead c d off n
    d.mctpSend (mAnswer m status bs)

/-- REG_READ (R497). -/
def execRegRead (m : List Byte) (s : State) : Host.Outcome State Fault Refusal := s.onDev (fun d => d.regRead s.sec m)

/-- REG_WRITE reaches the PWR and RST blocks only. -/
def mctpWritable (off : Nat) : Bool := (0x40000 ≤ off && off < 0x60000) || (0x160000 ≤ off && off < 0x180000)

/-- A response appended to a state. -/
def State.answer (s : State) (a : List Byte) : State := { s with dev := s.dev.mctpSend a }

/-- REG_WRITE: the answer goes out as the write is accepted, then the write acts. -/
def regWrite (m : List Byte) (s : State) : Host.Outcome State Fault Refusal :=
  let p := mPayload m
  let off := byteField p 0 4
  if !s.dev.mctpUp || !mOurs m || mCommand m != 2 then .next s
  else if !mLengthOk m (· = 8) then .next (s.answer (mAnswer m 2 []))
  else if !mctpWritable off then .next (s.answer (mAnswer m 3 []))
  else writeReg .mctp (BitVec.ofNat 32 off) (BitVec.ofNat 32 (byteField p 4 4)) (s.answer (mAnswer m 0 []))

/-- REG_WRITE (R497). -/
def execRegWrite (m : List Byte) (s : State) : Host.Outcome State Fault Refusal := regWrite m s

/-- GATE_REQUEST: the request is evaluated, and the response carries its GATE_SEQ and REASON. -/
def gateMessage (m : List Byte) (c : Sec) (d : Dev) : Sec × Dev :=
  let r := mPayload m
  if !d.gateServed .mctp || !mOurs m || mCommand m != 3 then (c, d)
  else if !mLengthOk m (fun _ => true) then (c, d.mctpSend (mAnswer m 2 []))
  else
    let x := gate .mctp r c d
    (x.1, x.2.1.mctpSend (mAnswer m 0 (natLe 4 (gSeq r).toNat ++ [BitVec.ofNat 8 x.2.2])))

/-- GATE_REQUEST (R497). -/
def execGateRequest (m : List Byte) (s : State) : Host.Outcome State Fault Refusal := s.onBoth (gateMessage m)

/-- BAD_COMMAND: another VENDOR_ID or a reserved COMMAND (R496). A message whose bit 7 of COMMAND is set is a response and is not answered. -/
def execBadCommand (m : List Byte) (s : State) : Host.Outcome State Fault Refusal :=
  s.onDev (fun d =>
    let k := mCommand m
    if d.mctpUp && byteField m 0 1 = 0x7E && 4 ≤ m.length && k < 128
        && ((m.drop 1).take 2 != vendorBytes || !(k = 1 || k = 2 || k = 3)) then
      d.mctpSend (mAnswer m 1 [])
    else d)

/-- SET_ENDPOINT_ID: the sender becomes the bus owner (R498). -/
def execSetEndpointId (eid : Byte) (s : State) : Host.Outcome State Fault Refusal :=
  s.onDev (fun d => if d.mctpUp then { d with mc := { d.mc with owner := some eid } } else d)

/-- EVENT_MESSAGE_READ: the oldest EVENT message goes to the bus owner and leaves its place (R498). -/
def execEventMessageRead (s : State) : Host.Outcome State Fault Refusal :=
  s.onDev (fun d =>
    match d.mc.owner, d.mc.unread with
    | some _, r :: rs =>
      let a := [0x7E] ++ vendorBytes ++ [0x10, 0, 0] ++ natLe 2 64 ++ bytesOf 64 r
      ({ d with mc := { d.mc with unread := rs } } : Dev).mctpSend a
    | _, _ => d)

end Sys2Proof.Machine
end

