-- ==== Sys2Proof/Machine/Dispatch.lean ====
section
/-!
DEFINITION. Sys2Proof/Machine/Dispatch.lean: one arm for each command.
-/
namespace Sys2Proof.Machine

def exec (i : Instr) (s : State) : Host.Outcome State Fault Refusal :=
  match i with
  | .doorbell vf off width val => Sys2Proof.Machine.execDoorbell vf off width val s
  | .bar0InvalidAccess wr off width val => Sys2Proof.Machine.execBar0InvalidAccess wr off width val s
  | .registerWrite off val => Sys2Proof.Machine.execRegisterWrite off val s
  | .counterClear off val => Sys2Proof.Machine.execCounterClear off val s
  | .descriptorArrival q => Sys2Proof.Machine.execDescriptorArrival q s
  | .heldReevaluation c => Sys2Proof.Machine.execHeldReevaluation c s
  | .dispatch => Sys2Proof.Machine.execDispatch s
  | .descriptorComplete tag => Sys2Proof.Machine.execDescriptorComplete tag s
  | .costExceeded tag => Sys2Proof.Machine.execCostExceeded tag s
  | .deadlinePassed tag => Sys2Proof.Machine.execDeadlinePassed tag s
  | .preemption c => Sys2Proof.Machine.execPreemption c s
  | .preemptionTimeout c => Sys2Proof.Machine.execPreemptionTimeout c s
  | .restore c => Sys2Proof.Machine.execRestore c s
  | .nop tag => Sys2Proof.Machine.execNop tag s
  | .resumeContext tag => Sys2Proof.Machine.execResumeContext tag s
  | .abortParked tag => Sys2Proof.Machine.execAbortParked tag s
  | .enable q => Sys2Proof.Machine.execEnable q s
  | .queueStop q => Sys2Proof.Machine.execQueueStop q s
  | .resetIndices q => Sys2Proof.Machine.execResetIndices q s
  | .activate c => Sys2Proof.Machine.execActivate c s
  | .contextStop c => Sys2Proof.Machine.execContextStop c s
  | .release c => Sys2Proof.Machine.execRelease c s
  | .hqsClassBound c val => Sys2Proof.Machine.execHqsClassBound c val s
  | .hqsClassBudget c val => Sys2Proof.Machine.execHqsClassBudget c val s
  | .hqsBlockMax val => Sys2Proof.Machine.execHqsBlockMax val s
  | .feWrite off val => Sys2Proof.Machine.execFeWrite off val s
  | .mailboxService => Sys2Proof.Machine.execMailboxService s
  | .hqsDevEvqHi val => Sys2Proof.Machine.execHqsDevEvqHi val s
  | .waitingRecordWrite ring => Sys2Proof.Machine.execWaitingRecordWrite ring s
  | .coalescingTimer q => Sys2Proof.Machine.execCoalescingTimer q s
  | .eventInterruptInterval ring => Sys2Proof.Machine.execEventInterruptInterval ring s
  | .statusBlockWrite q => Sys2Proof.Machine.execStatusBlockWrite q s
  | .load => Sys2Proof.Machine.execLoad s
  | .update => Sys2Proof.Machine.execUpdate s
  | .bundleFetchDone v => Sys2Proof.Machine.execBundleFetchDone v s
  | .updatePauseStart => Sys2Proof.Machine.execUpdatePauseStart s
  | .updateDeferExpiry => Sys2Proof.Machine.execUpdateDeferExpiry s
  | .newImageReady => Sys2Proof.Machine.execNewImageReady s
  | .updateRollback => Sys2Proof.Machine.execUpdateRollback s
  | .launch tag => Sys2Proof.Machine.execLaunch tag s
  | .scalarAdd at_ w => Sys2Proof.Machine.execScalarAdd at_ w s
  | .scalarSub at_ w => Sys2Proof.Machine.execScalarSub at_ w s
  | .scalarAnd at_ w => Sys2Proof.Machine.execScalarAnd at_ w s
  | .scalarOr at_ w => Sys2Proof.Machine.execScalarOr at_ w s
  | .scalarXor at_ w => Sys2Proof.Machine.execScalarXor at_ w s
  | .shl at_ w => Sys2Proof.Machine.execShl at_ w s
  | .shr at_ w => Sys2Proof.Machine.execShr at_ w s
  | .scalarMul at_ w => Sys2Proof.Machine.execScalarMul at_ w s
  | .addi at_ w => Sys2Proof.Machine.execAddi at_ w s
  | .movi at_ w => Sys2Proof.Machine.execMovi at_ w s
  | .ldArg at_ w => Sys2Proof.Machine.execLdArg at_ w s
  | .coreId at_ w => Sys2Proof.Machine.execCoreId at_ w s
  | .branchAlways at_ w => Sys2Proof.Machine.execBranchAlways at_ w s
  | .branchIfZero at_ w => Sys2Proof.Machine.execBranchIfZero at_ w s
  | .branchIfNonzero at_ w => Sys2Proof.Machine.execBranchIfNonzero at_ w s
  | .branchIfNegative at_ w => Sys2Proof.Machine.execBranchIfNegative at_ w s
  | .dec at_ w => Sys2Proof.Machine.execDec at_ w s
  | .wait at_ w => Sys2Proof.Machine.execWait at_ w s
  | .waitInv at_ w => Sys2Proof.Machine.execWaitInv at_ w s
  | .signal at_ w => Sys2Proof.Machine.execSignal at_ w s
  | .tokenRead at_ w => Sys2Proof.Machine.execTokenRead at_ w s
  | .fenceWr at_ w => Sys2Proof.Machine.execFenceWr at_ w s
  | .fenceInv at_ w => Sys2Proof.Machine.execFenceInv at_ w s
  | .fenceFull at_ w => Sys2Proof.Machine.execFenceFull at_ w s
  | .trap at_ w => Sys2Proof.Machine.execTrap at_ w s
  | .endStream at_ w => Sys2Proof.Machine.execEndStream at_ w s
  | .accessLoad at_ w ups => Sys2Proof.Machine.execAccessLoad at_ w ups s
  | .store at_ w => Sys2Proof.Machine.execStore at_ w s
  | .loadS at_ w => Sys2Proof.Machine.execLoadS at_ w s
  | .storeS at_ w => Sys2Proof.Machine.execStoreS at_ w s
  | .loadNa at_ w => Sys2Proof.Machine.execLoadNa at_ w s
  | .mma at_ w => Sys2Proof.Machine.execMma at_ w s
  | .mmaInit at_ w => Sys2Proof.Machine.execMmaInit at_ w s
  | .zero at_ w => Sys2Proof.Machine.execZero at_ w s
  | .loadAcc at_ w => Sys2Proof.Machine.execLoadAcc at_ w s
  | .tileChecksumCompare core arr ups => Sys2Proof.Machine.execTileChecksumCompare core arr ups s
  | .harrowAdd at_ w => Sys2Proof.Machine.execHarrowAdd at_ w s
  | .harrowSub at_ w => Sys2Proof.Machine.execHarrowSub at_ w s
  | .harrowMul at_ w => Sys2Proof.Machine.execHarrowMul at_ w s
  | .fma at_ w => Sys2Proof.Machine.execFma at_ w s
  | .max at_ w => Sys2Proof.Machine.execMax at_ w s
  | .min at_ w => Sys2Proof.Machine.execMin at_ w s
  | .abs at_ w => Sys2Proof.Machine.execAbs at_ w s
  | .neg at_ w => Sys2Proof.Machine.execNeg at_ w s
  | .mov at_ w => Sys2Proof.Machine.execMov at_ w s
  | .cmplt at_ w => Sys2Proof.Machine.execCmplt at_ w s
  | .cmple at_ w => Sys2Proof.Machine.execCmple at_ w s
  | .cmpeq at_ w => Sys2Proof.Machine.execCmpeq at_ w s
  | .exp at_ w => Sys2Proof.Machine.execExp at_ w s
  | .exp2 at_ w => Sys2Proof.Machine.execExp2 at_ w s
  | .ln at_ w => Sys2Proof.Machine.execLn at_ w s
  | .rcp at_ w => Sys2Proof.Machine.execRcp at_ w s
  | .rsqrt at_ w => Sys2Proof.Machine.execRsqrt at_ w s
  | .scanAdd at_ w => Sys2Proof.Machine.execScanAdd at_ w s
  | .scanMax at_ w => Sys2Proof.Machine.execScanMax at_ w s
  | .segscanAdd at_ w => Sys2Proof.Machine.execSegscanAdd at_ w s
  | .segscanMax at_ w => Sys2Proof.Machine.execSegscanMax at_ w s
  | .redAdd at_ w => Sys2Proof.Machine.execRedAdd at_ w s
  | .redMax at_ w => Sys2Proof.Machine.execRedMax at_ w s
  | .redMin at_ w => Sys2Proof.Machine.execRedMin at_ w s
  | .segredAdd at_ w => Sys2Proof.Machine.execSegredAdd at_ w s
  | .segredMax at_ w => Sys2Proof.Machine.execSegredMax at_ w s
  | .mand at_ w => Sys2Proof.Machine.execMand at_ w s
  | .mor at_ w => Sys2Proof.Machine.execMor at_ w s
  | .mxor at_ w => Sys2Proof.Machine.execMxor at_ w s
  | .mnot at_ w => Sys2Proof.Machine.execMnot at_ w s
  | .mset at_ w => Sys2Proof.Machine.execMset at_ w s
  | .mperiod at_ w => Sys2Proof.Machine.execMperiod at_ w s
  | .acc at_ w => Sys2Proof.Machine.execAcc at_ w s
  | .tld at_ w => Sys2Proof.Machine.execTld at_ w s
  | .tst at_ w => Sys2Proof.Machine.execTst at_ w s
  | .ld at_ w => Sys2Proof.Machine.execLd at_ w s
  | .st at_ w => Sys2Proof.Machine.execSt at_ w s
  | .tfill at_ w => Sys2Proof.Machine.execTfill at_ w s
  | .tspill at_ w => Sys2Proof.Machine.execTspill at_ w s
  | .cvt at_ w => Sys2Proof.Machine.execCvt at_ w s
  | .cvtin at_ w => Sys2Proof.Machine.execCvtin at_ w s
  | .begin at_ w => Sys2Proof.Machine.execBegin at_ w s
  | .block at_ w => Sys2Proof.Machine.execBlock at_ w s
  | .finalAcc at_ w => Sys2Proof.Machine.execFinalAcc at_ w s
  | .partialAcc at_ w => Sys2Proof.Machine.execPartialAcc at_ w s
  | .merge at_ w => Sys2Proof.Machine.execMerge at_ w s
  | .enqueue at_ w => Sys2Proof.Machine.execEnqueue at_ w s
  | .drillTransferStart cl => Sys2Proof.Machine.execDrillTransferStart cl s
  | .drillTransferComplete cl => Sys2Proof.Machine.execDrillTransferComplete cl s
  | .drill tag => Sys2Proof.Machine.execDrill tag s
  | .rangePin at_ w => Sys2Proof.Machine.execRangePin at_ w s
  | .rangeUnpin at_ w => Sys2Proof.Machine.execRangeUnpin at_ w s
  | .rangeFallow at_ w => Sys2Proof.Machine.execRangeFallow at_ w s
  | .rangeResow at_ w => Sys2Proof.Machine.execRangeResow at_ w s
  | .rangeWriteback at_ w => Sys2Proof.Machine.execRangeWriteback at_ w s
  | .rangeInvalidate at_ w => Sys2Proof.Machine.execRangeInvalidate at_ w s
  | .pin tag => Sys2Proof.Machine.execPin tag s
  | .unpin tag => Sys2Proof.Machine.execUnpin tag s
  | .fallow tag => Sys2Proof.Machine.execFallow tag s
  | .resow tag => Sys2Proof.Machine.execResow tag s
  | .writeback tag => Sys2Proof.Machine.execWriteback tag s
  | .invalidate tag => Sys2Proof.Machine.execInvalidate tag s
  | .pressureWindow h => Sys2Proof.Machine.execPressureWindow h s
  | .llcPinLimit h val => Sys2Proof.Machine.execLlcPinLimit h val s
  | .kvCreate tag => Sys2Proof.Machine.execKvCreate tag s
  | .kvAppend tag => Sys2Proof.Machine.execKvAppend tag s
  | .pageTouch tag => Sys2Proof.Machine.execPageTouch tag s
  | .scrubRange tag => Sys2Proof.Machine.execScrubRange tag s
  | .srEnter g => Sys2Proof.Machine.execSrEnter g s
  | .srExit g => Sys2Proof.Machine.execSrExit g s
  | .remap g => Sys2Proof.Machine.execRemap g s
  | .uncWindowRestart => Sys2Proof.Machine.execUncWindowRestart s
  | .gleanBlockRead e ups => Sys2Proof.Machine.execGleanBlockRead e ups s
  | .groupTrainingDone g passed => Sys2Proof.Machine.execGroupTrainingDone g passed s
  | .zeroFillDone g => Sys2Proof.Machine.execZeroFillDone g s
  | .xltInvalCmd => Sys2Proof.Machine.execXltInvalCmd s
  | .xltInvalComplete => Sys2Proof.Machine.execXltInvalComplete s
  | .atsInvalidateRequest pasid page pages => Sys2Proof.Machine.execAtsInvalidateRequest pasid page pages s
  | .priResponse c page code => Sys2Proof.Machine.execPriResponse c page code s
  | .priTimeout c page => Sys2Proof.Machine.execPriTimeout c page s
  | .portEnable p => Sys2Proof.Machine.execPortEnable p s
  | .portDisable p => Sys2Proof.Machine.execPortDisable p s
  | .retrain p => Sys2Proof.Machine.execRetrain p s
  | .trainingAttemptDone p res => Sys2Proof.Machine.execTrainingAttemptDone p res s
  | .flitReceived p flit => Sys2Proof.Machine.execFlitReceived p flit s
  | .laneWindowRestart => Sys2Proof.Machine.execLaneWindowRestart s
  | .ackTimer p => Sys2Proof.Machine.execAckTimer p s
  | .ack p pkt => Sys2Proof.Machine.execAck p pkt s
  | .nak p pkt => Sys2Proof.Machine.execNak p pkt s
  | .quiesce p pkt => Sys2Proof.Machine.execQuiesce p pkt s
  | .rejoin p pkt => Sys2Proof.Machine.execRejoin p pkt s
  | .laneRetire p pkt => Sys2Proof.Machine.execLaneRetire p pkt s
  | .quiesceTimeout p => Sys2Proof.Machine.execQuiesceTimeout p s
  | .packetForward p pkt => Sys2Proof.Machine.execPacketForward p pkt s
  | .readResp p pkt => Sys2Proof.Machine.execReadResp p pkt s
  | .resp p pkt => Sys2Proof.Machine.execResp p pkt s
  | .responseTimeout ftag => Sys2Proof.Machine.execResponseTimeout ftag s
  | .reduce p pkt => Sys2Proof.Machine.execReduce p pkt s
  | .copy p pkt => Sys2Proof.Machine.execCopy p pkt s
  | .abort p pkt => Sys2Proof.Machine.execAbort p pkt s
  | .peerTimeout slot => Sys2Proof.Machine.execPeerTimeout slot s
  | .allReduce tag => Sys2Proof.Machine.execAllReduce tag s
  | .reduceScatter tag => Sys2Proof.Machine.execReduceScatter tag s
  | .allGather tag => Sys2Proof.Machine.execAllGather tag s
  | .permute tag => Sys2Proof.Machine.execPermute tag s
  | .colCtxJob c val => Sys2Proof.Machine.execColCtxJob c val s
  | .stepOpen tag => Sys2Proof.Machine.execStepOpen tag s
  | .rsUpdate tag => Sys2Proof.Machine.execRsUpdate tag s
  | .arrival p pkt => Sys2Proof.Machine.execArrival p pkt s
  | .hopperDelivery core => Sys2Proof.Machine.execHopperDelivery core s
  | .hpop at_ w => Sys2Proof.Machine.execHpop at_ w s
  | .stage at_ w => Sys2Proof.Machine.execStage at_ w s
  | .loadOld at_ w => Sys2Proof.Machine.execLoadOld at_ w s
  | .slotAddr at_ w => Sys2Proof.Machine.execSlotAddr at_ w s
  | .seal tag => Sys2Proof.Machine.execSeal tag s
  | .winnow tag => Sys2Proof.Machine.execWinnow tag s
  | .winUp p pkt => Sys2Proof.Machine.execWinUp p pkt s
  | .winDown p pkt => Sys2Proof.Machine.execWinDown p pkt s
  | .commit tag => Sys2Proof.Machine.execCommit tag s
  | .winnowRecover tag => Sys2Proof.Machine.execWinnowRecover tag s
  | .fetch tag => Sys2Proof.Machine.execFetch tag s
  | .audit tag => Sys2Proof.Machine.execAudit tag s
  | .stookSave tag => Sys2Proof.Machine.execStookSave tag s
  | .stookRestore tag => Sys2Proof.Machine.execStookRestore tag s
  | .journalAdvance tag => Sys2Proof.Machine.execJournalAdvance tag s
  | .journalResolve tag => Sys2Proof.Machine.execJournalResolve tag s
  | .jrnUp p pkt => Sys2Proof.Machine.execJrnUp p pkt s
  | .jrnDown p pkt => Sys2Proof.Machine.execJrnDown p pkt s
  | .shardHdr p pkt => Sys2Proof.Machine.execShardHdr p pkt s
  | .shardData p pkt => Sys2Proof.Machine.execShardData p pkt s
  | .shardVerify p pkt => Sys2Proof.Machine.execShardVerify p pkt s
  | .stepRec p pkt => Sys2Proof.Machine.execStepRec p pkt s
  | .journalHdr p pkt => Sys2Proof.Machine.execJournalHdr p pkt s
  | .stookRead p pkt => Sys2Proof.Machine.execStookRead p pkt s
  | .stookWrite p pkt => Sys2Proof.Machine.execStookWrite p pkt s
  | .updCtx val => Sys2Proof.Machine.execUpdCtx val s
  | .updStookCfg off val => Sys2Proof.Machine.execUpdStookCfg off val s
  | .pStateCommand via val => Sys2Proof.Machine.execPStateCommand via val s
  | .domainPowerOn via val => Sys2Proof.Machine.execDomainPowerOn via val s
  | .domainPowerOff via val => Sys2Proof.Machine.execDomainPowerOff via val s
  | .domainDrainTimeout d => Sys2Proof.Machine.execDomainDrainTimeout d s
  | .pwrCap via val => Sys2Proof.Machine.execPwrCap via val s
  | .pwrRamp via val => Sys2Proof.Machine.execPwrRamp via val s
  | .pwrFloor via val => Sys2Proof.Machine.execPwrFloor via val s
  | .pwrEstCommit via val => Sys2Proof.Machine.execPwrEstCommit via val s
  | .pwrGuardClear via val => Sys2Proof.Machine.execPwrGuardClear via val s
  | .controlPeriod counts idle => Sys2Proof.Machine.execControlPeriod counts idle s
  | .throttleClear => Sys2Proof.Machine.execThrottleClear s
  | .measurementWindow ivr input => Sys2Proof.Machine.execMeasurementWindow ivr input s
  | .voltageTrim margins => Sys2Proof.Machine.execVoltageTrim margins s
  | .trimSave => Sys2Proof.Machine.execTrimSave s
  | .sensorRound samples traffic => Sys2Proof.Machine.execSensorRound samples traffic s
  | .pwrTripClear via val => Sys2Proof.Machine.execPwrTripClear via val s
  | .pwrSuspectClear via val => Sys2Proof.Machine.execPwrSuspectClear via val s
  | .thermtrip => Sys2Proof.Machine.execThermtrip s
  | .coreReset via n => Sys2Proof.Machine.execCoreReset via n s
  | .clusterReset via n => Sys2Proof.Machine.execClusterReset via n s
  | .quadrantReset via n => Sys2Proof.Machine.execQuadrantReset via n s
  | .computeReset via => Sys2Proof.Machine.execComputeReset via s
  | .deviceReset via => Sys2Proof.Machine.execDeviceReset via s
  | .drainWindowEnd => Sys2Proof.Machine.execDrainWindowEnd s
  | .controlPartitionRestart v => Sys2Proof.Machine.execControlPartitionRestart v s
  | .quietIntervalEnd p => Sys2Proof.Machine.execQuietIntervalEnd p s
  | .coldReset via => Sys2Proof.Machine.execColdReset via s
  | .perstN level => Sys2Proof.Machine.execPerstN level s
  | .powerOn b => Sys2Proof.Machine.execPowerOn b s
  | .railLoss aon => Sys2Proof.Machine.execRailLoss aon s
  | .refclkLoss => Sys2Proof.Machine.execRefclkLoss s
  | .physicalFunctionFlr => Sys2Proof.Machine.execPhysicalFunctionFlr s
  | .functionLevelReset vf => Sys2Proof.Machine.execFunctionLevelReset vf s
  | .rstSelftestCmd via val => Sys2Proof.Machine.execRstSelftestCmd via val s
  | .selfTestEnd cores pairs => Sys2Proof.Machine.execSelfTestEnd cores pairs s
  | .writeRegs via req => Sys2Proof.Machine.execWriteRegs via req s
  | .installLicence via req => Sys2Proof.Machine.execInstallLicence via req s
  | .removeLicence via req => Sys2Proof.Machine.execRemoveLicence via req s
  | .enrollKey via req => Sys2Proof.Machine.execEnrollKey via req s
  | .revokeKey via req => Sys2Proof.Machine.execRevokeKey via req s
  | .clearRetirement via req => Sys2Proof.Machine.execClearRetirement via req s
  | .claim via req => Sys2Proof.Machine.execClaim via req s
  | .getVersion req => Sys2Proof.Machine.execGetVersion req s
  | .getCapabilities req => Sys2Proof.Machine.execGetCapabilities req s
  | .negotiateAlgorithms req => Sys2Proof.Machine.execNegotiateAlgorithms req s
  | .getDigests req => Sys2Proof.Machine.execGetDigests req s
  | .getCertificate req => Sys2Proof.Machine.execGetCertificate req s
  | .challenge req => Sys2Proof.Machine.execChallenge req s
  | .getMeasurements req => Sys2Proof.Machine.execGetMeasurements req s
  | .unsupportedRequest req => Sys2Proof.Machine.execUnsupportedRequest req s
  | .regRead msg => Sys2Proof.Machine.execRegRead msg s
  | .regWrite msg => Sys2Proof.Machine.execRegWrite msg s
  | .gateRequest msg => Sys2Proof.Machine.execGateRequest msg s
  | .lowWordRead off => Sys2Proof.Machine.execLowWordRead off s
  | .illegalInstruction at_ w => Sys2Proof.Machine.execIllegalInstruction at_ w s
  | .atsCompletion c page target rd wr => Sys2Proof.Machine.execAtsCompletion c page target rd wr s
  | .drillTranslationFault cl => Sys2Proof.Machine.execDrillTranslationFault cl s
  | .framingLost p => Sys2Proof.Machine.execFramingLost p s
  | .badPacket p pkt => Sys2Proof.Machine.execBadPacket p pkt s
  | .gateReqCmd val => Sys2Proof.Machine.execGateReqCmd val s
  | .badCommand msg => Sys2Proof.Machine.execBadCommand msg s
  | .setEndpointId eid => Sys2Proof.Machine.execSetEndpointId eid s
  | .eventMessageRead => Sys2Proof.Machine.execEventMessageRead s

end Sys2Proof.Machine
end

