-- ==== Sys2Proof/Machine/Time.lean ====
section
/-!
DEFINITION. Sys2Proof/Machine/Time.lean: one tick of local time (R39) and what goes on by itself in it: power transitions and resets that
wait (R402, R455), the idle-cause counters (R121 to R123, R66), the waits of ports, Hoppers and collectives (R314, R350, R368). Log 3 says
what of the timing is modelled.
-/
namespace Sys2Proof.Machine

/-! ## Idle causes (R121, R122) -/

/-- CLK_CORE cycles in a tick of 10 ns, by P-state (R404). -/
def cyclesOf (p : Nat) : Nat := [12, 11, 10, 9, 8, 7, 6, 4].getD p 12

/-- The six bits of a number reversed (R412). -/
def bitrev6 (c : Nat) : Nat := ((List.range 6).map (fun i => fld (b2n (bitOf c i)) (5 - i))).sum

/-- A shard unit's descriptor of a context waits to issue a transaction (R319, R461). -/
def Dev.unissued (d : Dev) (c : Nat) : Bool :=
  d.upd.jobs.any (fun e => e.2.refused && (match d.work e.1 with | some w => w.ctx.val = c && w.phase = .dispatched | none => false))

/-- Cause 4 or 10 of a core with nothing to wait on (R66, R121, R319): a context of the core has its next descriptor held with
TAG_EXHAUSTED, or a transaction that waits to be issued. -/
def Dev.starved (d : Dev) (n : Nat) (k : Core) : Nat :=
  let mine (c : Nat) (x : Ctx) : Bool :=
    if k.tag.isSome then k.ctx.any (fun y => y.val = c) else x.state.live && bitOf x.mask.toNat (clusterOf n)
  if d.hq.ctxs.any (fun e => mine e.1 e.2 && (d.unissued e.1 || d.hq.queues.any (fun q => q.2.ctx.val = e.1 && q.2.reason = 8))) then 10
  else 4

/-- The slot that serves a token of a core: the one whose descriptor signals it, else one of the core's context that delivers to Hoppers. -/
def Dev.tokenSlot (d : Dev) (n : Nat) (k : Core) (scope : Bool) (t : Nat) : Option (Nat × Bool) :=
  let peer (e : Nat × Slot) : Option (Nat × Bool) :=
    match d.work e.2.tag with
    | none => none
    | some w =>
      let x := w.desc
      let signals := scope && bitOf (fieldB x 48 1) 7 && bits (fieldB x 48 1) 6 0 = clusterOf n && bits (fieldB x 49 1) 5 0 = t
      if some e.2.ctx = k.ctx && !e.2.isOver && signals then (d.awaited x e.2).map (fun a => (a, e.2.thr.contains a)) else none
  match d.col.slots.findSome? peer with
  | some p => some p
  | none => if scope then none else d.hopPeer

/-- The source address a transfer reads next, at its PROGRESS. -/
def DXfer.nextRead (x : DXfer) : Option Nat :=
  let t := xferOf x.rcd
  if x.isKv then (if dOp x.rcd = 0x300 then none else some (fieldB x.rcd 24 8))
  else
    match t.layout with
    | 0 => some (t.src + x.progress)
    | 1 => (t.needs (x.progress / t.panel) (x.progress % t.panel)).head?
    | _ => none

/-- What serves a Drill's oldest outstanding read (R122), which is the next one of the transfer it has begun (log 3): the LLC where the
sector is resident, else the granary, or host memory; a token's cause where there is none. -/
def Dev.drillCause (d : Dev) (cl : Nat) : Nat :=
  if d.drillWaits cl then 4
  else
    match d.drillHead cl with
    | none => 5
    | some x =>
      match if x.started then x.nextRead else none with
      | none => 5
      | some a =>
        match (d.leaf x.ctx (some cl) a false).2 with
        | .error _ => 5
        | .ok (e, lv) =>
          let dpa := fld (bits e 51 21) 21 + a % 2 ^ (12 + 9 * lv)
          if bits e 1 0 = 3 then 4
          else if d.mm.lines.any (fun l => l.num = dpa / 256 && bitOf l.valid (dpa / 128 % 2)) then 2
          else 3

/-- The cause of a BLOCKED stage (R122), and the throttled peer it waits on. -/
def Dev.blockedCause (d : Dev) (n : Nat) (k : Core) (s : Stage) : Nat × Option Nat :=
  match s.hint with
  | 0 => (5, none)
  | 1 => (d.drillCause (clusterOf n), none)
  | 2 =>
    match s.want with
    | none => (1, none)
    | some (scope, t, _, _) =>
      match d.tokenSlot n k scope t with
      | some (p, true) => (8, some p)
      | _ => (1, none)
  | 3 => (9, none)
  | _ => (4, none)

/-- The wait of a stage: since when, its cause and a throttled peer. A stall with cause 14 is that of a full Drill queue, which counts as a
token's with HINT 1 (R152). -/
def Dev.stageWait (d : Dev) (n : Nat) (k : Core) (s : Stage) : Option (Nat × Nat × Option Nat) :=
  match s.state, s.stall with
  | .blocked, _ => let c := d.blockedCause n k s; some (s.blockLt, c.1, c.2)
  | .active, some (c, t) => some (t, if c = 14 then d.drillCause (clusterOf n) else c, none)
  | _, _ => none

/-- The oldest waiting stage's cause; ties go F, B, U, then to the lower stage. -/
def Dev.oldestWait (d : Dev) (n : Nat) (k : Core) : Option (Nat × Option Nat) :=
  (k.stages.foldl (fun (r : Option (Nat × Nat × Option Nat)) e =>
    match d.stageWait n k e.2, r with
    | none, _ => r
    | some w, none => some w
    | some w, some b => if w.1 < b.1 then some w else r) none).map (·.2)

/-- The cause of a core's cycles that are neither gated nor busy nor filled (items 7 and 8 of R121), and the throttled peer. A parked
context is item 8. Where a resident stage issues and none waits, the manual names no counter: which one counts is a free value (log 2). -/
def Dev.restCause (d : Dev) (n : Nat) (k : Core) (free : Nat) : Nat × Option Nat :=
  let parked : Bool := match k.ctx with
    | none => false
    | some c => match (d.ctx c).state with | .parked => true | .parkedPreempted => true | _ => false
  let live : Bool := k.tag.isSome && k.stages.any (fun e => e.2.state != .ended && e.2.state != .unused)
  if parked || !live then (d.starved n k, none)
  else
    match d.oldestWait n k with
    | some c => c
    | none => ((Config.freeByte free n).toNat % 14, none)

/-- The cause of each cycle of a tick, oldest first (R121, R412): the first `img` write or read a save image, and `ops` operations are
accepted one a cycle in the first free cycles. -/
def causesOf (g t f redo rest : Nat) : Nat → Nat → List Nat → List Nat
  | _, _, [] => []
  | img + 1, ops, _ :: cs => 13 :: causesOf g t f redo rest img ops cs
  | 0, ops, c :: cs =>
    let r := bitrev6 c
    if r < g then 7 :: causesOf g t f redo rest 0 ops cs
    else if r < t then 6 :: causesOf g t f redo rest 0 ops cs
    else if redo = 1 then 11 :: causesOf g t f redo rest 0 ops cs
    else if 0 < ops then 0 :: causesOf g t f redo rest 0 (ops - 1) cs
    else if r < f then 12 :: causesOf g t f redo rest 0 ops cs
    else rest :: causesOf g t f redo rest 0 ops cs

/-- A core's cycles of a tick counted. A core that wrote or read a save image since the last one spends a free number of them on it, one
at least (R72, R121; log 3). -/
def Dev.idleCore (d : Dev) (free : Nat) (cs : List Nat) (n : Nat) : Dev :=
  let k := d.core n
  let (rest, peer) := d.restCause n k free
  let cc := d.pw.ctl
  let img := if k.imaged then 1 + (Config.freeByte free (1296 + n)).toNat % max 1 cs.length else 0
  let xs := causesOf cc.g (d.quadFrac (quadOfCluster (clusterOf n))) cc.f (b2n (k.redo != 0)) rest img k.busy cs
  let d := (List.range 14).foldl (fun d c => let m := xs.count c; if m = 0 then d else d.bump (idleSet n) c m) d
  let d := if k.busy = 0 && k.harBusy = 0 && !k.imaged then d else d.modCore n (fun k => { k with busy := 0, harBusy := 0, imaged := false })
  match peer with
  | some p => if xs.contains 8 then d.modCore n (fun k => { k with peer := BitVec.ofNat 32 (p + 2 ^ 31) }) else d
  | none => d

/-- The CLK_CORE cycles of a tick (R404, R405): of the old P-state until the clock stops for a change, none until it runs again, then of
the new one. -/
def Dev.tickCycles (d : Dev) : Nat := match d.pw.trans with
  | some t =>
    if t.kind != 1 && t.kind != 4 then cyclesOf d.pw.pstate
    else if d.lt < t.stop then cyclesOf d.pw.pstate
    else if d.lt < t.relock then 0
    else cyclesOf t.target
  | none => cyclesOf d.pw.pstate

/-- The idle counters of every GOOD core in a powered cluster advance by the cycles of a tick (R121, R123). -/
def Dev.idleTick (d : Dev) : Dev :=
  let cls := (List.range 72).filter d.on
  if cls.isEmpty then d
  else
    let (i, d) := d.takeFresh
    let n := d.tickCycles
    let cs := (List.range n).map (fun c => (d.pw.ctl.frame + c) % 64)
    let d := (cls.flatMap coresOf).foldl (fun d k => if d.coreGood k then d.idleCore i cs k else d) d
    { d with pw := { d.pw with ctl := { d.pw.ctl with frame := (d.pw.ctl.frame + n) % 64 } } }

/-! ## Waits of ports, Hoppers and collectives -/

/-- CREDIT_STALL counts the CLK_FAB cycles, 17.5 a tick, in which a head waits for credits or room (R314). -/
def Dev.portTick (d : Dev) : Dev :=
  d.fab.ports.foldl (fun d e =>
    let x := d.port e.1
    if x.stalled then (d.modPort e.1 (fun x => { x with half := !x.half })).bump (portSet e.1) 2 (17 + b2n x.half) else d) d

/-- UPD_CNT_HOPPER_FULL counts the CLK_FAB cycles in which a full Hopper holds a collective (R368). -/
def Dev.hopTick (d : Dev) : Dev :=
  if d.col.slots.any (fun e => !e.2.isOver && d.hopHeld e.2.id) then
    ({ d with upd := { d.upd with half := !d.upd.half } } : Dev).bump updSet 1 (17 + b2n d.upd.half)
  else d

/-- A slot that waits only on a peer counts the tick, which its COST does not (R345, R350). -/
def Dev.slotTick (d : Dev) (n : Nat) (s : Slot) : Dev :=
  match d.work s.tag with
  | none => d
  | some w =>
    if !d.waitsPeer s then d
    else
      let d := d.modWork s.tag (fun w => { w with since := w.since.map (· + 1) })
      match d.awaited w.desc s with
      | some a =>
        if s.thr.contains a then
          let d := d.modSlot n (fun s => { s with thrTicks := Tbl.put s.thrTicks a (Tbl.get s.thrTicks a 0 + 1) })
          ({ d with col := { d.col with lastThr := some a } } : Dev).bump colSet 6 1
        else d.bump colSet 5 1
      | none => d.bump colSet 5 1

/-- Every slot's tick. -/
def Dev.colTick (d : Dev) : Dev := d.col.slots.foldl (fun d e => d.slotTick e.1 e.2) d

/-! ## The tick -/

/-- One tick of 10 ns: LT advances while REFCLK runs and the part is out of cold reset. -/
def Dev.tick (d : Dev) (lic : Nat) : Dev :=
  if !d.rs.refclk || d.rs.stage = 0 then d
  else (((((({ d with lt := d.lt + 1 } : Dev).transTick lic).resetTick).idleTick).portTick).hopTick).colTick

end Sys2Proof.Machine
end

