-- ==== Sys2Proof/WellFormed.lean ====
section
/-!
DEFINITION. Sys2Proof/WellFormed.lean: which commands can be sent. A command of an instruction of a stream carries a word that spells it
(R104, R105), one of a packet a packet of its TYPE and OP (R310, R397), one of a register an offset a 32-bit access can have (R15).
-/
namespace Sys2Proof

/-- An instruction that carries no strike of its own in its `At`: only a STORE carries `hits`, only a BLOCK `runs`. -/
def At.plain (a : At) : Bool := a.hits.isEmpty && a.runs.isEmpty

/-- CLASS, bits 63:60 (R104). -/
def opClass (w : IWord) : Nat := (w >>> 60).toNat
/-- A word of a CLASS with its OP in bits 58:56. -/
def spells3 (w : IWord) (c op : Nat) : Bool := opClass w = c && (w >>> 56).toNat % 8 = op
/-- A word of a CLASS with its OP in bits 58:53. -/
def spells6 (w : IWord) (c op : Nat) : Bool := opClass w = c && (w >>> 53).toNat % 64 = op

/-- The OPs of the Harrow (R191). -/
def harrowOp (op : Nat) : Bool :=
  op ≤ 0x8 || (0xA ≤ op && op ≤ 0xC) || (0x10 ≤ op && op ≤ 0x14) || (0x18 ≤ op && op ≤ 0x1B) || (0x20 ≤ op && op ≤ 0x24)
    || (0x28 ≤ op && op ≤ 0x2D) || op = 0x30 || (0x32 ≤ op && op ≤ 0x39)

/-- A reserved CLASS or OP (R120). -/
def reservedOp (w : IWord) : Bool :=
  let op3 := (w >>> 56).toNat % 8
  let op6 := (w >>> 53).toNat % 64
  match opClass w with
  | 0 => 11 < op6
  | 1 => 4 < op3
  | 2 => 3 < op3
  | 3 => 2 < op3
  | 4 => 4 < op3
  | 5 => 3 < op3
  | 6 => !harrowOp op6
  | 7 => 4 < op3
  | 8 => 0 < op3
  | 9 => 5 < op3
  | 10 => 3 < op3
  | 11 => false
  | 12 => false
  | _ => true

/-- TYPE of a packet (R310). -/
def Packet.kind (p : Packet) : Nat := p.hdr.toNat % 16
/-- OP of a packet. -/
def Packet.opcode (p : Packet) : Nat := (p.hdr >>> 176).toNat % 256
/-- The payload is as long as LEN64 says for the TYPEs that have one (R310). -/
def Packet.sized (p : Packet) : Bool :=
  p.data.length = (if p.kind = 2 || p.kind = 4 || p.kind = 6 || p.kind = 7 then (p.hdr >>> 8).toNat % 32 else 0)
/-- A LINK record with one of its flags set (R309). -/
def linkWord (p : Packet) (bit : Nat) : Bool := p.kind = 1 && (p.hdr >>> (48 + bit)).toNat % 2 = 1

/-- KIND of a gate request (R475). -/
def gateKind (req : List Byte) : Nat := ((req.drop 4).headD 0).toNat

/-- A command that can be sent. -/
def Instr.wellFormed : Instr → Bool
  | .doorbell _ _ width _ => width = 8 || width = 16 || width = 32 || width = 64
  | .bar0InvalidAccess _ off width _ => width = 8 || width = 16 || width = 64 || (width = 32 && off.toNat % 4 != 0)
  | .registerWrite off _ => off.toNat % 4 = 0 && off.toNat < 2 ^ 24
  | .counterClear off _ => off.toNat % 4 = 0 && off.toNat < 2 ^ 24
  | .descriptorArrival _ => true
  | .heldReevaluation _ => true
  | .dispatch => true
  | .descriptorComplete _ => true
  | .costExceeded _ => true
  | .deadlinePassed _ => true
  | .preemption _ => true
  | .preemptionTimeout _ => true
  | .restore _ => true
  | .nop _ => true
  | .resumeContext _ => true
  | .abortParked _ => true
  | .enable _ => true
  | .queueStop _ => true
  | .resetIndices _ => true
  | .activate _ => true
  | .contextStop _ => true
  | .release _ => true
  | .hqsClassBound _ _ => true
  | .hqsClassBudget _ _ => true
  | .hqsBlockMax _ => true
  | .feWrite off _ => off.toNat % 4 = 0 && off.toNat < 2 ^ 24
  | .mailboxService => true
  | .hqsDevEvqHi _ => true
  | .waitingRecordWrite _ => true
  | .coalescingTimer _ => true
  | .eventInterruptInterval _ => true
  | .statusBlockWrite _ => true
  | .load => true
  | .update => true
  | .bundleFetchDone _ => true
  | .updatePauseStart => true
  | .updateDeferExpiry => true
  | .newImageReady => true
  | .updateRollback => true
  | .launch _ => true
  | .scalarAdd a w => a.plain && spells6 w 0 0x0
  | .scalarSub a w => a.plain && spells6 w 0 0x1
  | .scalarAnd a w => a.plain && spells6 w 0 0x2
  | .scalarOr a w => a.plain && spells6 w 0 0x3
  | .scalarXor a w => a.plain && spells6 w 0 0x4
  | .shl a w => a.plain && spells6 w 0 0x5
  | .shr a w => a.plain && spells6 w 0 0x6
  | .scalarMul a w => a.plain && spells6 w 0 0x7
  | .addi a w => a.plain && spells6 w 0 0x8
  | .movi a w => a.plain && spells6 w 0 0x9
  | .ldArg a w => a.plain && spells6 w 0 0xA
  | .coreId a w => a.plain && spells6 w 0 0xB
  | .branchAlways a w => a.plain && spells3 w 1 0
  | .branchIfZero a w => a.plain && spells3 w 1 1
  | .branchIfNonzero a w => a.plain && spells3 w 1 2
  | .branchIfNegative a w => a.plain && spells3 w 1 3
  | .dec a w => a.plain && spells3 w 1 4
  | .wait a w => a.plain && spells3 w 2 0
  | .waitInv a w => a.plain && spells3 w 2 2
  | .signal a w => a.plain && spells3 w 2 1
  | .tokenRead a w => a.plain && spells3 w 2 3
  | .fenceWr a w => a.plain && spells3 w 3 0
  | .fenceInv a w => a.plain && spells3 w 3 1
  | .fenceFull a w => a.plain && spells3 w 3 2
  | .trap a w => a.plain && opClass w = 11
  | .endStream a w => a.plain && opClass w = 12
  | .accessLoad a w _ => a.plain && spells3 w 4 0
  | .store a w => a.runs.isEmpty && spells3 w 4 1
  | .loadS a w => a.plain && spells3 w 4 2
  | .storeS a w => a.plain && spells3 w 4 3
  | .loadNa a w => a.plain && spells3 w 4 4
  | .mma a w => a.plain && spells3 w 5 0
  | .mmaInit a w => a.plain && spells3 w 5 1
  | .zero a w => a.plain && spells3 w 5 2
  | .loadAcc a w => a.plain && spells3 w 5 3
  | .tileChecksumCompare _ _ ups => ups.all (fun u => u.1 < 1280)
  | .harrowAdd a w => a.plain && spells6 w 6 0x0
  | .harrowSub a w => a.plain && spells6 w 6 0x1
  | .harrowMul a w => a.plain && spells6 w 6 0x2
  | .fma a w => a.plain && spells6 w 6 0x3
  | .max a w => a.plain && spells6 w 6 0x4
  | .min a w => a.plain && spells6 w 6 0x5
  | .abs a w => a.plain && spells6 w 6 0x6
  | .neg a w => a.plain && spells6 w 6 0x7
  | .mov a w => a.plain && spells6 w 6 0x8
  | .cmplt a w => a.plain && spells6 w 6 0xA
  | .cmple a w => a.plain && spells6 w 6 0xB
  | .cmpeq a w => a.plain && spells6 w 6 0xC
  | .exp a w => a.plain && spells6 w 6 0x10
  | .exp2 a w => a.plain && spells6 w 6 0x11
  | .ln a w => a.plain && spells6 w 6 0x12
  | .rcp a w => a.plain && spells6 w 6 0x13
  | .rsqrt a w => a.plain && spells6 w 6 0x14
  | .scanAdd a w => a.plain && spells6 w 6 0x18
  | .scanMax a w => a.plain && spells6 w 6 0x19
  | .segscanAdd a w => a.plain && spells6 w 6 0x1A
  | .segscanMax a w => a.plain && spells6 w 6 0x1B
  | .redAdd a w => a.plain && spells6 w 6 0x20
  | .redMax a w => a.plain && spells6 w 6 0x21
  | .redMin a w => a.plain && spells6 w 6 0x22
  | .segredAdd a w => a.plain && spells6 w 6 0x23
  | .segredMax a w => a.plain && spells6 w 6 0x24
  | .mand a w => a.plain && spells6 w 6 0x28
  | .mor a w => a.plain && spells6 w 6 0x29
  | .mxor a w => a.plain && spells6 w 6 0x2A
  | .mnot a w => a.plain && spells6 w 6 0x2B
  | .mset a w => a.plain && spells6 w 6 0x2C
  | .mperiod a w => a.plain && spells6 w 6 0x2D
  | .acc a w => a.plain && spells6 w 6 0x30
  | .tld a w => a.plain && spells6 w 6 0x32
  | .tst a w => a.plain && spells6 w 6 0x33
  | .ld a w => a.plain && spells6 w 6 0x34
  | .st a w => a.plain && spells6 w 6 0x35
  | .tfill a w => a.plain && spells6 w 6 0x36
  | .tspill a w => a.plain && spells6 w 6 0x37
  | .cvt a w => a.plain && spells6 w 6 0x38
  | .cvtin a w => a.plain && spells6 w 6 0x39
  | .begin a w => a.plain && spells3 w 7 0
  | .block a w => a.hits.isEmpty && spells3 w 7 1 && a.runs.all (fun u => u.place < 1280)
  | .finalAcc a w => a.plain && spells3 w 7 2
  | .partialAcc a w => a.plain && spells3 w 7 3
  | .merge a w => a.plain && spells3 w 7 4
  | .enqueue a w => a.plain && spells3 w 8 0
  | .drillTransferStart _ => true
  | .drillTransferComplete _ => true
  | .drill _ => true
  | .rangePin a w => a.plain && spells3 w 9 0
  | .rangeUnpin a w => a.plain && spells3 w 9 1
  | .rangeFallow a w => a.plain && spells3 w 9 2
  | .rangeResow a w => a.plain && spells3 w 9 3
  | .rangeWriteback a w => a.plain && spells3 w 9 4
  | .rangeInvalidate a w => a.plain && spells3 w 9 5
  | .pin _ => true
  | .unpin _ => true
  | .fallow _ => true
  | .resow _ => true
  | .writeback _ => true
  | .invalidate _ => true
  | .pressureWindow _ => true
  | .llcPinLimit _ _ => true
  | .kvCreate _ => true
  | .kvAppend _ => true
  | .pageTouch _ => true
  | .scrubRange _ => true
  | .srEnter _ => true
  | .srExit _ => true
  | .remap _ => true
  | .uncWindowRestart => true
  | .gleanBlockRead _ _ => true
  | .groupTrainingDone _ passed => passed.length = 12 && passed.all (fun a => a ≤ 3)
  | .zeroFillDone _ => true
  | .xltInvalCmd => true
  | .xltInvalComplete => true
  | .atsInvalidateRequest _ page pages => page < 2 ^ 52 && 1 ≤ pages
  | .priResponse _ page _ => page < 2 ^ 52
  | .priTimeout _ page => page < 2 ^ 52
  | .portEnable _ => true
  | .portDisable _ => true
  | .retrain _ => true
  | .trainingAttemptDone _ res => res.sync.length ≤ 8
  | .flitReceived _ flit => flit.bytes.length = 516 && flit.errors.all (fun e => e < 544)
  | .laneWindowRestart => true
  | .ackTimer _ => true
  | .ack _ pkt => pkt.sized && linkWord pkt 0
  | .nak _ pkt => pkt.sized && linkWord pkt 1
  | .quiesce _ pkt => pkt.sized && linkWord pkt 2
  | .rejoin _ pkt => pkt.sized && linkWord pkt 3
  | .laneRetire _ pkt => pkt.sized && linkWord pkt 4
  | .quiesceTimeout _ => true
  | .packetForward _ pkt => pkt.sized && 2 ≤ pkt.kind && pkt.kind ≤ 7
  | .readResp _ pkt => pkt.sized && pkt.kind = 4
  | .resp _ pkt => pkt.sized && pkt.kind = 5
  | .responseTimeout _ => true
  | .reduce _ pkt => pkt.sized && pkt.kind = 6 && pkt.opcode = 0x0
  | .copy _ pkt => pkt.sized && pkt.kind = 6 && pkt.opcode = 0x1
  | .abort _ pkt => pkt.sized && pkt.kind = 6 && pkt.opcode = 0x2
  | .peerTimeout _ => true
  | .allReduce _ => true
  | .reduceScatter _ => true
  | .allGather _ => true
  | .permute _ => true
  | .colCtxJob _ _ => true
  | .stepOpen _ => true
  | .rsUpdate _ => true
  | .arrival _ pkt => pkt.sized && pkt.kind = 7
  | .hopperDelivery _ => true
  | .hpop a w => a.plain && spells3 w 10 0
  | .stage a w => a.plain && spells3 w 10 1
  | .loadOld a w => a.plain && spells3 w 10 2
  | .slotAddr a w => a.plain && spells3 w 10 3
  | .seal _ => true
  | .winnow _ => true
  | .winUp _ pkt => pkt.sized && pkt.kind = 6 && pkt.opcode = 0x80
  | .winDown _ pkt => pkt.sized && pkt.kind = 6 && pkt.opcode = 0x81
  | .commit _ => true
  | .winnowRecover _ => true
  | .fetch _ => true
  | .audit _ => true
  | .stookSave _ => true
  | .stookRestore _ => true
  | .journalAdvance _ => true
  | .journalResolve _ => true
  | .jrnUp _ pkt => pkt.sized && pkt.kind = 6 && pkt.opcode = 0x82
  | .jrnDown _ pkt => pkt.sized && pkt.kind = 6 && pkt.opcode = 0x83
  | .shardHdr _ pkt => pkt.sized && pkt.kind = 3 && pkt.opcode = 0x10
  | .shardData _ pkt => pkt.sized && pkt.kind = 3 && pkt.opcode = 0x11
  | .shardVerify _ pkt => pkt.sized && pkt.kind = 3 && pkt.opcode = 0x12
  | .stepRec _ pkt => pkt.sized && pkt.kind = 3 && pkt.opcode = 0x13
  | .journalHdr _ pkt => pkt.sized && pkt.kind = 3 && pkt.opcode = 0x14
  | .stookRead _ pkt => pkt.sized && pkt.kind = 3 && pkt.opcode = 0x21
  | .stookWrite _ pkt => pkt.sized && pkt.kind = 2
  | .updCtx _ => true
  | .updStookCfg off _ => 0x120024 ≤ off.toNat && off.toNat ≤ 0x120030 && off.toNat % 4 = 0
  | .pStateCommand _ _ => true
  | .domainPowerOn _ val => val.toNat / 256 % 2 = 1
  | .domainPowerOff _ val => val.toNat / 256 % 2 = 0
  | .domainDrainTimeout d => d < 96
  | .pwrCap _ _ => true
  | .pwrRamp _ _ => true
  | .pwrFloor _ _ => true
  | .pwrEstCommit _ _ => true
  | .pwrGuardClear _ _ => true
  | .controlPeriod counts _ => counts.length = 16
  | .throttleClear => true
  | .measurementWindow ivr _ => !ivr.isEmpty && ivr.all (fun r => r.length = 97)
  | .voltageTrim margins => margins.length = 4
  | .trimSave => true
  | .sensorRound samples traffic => samples.length = 230 && traffic.length = 8
  | .pwrTripClear _ _ => true
  | .pwrSuspectClear _ _ => true
  | .thermtrip => true
  | .coreReset _ n => n < 1296
  | .clusterReset _ n => n < 72
  | .quadrantReset _ n => n < 4
  | .computeReset _ => true
  | .deviceReset _ => true
  | .drainWindowEnd => true
  | .controlPartitionRestart _ => true
  | .quietIntervalEnd _ => true
  | .coldReset _ => true
  | .perstN _ => true
  | .powerOn _ => true
  | .railLoss _ => true
  | .refclkLoss => true
  | .physicalFunctionFlr => true
  | .functionLevelReset vf => vf != 0
  | .rstSelftestCmd _ _ => true
  | .selfTestEnd cores _ => cores.all (fun c => c.1 < 1296)
  | .writeRegs _ req => gateKind req = 1
  | .installLicence _ req => gateKind req = 2
  | .removeLicence _ req => gateKind req = 3
  | .enrollKey _ req => gateKind req = 4
  | .revokeKey _ req => gateKind req = 5
  | .clearRetirement _ req => gateKind req = 6
  | .claim _ req => gateKind req = 7
  | .getVersion _ => true
  | .getCapabilities _ => true
  | .negotiateAlgorithms _ => true
  | .getDigests _ => true
  | .getCertificate _ => true
  | .challenge _ => true
  | .getMeasurements _ => true
  | .unsupportedRequest _ => true
  | .regRead _ => true
  | .regWrite _ => true
  | .gateRequest _ => true
  | .lowWordRead off => off.toNat % 4 = 0 && off.toNat < 2 ^ 24
  | .illegalInstruction a w => a.plain && reservedOp w
  | .atsCompletion _ page target _ _ => page < 2 ^ 52 && target < 2 ^ 52
  | .drillTranslationFault _ => true
  | .framingLost _ => true
  | .badPacket _ _ => true
  | .gateReqCmd _ => true
  | .badCommand _ => true
  | .setEndpointId _ => true
  | .eventMessageRead => true

end Sys2Proof
end

