-- ==== Sys2Proof/Safety.lean ====
section
/-!
DEFINITION. Sys2Proof/Safety.lean: what a safe run is, and the invariants statements are made in. The part has no fault and no command is
refused, so a run is safe when every step answers a next state.
-/
namespace Sys2Proof

/-- A run of n steps that ends in a next state. -/
def SafeRun (n : Nat) (s : Machine.State) : Prop := ∃ t, Host.Core.run core n s = .next t

/-- Every waiting command can be sent. -/
def Machine.State.queueOk (s : Machine.State) : Bool := s.pending.all Instr.wellFormed

/-- A table's keys rise strictly and lie below a bound. -/
def Tbl.keysBelow {α : Type} (t : Tbl α) (n : Nat) : Bool :=
  t.all (fun e => e.1 < n) && decide (List.Pairwise (fun a b => a.1 < b.1) t)

/-- Licence slots and key slots are legal (R473, R475): four licence slots of 160 bytes each, eight key slots. -/
def Machine.slotsLegal (slots : Tbl (List Byte)) (keys : Tbl (BitVec 256)) : Bool :=
  Tbl.keysBelow slots 4 && slots.all (fun e => e.2.length = 160) && Tbl.keysBelow keys 8

/-- The identity's tables are legal, those in use and those in the flash, and four features are in force (R473 to R475). -/
def Machine.Sec.legal (c : Machine.Sec) : Bool :=
  c.lic < 16 && Machine.slotsLegal c.slots c.keys && Machine.slotsLegal c.flashSlots c.flashKeys
    && Machine.slotsLegal c.olderSlots c.olderKeys

/-- The canonical form of host memory, of the granary, of the stacked cache and of every core's local store and L1: addresses strictly rising,
no byte 0 listed. -/
def Machine.Dev.storesOk (d : Machine.Dev) : Bool :=
  Mem.wf d.env.host && Mem.wf d.mm.gran.data && Mem.wf d.mm.tags.data && d.mm.lines.all (fun l => Mem.wf l.st.data)
    && d.gr.cores.all (fun e => Mem.wf e.2.ls.data && e.2.l1.all (fun l => Mem.wf l.st.data))

end Sys2Proof
end

