-- ==== Sys2Proof/Certificates/Slice0/Obligations.lean ====
section
/-!
DEFINITION. Sys2Proof/Certificates/Slice0/Obligations.lean: the statements for the provers. Each says in its docstring which rule of spec/ it
formalises; one that is the model's own choice names the log entry.
-/
open Sys2Proof Sys2Proof.Machine

namespace Sys2Proof

/-! ## What the statements share -/

/-- Nothing but the compute cores' records has changed. -/
def OnlyCores (s t : State) : Prop := t = { s with dev := { s.dev with gr := { s.dev.gr with cores := t.dev.gr.cores } } }

/-- Nothing but the control plane's queues has changed, and of those only one. -/
def OnlyQueue (s t : State) (q : Nat) : Prop :=
  t = { s with dev := { s.dev with hq := { s.dev.hq with queues := t.dev.hq.queues } } } ∧ ∀ k, k ≠ q → t.dev.queue k = s.dev.queue k

/-- Nothing but held registers and the control plane's status words has changed, and of the registers only one. -/
def OnlyReg (s t : State) (off : Nat) : Prop :=
  t = { s with dev := { s.dev with regs := t.dev.regs, hq := { s.dev.hq with
    checkFail := t.dev.hq.checkFail, lastClass := t.dev.hq.lastClass, lastOff := t.dev.hq.lastOff, lastRes := t.dev.hq.lastRes } } }
  ∧ ∀ o, o ≠ off → t.dev.reg o = s.dev.reg o

/-- A counter can be advanced by one without reaching its all-ones value, or has reported that already. -/
def Quiet (d : Dev) (off w : Nat) : Prop := (d.ctrAt off).val + 1 < 2 ^ w - 1 ∨ (d.ctrAt off).sat = true

/-- One counter advanced by one (R9, R10) and nothing else. -/
def counted (d : Dev) (off w : Nat) : Dev := { d with ctr := Tbl.set d.ctr off ((d.ctrAt off).add w 1) ⟨0, false⟩ }

/-- Nothing of the fabric waits to be taken up by the engines, as between two commands. -/
def FabClear (d : Dev) : Prop := d.fab.returned = [] ∧ d.fab.ended = [] ∧ d.fab.lost = [] ∧ d.fab.handed = false

/-- Commands that may change the identity, the licences, the keys, the gate or the SPDM state: the gate's, the resets and what starts one,
boot and pins, SPDM. -/
def touchesSec : Instr → Bool
  | .coreReset _ _ => true
  | .clusterReset _ _ => true
  | .quadrantReset _ _ => true
  | .computeReset _ => true
  | .deviceReset _ => true
  | .drainWindowEnd => true
  | .coldReset _ => true
  | .perstN _ => true
  | .powerOn _ => true
  | .railLoss _ => true
  | .refclkLoss => true
  | .physicalFunctionFlr => true
  | .sensorRound _ _ => true
  | .thermtrip => true
  | .registerWrite _ _ => true
  | .regWrite _ => true
  | .gateRequest _ => true
  | .gateReqCmd _ => true
  | .writeRegs _ _ => true
  | .installLicence _ _ => true
  | .removeLicence _ _ => true
  | .enrollKey _ _ => true
  | .revokeKey _ _ => true
  | .clearRetirement _ _ => true
  | .claim _ _ => true
  | .getVersion _ => true
  | .getCapabilities _ => true
  | .negotiateAlgorithms _ => true
  | .getDigests _ => true
  | .getCertificate _ => true
  | .challenge _ => true
  | .getMeasurements _ => true
  | .unsupportedRequest _ => true
  | _ => false

end Sys2Proof

/-! ## The machine as a whole -/

/-- The queue is first in, first out: a step runs the command at its front, with the rest of the queue (log 1). -/
def Obligations.StepRunsFrontCommand : Prop :=
  ∀ (c : Instr) (rest : List Instr) (s : State), step { s with pending := c :: rest } = exec c { s with pending := rest }

/-- With no command waiting the part idles: LT counts one tick while REFCLK runs and the part is out of cold reset, and nothing changes otherwise
(log 1, log 3). -/
def Obligations.IdleCountsLt : Prop :=
  ∀ s : State, s.pending = [] →
    (s.dev.rs.refclk = false ∨ s.dev.rs.stage = 0 → step s = .next s)
    ∧ (s.dev.rs.refclk = true → s.dev.rs.stage ≠ 0 →
        ∃ t, step s = .next t ∧ t.dev.lt = s.dev.lt + 1 ∧ t.sec = s.sec ∧ t.pending = [])

/-- Every counter saturates at its all-ones value and never wraps; SAT is set as it gets there and stays, and the 0-to-1 transition posts one COUNTER_SATURATED
where the block reports (R9, R10). A counter of any set, advanced by any number. -/
def Obligations.CountersSaturate : Prop :=
  ∀ (d : Dev) (cs : CtrSet) (i n off w : Nat), cs.ctrs[i]? = some (off, w) →
    let c := d.ctrAt off
    let full : Prop := 2 ^ w - 1 ≤ c.val + n
    let e : Dev := { d with ctr := Tbl.set d.ctr off ⟨min (c.val + n) (2 ^ w - 1), c.sat || decide full⟩ ⟨0, false⟩ }
    e.ctrAt off = ⟨min (c.val + n) (2 ^ w - 1), c.sat || decide full⟩ ∧ (∀ o, o ≠ off → e.ctrAt o = d.ctrAt o)
    ∧ (full → c.sat = false → d.satEn cs = true → d.bump cs i n = e.post 1 (satPayload cs i))
    ∧ (¬ full ∨ c.sat = true ∨ d.satEn cs = false → d.bump cs i n = e)

/-- Every command is answered by a next state, in every state and whatever its operands, and no command adds to or takes from the queue
(log 1). -/
def Obligations.EveryCommandCompletes : Prop :=
  ∀ (c : Instr) (s : State), ∃ t, exec c s = .next t ∧ t.pending = s.pending

/-- A command that is none of the gate's, none of SPDM and starts no reset leaves identity, licences, keys and gate state as they are
(R473 to R482). -/
def Obligations.IdentityFrame : Prop :=
  ∀ (c : Instr) (s t : State), touchesSec c = false → exec c s = .next t → t.sec = s.sec

/-- Every step keeps the identity's tables legal: at most four licence slots of 160 bytes, eight key slots and four features (R473, R475). -/
def Obligations.SecLegalKept : Prop := ∀ s t : State, s.sec.legal = true → step s = .next t → t.sec.legal = true

/-- The identity's tables are legal at reset. -/
def Obligations.SecLegalAtReset : Prop := State.reset.sec.legal = true

/-! ## Reset, boot and pins (15, 17) -/

namespace Sys2Proof

/-- RST_CMD is refused, changing nothing but RESULT, with BUSY while another reset is in progress, with BAD_VALUE for a target out of range, and
with SELF_GATE for level 6 over PCIe (R455). -/
def ResetRefused : Prop :=
  ∀ (v : Via) (n : Nat) (s : State), s.dev.serves v 0x160004 = true →
    let answer (r : Nat) : Host.Outcome State Fault Refusal := .next { s with dev := { s.dev with rs := { s.dev.rs with result := r } } }
    (s.dev.resetting = true →
      exec (.coreReset v n) s = answer 1 ∧ exec (.clusterReset v n) s = answer 1 ∧ exec (.quadrantReset v n) s = answer 1
        ∧ exec (.computeReset v) s = answer 1 ∧ exec (.deviceReset v) s = answer 1 ∧ exec (.coldReset v) s = answer 1)
    ∧ (s.dev.resetting = false →
      (1296 ≤ n → exec (.coreReset v n) s = answer 2) ∧ (72 ≤ n → exec (.clusterReset v n) s = answer 2)
        ∧ (4 ≤ n → exec (.quadrantReset v n) s = answer 2) ∧ (v = .pcie → exec (.coldReset v) s = answer 3))

end Sys2Proof

namespace Sys2Proof

/-- A reset of level 1 to 4 with no work accepted clears exactly the cores it reaches, clears the tokens and Drills of the clusters it reaches,
and leaves the stacked cache, the granary, the fabric, the queues, the contexts and the registers as they are; a compute reset takes the licences'
features into force (R6, R453, R456, R457, R470). -/
def UnitResetWithoutWork : Prop :=
  ∀ (v : Via) (n : Nat) (s : State), s.dev.serves v 0x160004 = true → s.dev.resetting = false → s.dev.pw.busy = false →
    s.dev.hq.infl = [] → s.dev.col.slots = [] → s.dev.upd.formed = [] → (∀ k, (s.dev.core k).hopper = []) →
    (∀ c, (s.dev.cluster c).drill = []) → FabClear s.dev →
    let done (level target : Nat) (o : Host.Outcome State Fault Refusal) : Prop := ∃ t, o = .next t
      ∧ (∀ k, t.dev.core k = if k ∈ resetCores level target ∧ (level = 1 → s.dev.coreGood k = true) then (s.dev.core k).afterReset
          else s.dev.core k)
      ∧ (∀ c, c ∈ resetClusters level target → (t.dev.cluster c).tok = [] ∧ (t.dev.cluster c).drill = [])
      ∧ t.dev.rs.level = level ∧ t.dev.rs.result = 0 ∧ t.dev.rs.origin = 1 ∧ t.dev.rs.doneLt = s.dev.lt ∧ t.dev.rs.ended = 0
      ∧ t.dev.mm = s.dev.mm ∧ t.dev.fab = s.dev.fab ∧ t.dev.regs = s.dev.regs ∧ t.dev.wide = s.dev.wide ∧ t.dev.dom = s.dev.dom
      ∧ t.dev.hq.queues = s.dev.hq.queues ∧ t.dev.hq.ctxs = s.dev.hq.ctxs ∧ t.dev.lt = s.dev.lt ∧ t.dev.pw = s.dev.pw
      ∧ t.dev.fl = s.dev.fl ∧ t.pending = s.pending ∧ t.sec = (if level = 4 then { s.sec with lic := s.sec.features } else s.sec)
    (n < 1296 → done 1 n (exec (.coreReset v n) s)) ∧ (n < 72 → done 2 n (exec (.clusterReset v n) s))
      ∧ (n < 4 → done 3 n (exec (.quadrantReset v n) s)) ∧ done 4 0 (exec (.computeReset v) s)

end Sys2Proof

/-- Resets of level 1 to 4: when they are refused, and what they do to units without work. -/
def Obligations.UnitResets : Prop := ResetRefused ∧ UnitResetWithoutWork

namespace Sys2Proof

/-- A device reset is accepted: admission stops, a power transition ends at once, the features of the licences come into force, and the reset is
in progress; a Function Level Reset of the physical function does the same (R453, R455, R456, R474). No collective runs. -/
def DeviceResetAccepted : Prop :=
  ∀ (v : Via) (s : State), s.dev.resetting = false → s.dev.col.slots = [] → FabClear s.dev →
    let done (o : Host.Outcome State Fault Refusal) : Prop := ∃ t, o = .next t
      ∧ t.dev.rs.run = some ⟨1, false, s.dev.lt⟩ ∧ t.dev.rs.level = 5 ∧ t.dev.rs.result = 0 ∧ t.dev.rs.origin = 1
      ∧ t.dev.hq.ctrlRun = false ∧ t.dev.pw = { s.dev.pw with trans := none } ∧ t.sec = { s.sec with lic := s.sec.features }
      ∧ t.dev.gr = s.dev.gr ∧ t.dev.mm = s.dev.mm ∧ t.dev.fab = s.dev.fab ∧ t.dev.hq.queues = s.dev.hq.queues
      ∧ t.dev.hq.ctxs = s.dev.hq.ctxs ∧ t.dev.regs = s.dev.regs ∧ t.pending = s.pending
    (s.dev.serves v 0x160004 = true → done (exec (.deviceReset v) s)) ∧ (s.dev.pcieUp = true → done (exec .physicalFunctionFlr s))

end Sys2Proof

namespace Sys2Proof

/-- When the drain window of a device reset ends, the logic die is reset: only domain 94 stays powered, every queue not DISABLED reads STOPPED
with SQ_HEAD and DONE_PREFIX at its latest producer index, every context not FREE reads STOPPED with no accepted work, the clusters, cache lines
and waiting set-up writes are lost, set-up registers are kept, the PROMISE_BROKEN for the work it ended is owed after those of earlier resets, and
a fresh BOOT_NONCE starts GATE_SEQ at 0 (R54, R79, R260, R456, R459, R476). -/
def DrainWindowEndResetsDie : Prop :=
  ∀ (s : State) (r : Resetting), s.dev.rs.run = some r → r.drained = false →
    r.since + 100 * bits (s.dev.reg 0x160024).toNat 9 0 ≤ s.dev.lt →
    ∃ t, exec .drainWindowEnd s = .next t
      ∧ t.dev.dom = 2 ^ 94 ∧ t.dev.hq.infl = [] ∧ t.dev.hq.mail = [] ∧ t.dev.mm.lines = [] ∧ t.dev.regs = s.dev.regs
      ∧ t.dev.gr = ⟨[], []⟩ ∧ t.dev.hq.owed = s.dev.hq.owed ++ [(s.dev.hq.infl.length, 5)]
      ∧ (∀ q, let x := s.dev.queue q
          let y := t.dev.queue q
          (x.state = .disabled → y = x)
            ∧ (x.state ≠ .disabled → y.state = .stopped ∧ y.head = x.prod ∧ y.done = x.prod ∧ y.prod = x.prod ∧ y.held = []))
      ∧ (∀ c, let x := s.dev.ctx c
          let y := t.dev.ctx c
          (x.state = .free → y = x) ∧ (x.state ≠ .free → y.state = .stopped ∧ y.park = none ∧ y.saved = false))
      ∧ t.dev.rs.run = some { r with drained := true } ∧ t.dev.lt = s.dev.lt ∧ t.dev.pw = s.dev.pw ∧ t.dev.fl = s.dev.fl
      ∧ t.sec = { s.sec with nonce := Config.bootNonce s.sec.nonces, nonces := s.sec.nonces + 1, seq := 0 }

end Sys2Proof

namespace Sys2Proof

/-- After the drained device reset, the control partition is started if the digest of the bundle fetched again is the one kept; otherwise
FMW_LOAD_STATUS reads IDLE. The reset is over either way (R464, R470). -/
def ControlPartitionRestarted : Prop :=
  ∀ (v : BundleVerdict) (s : State) (r : Resetting), s.dev.rs.run = some r → r.drained = true →
    let good := v ≠ .hostError ∧ s.dev.hq.bundleLen ≠ 0
      ∧ Config.sha512 (s.dev.hostRead s.dev.hq.bundleAddr s.dev.hq.bundleLen) = s.dev.hq.digest
    ∃ t, exec (.controlPartitionRestart v) s = .next t ∧ t.dev.rs.run = none ∧ t.dev.rs.doneLt = s.dev.lt
      ∧ (good → t.dev.hq.ctrlRun = true ∧ t.dev.hq.load = .running ∧ t.dev.hq.owed = [])
      ∧ (¬ good → t.dev.hq.ctrlRun = false ∧ t.dev.hq.load = .idle ∧ t.dev.hq.owed = s.dev.hq.owed)
      ∧ t.dev.gr = s.dev.gr ∧ t.dev.fab = s.dev.fab ∧ t.dev.mm.lines = s.dev.mm.lines ∧ t.dev.regs = s.dev.regs ∧ t.sec = s.sec
      ∧ t.pending = s.pending

end Sys2Proof

/-- A device reset in its three phases. -/
def Obligations.DeviceReset : Prop := DeviceResetAccepted ∧ DrainWindowEndResetsDie ∧ ControlPartitionRestarted

/-- A cold reset leaves every set-up register, queue, context, core and cache line at its reset value and LT at 0, and keeps what the package
record holds, and what the ports have put out already; by RST_CMD over MCTP, by the fundamental reset signal, by loss of power (R39, R453, R456, R459, R489, R493). -/
def Obligations.ColdResetRestoresResetValues : Prop :=
  ∀ (s : State),
    let cold (o : Host.Outcome State Fault Refusal) : Prop := ∃ t, o = .next t
      ∧ t.dev.lt = 0 ∧ t.dev.regs = [] ∧ t.dev.wide = [] ∧ t.dev.ctr = [] ∧ t.dev.dom = 2 ^ 94 ∧ t.dev.hq = State.reset.dev.hq
      ∧ t.dev.mm = State.reset.dev.mm ∧ t.dev.gr = State.reset.dev.gr
      ∧ t.dev.fab = { State.reset.dev.fab with wire := t.dev.fab.wire, laneOut := t.dev.fab.laneOut } ∧ t.dev.col = State.reset.dev.col
      ∧ t.dev.upd = State.reset.dev.upd ∧ t.dev.pw.ctl = Pwr.cold.ctl ∧ t.dev.pw.pstate = 0 ∧ t.dev.rs.stage = 0 ∧ t.dev.rs.level = 6
      ∧ t.dev.fl.cur = s.dev.fl.cur ∧ t.dev.fl.older = s.dev.fl.older ∧ t.dev.fl.factory = s.dev.fl.factory ∧ t.dev.env.host = s.dev.env.host
      ∧ t.sec.lic = 0 ∧ t.sec.slots = s.sec.slots ∧ t.sec.keys = s.sec.keys ∧ t.pending = s.pending
    (s.dev.serves .mctp 0x160004 = true → s.dev.resetting = false → cold (exec (.coldReset .mctp) s))
      ∧ cold (exec (.perstN false) s) ∧ (∀ aon, cold (exec (.railLoss aon) s))

/-- The fundamental reset signal released and the thermal comparator change the pin they report and nothing else; REFCLK lost is told to the
management port too (R40, R492, R493). -/
def Obligations.PinEvents : Prop :=
  ∀ (s : State),
    exec (.perstN true) s = .next { s with dev := { s.dev with rs := { s.dev.rs with perst := true } } }
      ∧ exec .refclkLoss s = .next { s with dev := { s.dev with rs := { s.dev.rs with refclk := false }, mc := { s.dev.mc with clockLost := true } } }
      ∧ exec .thermtrip s
          = .next { s with dev := { s.dev with pw := { s.dev.pw with th := { s.dev.pw.th with thermtrip := true } } } }

namespace Sys2Proof

/-- The boot of a part that is held in cold reset with PERST_N released: LT starts at 0, the stage and error of R463, RECORD_OK, the training mode
TRAIN_SEL selects, MGMT_ADDR, no licences, keys or retired units in force without a record that verifies, the older copy where the newest does not verify,
a fresh BOOT_NONCE with GATE_SEQ 0, and the features of the valid licences in force (R462, R463, R465, R471, R472, R474, R476, R492). -/
def BootRecordsStageAndError : Prop :=
  ∀ (b : Boot) (s : State), s.dev.rs.stage = 0 → s.dev.rs.perst = true → ∃ t, exec (.powerOn b) s = .next t
    ∧ t.dev.lt = 0 ∧ t.dev.rs.stage = (if b.pll then 6 else 4)
    ∧ t.dev.rs.error = (if b.pll = false then 4 else if b.record = .absent then 1 else if b.record = .bad then 2
        else if b.puf = false then 3 else 0)
    ∧ t.dev.rs.recordOk = decide (b.record = .good ∨ b.record = .older) ∧ t.dev.rs.strap = b.strap.val ∧ t.dev.mc.addr = b.addr.val
    ∧ (t.dev.reg 0x160020).toNat % 4 = (if b.record = .absent ∨ b.record = .bad then 2 else if b.strap = 3 then 1 else b.strap.val)
    ∧ (b.record = .good → t.sec.slots = s.sec.flashSlots ∧ t.sec.keys = s.sec.flashKeys)
    ∧ (b.record = .older → s.sec.wroteGen = s.dev.fl.cur.gen → t.sec.slots = s.sec.olderSlots ∧ t.sec.keys = s.sec.olderKeys)
    ∧ (b.record = .older → s.sec.wroteGen ≠ s.dev.fl.cur.gen → t.sec.slots = s.sec.flashSlots ∧ t.sec.keys = s.sec.flashKeys)
    ∧ t.sec.identity = b.puf ∧ t.sec.seq = 0 ∧ t.sec.nonce = Config.bootNonce s.sec.nonces ∧ t.sec.lic = t.sec.features
    ∧ t.dev.fl.cur = (if b.record = .older then s.dev.fl.older else s.dev.fl.cur)
    ∧ (b.record = .absent ∨ b.record = .bad →
        t.dev.fl.cores = [] ∧ t.dev.fl.noRecord = true ∧ t.sec.slots = [] ∧ t.sec.keys = [] ∧ t.sec.lic = 0)
    ∧ t.pending = s.pending

end Sys2Proof

/-- A Function Level Reset of a virtual function frees every context bound to it and disables their queues; the contexts, queues and accepted work
of other functions are not affected (R454). No collective runs, and no Drill is at work on a unit of theirs. -/
def Obligations.FunctionLevelResetFreesContexts : Prop :=
  ∀ (vf : Fin 16) (s : State), vf ≠ 0 → s.dev.pcieUp = true → s.dev.rs.run = none → s.dev.col.slots = [] → FabClear s.dev →
    let mine (c : CtxId) : Prop := (s.dev.ctx c).state ≠ .free ∧ (s.dev.ctx c).vf = vf
    (∀ (cl : Nat) (x : DXfer), x ∈ (s.dev.cluster cl).drill → x.moving = true → ¬ mine x.ctx) →
    ∃ t, exec (.functionLevelReset vf) s = .next t
      ∧ (∀ c : CtxId, mine c → (t.dev.ctx c).state = .free ∧ (t.dev.ctx c).mask = 0)
      ∧ (∀ c : CtxId, ¬ mine c → t.dev.ctx c = s.dev.ctx c)
      ∧ (∀ q : QId, mine (s.dev.queue q).ctx → (t.dev.queue q).state = .disabled ∧ (t.dev.queue q).held = [])
      ∧ (∀ q : QId, ¬ mine (s.dev.queue q).ctx → t.dev.queue q = s.dev.queue q)
      ∧ (∀ e, e ∈ t.dev.hq.infl ↔ e ∈ s.dev.hq.infl ∧ ¬ mine e.2.ctx)
      ∧ t.sec = s.sec ∧ t.pending = s.pending

namespace Sys2Proof

/-- The self test is refused with DOMAINS_OFF, ALREADY_DONE or BUSY, or runs; its end sets GLB_FP_VALID, enters the failing cores as DEFECT, counts
them and leaves no line of the stacked cache valid (R43, R468). -/
def SelfTest : Prop :=
  (∀ (v : Via) (val : Word) (s : State), s.dev.serves v 0x16002C = true → val.getLsbD 0 = true →
    let off := ∃ n, (n < 80 ∨ (88 ≤ n ∧ n ≤ 91) ∨ n = 95) ∧ s.dev.on n = false
    ∃ t, exec (.rstSelftestCmd v val) s = .next t
      ∧ t = { s with dev := { s.dev with rs := { s.dev.rs with test := t.dev.rs.test, testResult := t.dev.rs.testResult, testLt := t.dev.rs.testLt } } }
      ∧ (off → t.dev.rs.testResult = 1 ∧ t.dev.rs.test = s.dev.rs.test)
      ∧ (¬ off → s.dev.fl.valid = true → t.dev.rs.testResult = 2 ∧ t.dev.rs.test = s.dev.rs.test)
      ∧ (¬ off → s.dev.fl.valid = false → s.dev.resetting = true → t.dev.rs.testResult = 3 ∧ t.dev.rs.test = s.dev.rs.test)
      ∧ (¬ off → s.dev.fl.valid = false → s.dev.resetting = false → s.dev.rs.test ≠ 1 →
          t.dev.rs.test = 1 ∧ t.dev.rs.testResult = 0 ∧ t.dev.rs.testLt = s.dev.lt))
  ∧ (∀ (n cause : Nat) (s : State), s.dev.rs.test = 1 → s.dev.rs.run = none → n < 1296 → s.dev.coreGood n = true →
    ∃ t, exec (.selfTestEnd [(n, cause)] []) s = .next t
      ∧ t.dev.fl.valid = true ∧ t.dev.rs.test = 2 ∧ t.dev.mm.lines = [] ∧ t.dev.coreGood n = false
      ∧ t.dev.fl.defect = s.dev.fl.defect + 1 ∧ t.dev.fl.good = s.dev.fl.good - 1 ∧ t.dev.fl.retired = s.dev.fl.retired
      ∧ (∀ k, k ≠ n → Tbl.get t.dev.fl.cores k 0 = Tbl.get s.dev.fl.cores k 0)
      ∧ (∀ k, (t.dev.core k).ls = Store.zero ∧ (t.dev.core k).l1 = []))

end Sys2Proof

/-- Boot stages and errors, and the start-up self test. -/
def Obligations.BootAndSelfTest : Prop := BootRecordsStageAndError ∧ SelfTest

/-! ## The control plane (02) -/

namespace Sys2Proof

/-- Nothing but queues, contexts, host memory, messages, counters, cached translations, free values and in-flight descriptors has changed. -/
def ControlOnly (s t : State) : Prop :=
  t = { s with dev := { s.dev with hq := t.dev.hq, env := t.dev.env, ctr := t.dev.ctr, mm := t.dev.mm, mc := t.dev.mc, fresh := t.dev.fresh } }

/-- The end of a write of a firmware-emulated register: FMW_LAST. -/
def ServedAt (t : State) (off res : Nat) : Prop := t.dev.hq.lastOff = off ∧ t.dev.hq.lastRes = res

end Sys2Proof

/-- A doorbell of 32 bits at the start of its queue's page, from the function the context is bound to, on an ENABLED queue and newer than the
last, moves the producer index and nothing else while the ring is not overrun; an overrun puts the queue in ERROR with its producer index as it
was; every other doorbell only counts in HQS_CNT_DB_IGNORED (R49, R50, R52, R53). -/
def Obligations.DoorbellMovesProducer : Prop :=
  ∀ (vf : Fin 16) (q : QId) (val : Word) (s : State), s.dev.serves .pcie 0x10000 = true →
    let x := s.dev.queue q
    let page := BitVec.ofNat 24 (4096 * q.val)
    let takes := (s.dev.ctx x.ctx).state ≠ .free ∧ (s.dev.ctx x.ctx).vf = vf ∧ x.state = .enabled ∧ newer val x.prod = true
    (takes → (val - x.done).toNat ≤ 2 ^ x.log2 →
      ∃ t, exec (.doorbell vf page 32 val) s = .next t ∧ OnlyQueue s t q ∧ t.dev.queue q = { x with prod := val })
    ∧ (takes → 2 ^ x.log2 < (val - x.done).toNat → x.held = [] →
      ∃ t, exec (.doorbell vf page 32 val) s = .next t ∧ ControlOnly s t ∧ (t.dev.queue q).state = .error ∧ (t.dev.queue q).prod = x.prod
        ∧ (t.dev.queue q).done = x.done)
    ∧ (Quiet s.dev 0x10028 32 →
      (¬ takes → exec (.doorbell vf page 32 val) s = .next { s with dev := counted s.dev 0x10028 32 })
      ∧ (∀ (off : BitVec 24) (width : Nat), width ≠ 32 ∨ off.toNat % 4096 ≠ 0 →
        exec (.doorbell vf off width val) s = .next { s with dev := counted s.dev 0x10028 32 }))

/-- The register interface: an access of another width or alignment reads zero or is ignored; a read of LT's low word captures its high word, and
the read of the high word returns what was captured; a clear register clears the counters named by its bits and their SAT bits and no others; a
plain register holds what is written to its field (R11, R12, R15, R16). The reads are of LT, the clear of the HQS counters, the write of
FAB_LANE_LIMIT. -/
def Obligations.RegisterInterface : Prop :=
  ∀ (s : State),
    (∀ (off : Word) (width : Nat) (val : Word),
      exec (.bar0InvalidAccess true off width val) s = .next s
        ∧ exec (.bar0InvalidAccess false off width val) s = .next { s with dev := { s.dev with env := { s.dev.env with busRead := 0 } } })
    ∧ (s.dev.serves .pcie 0x10 = true → ∃ t u, exec (.lowWordRead 0x10) s = .next t ∧ t.dev.env.busRead = s.dev.lt % 2 ^ 32
        ∧ exec (.lowWordRead 0x14) t = .next u ∧ u.dev.env.busRead = s.dev.lt / 2 ^ 32 % 2 ^ 32
        ∧ t = { s with dev := { s.dev with env := t.dev.env, shP := t.dev.shP } }
        ∧ u = { t with dev := { t.dev with env := u.dev.env } })
    ∧ (∀ val : Word, s.dev.reaches .pcie 0x10038 = true → ∃ t, exec (.counterClear 0x10038 val) s = .next t
        ∧ t = { s with dev := { s.dev with ctr := t.dev.ctr } }
        ∧ (∀ i, i < 4 → t.dev.ctrAt (0x10020 + 4 * i) = if val.getLsbD i then ⟨0, false⟩ else s.dev.ctrAt (0x10020 + 4 * i))
        ∧ (∀ o, (∀ i, i < 4 → o ≠ 0x10020 + 4 * i) → t.dev.ctrAt o = s.dev.ctrAt o))
    ∧ (∀ val : Word, s.dev.reaches .pcie 0x80018 = true → FabClear s.dev → ∃ t, exec (.registerWrite 0x80018 val) s = .next t
        ∧ t = { s with dev := { s.dev with regs := t.dev.regs } } ∧ t.dev.reg 0x80018 = val
        ∧ (∀ o, o ≠ 0x80018 → t.dev.reg o = s.dev.reg o))

namespace Sys2Proof

/-- Admission of contract classes. A BOUND other than 0 is taken only with BUDGET + HQS_BLOCK_MAX at most BOUND and the sum over the enabled classes
of ceil(1024 · BUDGET / BOUND) at most 1,024, a BOUND of 0 only while no queue of the class is in use; a BUDGET is taken by the same tests, or
stored as it is while the class is disabled; what is not taken changes no register, sets CHECK_FAIL and names the class (R69). -/
def ClassAdmission : Prop :=
  ∀ (c : ClassId) (val : Word) (s : State), s.dev.fwRuns = true →
    let v := val.toNat % 2 ^ 24
    let d := s.dev
    let inUse := d.hq.queues.any (fun e => e.2.cls = c && (e.2.state = .enabled || e.2.state = .stopping || e.2.state = .error))
    let share (bound budget : Nat) : Nat := if bound = 0 then 0 else (1024 * budget + bound - 1) / bound
    let util (bound budget : Nat) : Nat :=
      ((List.range 16).map (fun k => if k = c.val then share bound budget else share (d.classBound k) (d.classBudget k))).sum
    let passes (bound budget : Nat) : Prop := budget + d.blockMax ≤ bound ∧ util bound budget ≤ 1024
    let done (o : Host.Outcome State Fault Refusal) (off : Nat) (ok : Prop) : Prop := ∃ t, o = .next t ∧ OnlyReg s t off
      ∧ (ok → (t.dev.reg off).toNat = v ∧ t.dev.hq.checkFail = false ∧ ServedAt t off 0 ∧ t.dev.hq.lastClass = d.hq.lastClass)
      ∧ (¬ ok → t.dev.reg off = d.reg off ∧ t.dev.hq.checkFail = true ∧ t.dev.hq.lastClass = c.val ∧ ServedAt t off 1)
    done (exec (.hqsClassBound c val) s) (0x10100 + 8 * c.val) (if v = 0 then inUse = false else passes v (d.classBudget c))
      ∧ done (exec (.hqsClassBudget c val) s) (0x10104 + 8 * c.val) (d.classBound c = 0 ∨ passes (d.classBound c) v)

end Sys2Proof

namespace Sys2Proof

/-- HQS_BLOCK_MAX is taken only from 10 to 1,000, with no descriptor accepted, and when every enabled class still has BUDGET plus the new value at
most BOUND; otherwise nothing changes (R70). -/
def BlockMaxAdmission : Prop :=
  ∀ (val : Word) (s : State), s.dev.reaches .pcie 0x10010 = true →
    let v := val.toNat % 2 ^ 11
    let ok := 10 ≤ v ∧ v ≤ 1000 ∧ s.dev.hq.infl = [] ∧ ∀ c, c < 16 → s.dev.classBound c ≠ 0 → s.dev.classBudget c + v ≤ s.dev.classBound c
    ∃ t, exec (.hqsBlockMax val) s = .next t ∧ t = { s with dev := { s.dev with regs := t.dev.regs } }
      ∧ (ok → t.dev.blockMax = v) ∧ (¬ ok → t = s) ∧ ∀ o, o ≠ 0x10010 → t.dev.reg o = s.dev.reg o

end Sys2Proof

/-- Admission of contract classes and of HQS_BLOCK_MAX. -/
def Obligations.AdmissionTests : Prop := ClassAdmission ∧ BlockMaxAdmission

/-- The mailbox: a write of a firmware-emulated register goes to its end with the selection as it stands, or is dropped and counted when 64 wait; the
oldest entry is served first, and a set-up write of a queue is taken while the queue is DISABLED or STOPPED and its fields are in range, and
refused otherwise (R89, R502). Where that empties the mailbox no descriptor is held for a stopped context, which would be evaluated again (R87). -/
def Obligations.Mailbox : Prop :=
  ∀ (val : Word) (s : State), s.dev.serves .pcie 0x1101C = true → s.dev.on 94 = true →
    let q : QId := BitVec.toFin ((s.dev.reg 0x11000).setWidth 12)
    let c : CtxId := BitVec.toFin ((s.dev.reg 0x12000).setWidth 8)
    (s.dev.hq.mail.length < 64 → exec (.feWrite 0x1101C val) s
      = .next { s with dev := { s.dev with hq := { s.dev.hq with mail := s.dev.hq.mail ++ [⟨0x1101C, val, q, c⟩] } } })
    ∧ (64 ≤ s.dev.hq.mail.length → Quiet s.dev 0x20008 32 → exec (.feWrite 0x1101C val) s = .next { s with dev := counted s.dev 0x20008 32 })
    ∧ (∀ (k : QId) (b : CtxId) (rest : List Mail), s.dev.hq.mail = ⟨0x1101C, val, k, b⟩ :: rest → s.dev.fwRuns = true →
        (rest = [] → ∀ j, (s.dev.queue j).heldFor [2] = false) →
        let ok := 6 ≤ val.toNat % 32 ∧ val.toNat % 32 ≤ 16 ∧ ((s.dev.queue k).state = .disabled ∨ (s.dev.queue k).state = .stopped)
        ∃ t, exec .mailboxService s = .next t ∧ t.dev.hq.mail = rest
          ∧ t = { s with dev := { s.dev with hq := { s.dev.hq with
              mail := rest, queues := t.dev.hq.queues, lastOff := t.dev.hq.lastOff, lastRes := t.dev.hq.lastRes } } }
          ∧ (∀ j, j ≠ k.val → t.dev.queue j = s.dev.queue j)
          ∧ (ok → (t.dev.queue k).reg 0x101C = val.toNat % 2 ^ 28 ∧ (t.dev.queue k).state = (s.dev.queue k).state ∧ ServedAt t 0x1101C 0)
          ∧ (¬ ok → t.dev.queue k = s.dev.queue k ∧ ServedAt t 0x1101C 1))

namespace Sys2Proof

/-- Queue commands. ENABLE takes a DISABLED or STOPPED queue whose set-up names an enabled class: the set-up comes into force, the kept producer
index is where reading goes on, ACCEPTED restarts at 0, and the queue reads ENABLED, or ERROR where its status block could not be written. STOP of
an ENABLED queue with nothing held and nothing unread leaves STOPPED, or STOPPING while accepted work remains. RESET_INDICES sets the indices of a
STOPPED queue to 0. A command in another state is refused and changes nothing else (R54, R279, R502). -/
def QueueCommands : Prop :=
  ∀ (q : QId) (s : State), s.dev.fwRuns = true →
    let x := s.dev.queue q
    let cfg := x.reg 0x101C
    let mayEnable := (x.state = .disabled ∨ x.state = .stopped) ∧ s.dev.classBound (cfg / 2 ^ 13 % 16) ≠ 0
    let refused (o : Host.Outcome State Fault Refusal) : Prop :=
      o = .next { s with dev := { s.dev with hq := { s.dev.hq with lastOff := 0x11024, lastRes := 1 } } }
    (mayEnable → ∃ t, exec (.enable q) s = .next t ∧ ControlOnly s t ∧ ServedAt t 0x11024 0
      ∧ (t.dev.queue q).state = (if (t.dev.queue q).stBad then .error else .enabled)
      ∧ (t.dev.queue q).prod = x.prod ∧ (t.dev.queue q).nextRead = x.prod ∧ (t.dev.queue q).head = x.prod ∧ (t.dev.queue q).done = x.done
      ∧ (t.dev.queue q).accepted = 0 ∧ (t.dev.queue q).held = [] ∧ (t.dev.queue q).log2 = cfg % 32
      ∧ (t.dev.queue q).ctx.val = cfg / 2 ^ 5 % 256 ∧ (t.dev.queue q).cls.val = cfg / 2 ^ 13 % 16 ∧ (t.dev.queue q).vec = cfg / 2 ^ 17 % 2048
      ∧ (t.dev.queue q).sq = Tbl.get x.wide 0x1008 0 ∧ (t.dev.queue q).cq = Tbl.get x.wide 0x1010 0)
    ∧ (¬ mayEnable → refused (exec (.enable q) s))
    ∧ (x.state = .enabled → x.held = [] → x.nextRead = x.prod → ∃ t, exec (.queueStop q) s = .next t ∧ ControlOnly s t ∧ ServedAt t 0x11024 0
        ∧ (t.dev.queue q).prod = x.prod ∧ (t.dev.queue q).head = x.prod
        ∧ let want := if s.dev.hq.infl.any (fun e => e.2.q = q) then QState.stopping else .stopped
          ((t.dev.queue q).state = want ∨ ((t.dev.queue q).state = .error ∧ (t.dev.queue q).stBad = true)))
    ∧ (x.state = .stopped → ∃ t, exec (.resetIndices q) s = .next t ∧ ServedAt t 0x11024 0
        ∧ t = { s with dev := { s.dev with hq := { s.dev.hq with queues := t.dev.hq.queues, lastOff := t.dev.hq.lastOff, lastRes := t.dev.hq.lastRes } } }
        ∧ t.dev.queue q = { x with prod := 0, head := 0, done := 0, nextRead := 0, ahead := [] }
        ∧ ∀ k, k ≠ q.val → t.dev.queue k = s.dev.queue k)
    ∧ (x.state ≠ .stopped → refused (exec (.resetIndices q) s))

end Sys2Proof

namespace Sys2Proof

/-- ACTIVATE binds a FREE or STOPPED context that passes the checks of R85, with its set-up in force, its token count restarted and no park; a failing
one changes nothing but FMW_LAST. STOP of a live context without a park or queues leaves STOPPED, or STOPPING while accepted work remains, and what a
pre-emption of it had stopped goes on. RELEASE of a STOPPED context frees it, disables its queues and frees its pin and fallow entries. HQS_CTX_CMD
reads the command taken last (R85 to R88, R250, R255, R281). No descriptor is held for a stopped context. -/
def ContextCommands : Prop :=
  ∀ (c : CtxId) (s : State), s.dev.fwRuns = true →
    let x := s.dev.ctx c
    let cfg := x.reg 0x2004
    let refused (o : Host.Outcome State Fault Refusal) : Prop :=
      o = .next { s with dev := { s.dev with hq := { s.dev.hq with lastOff := 0x12030, lastRes := 1 } } }
    let noneStopped := ∀ j, (s.dev.queue j).heldFor [2] = false
    (noneStopped → s.dev.mayActivate c = true →
      ∃ t, exec (.activate c) s = .next t ∧ ServedAt t 0x12030 0 ∧ (t.dev.ctx c).reg 0x2030 = 1
        ∧ (t.dev.ctx c).state = .active ∧ (t.dev.ctx c).pasid.toNat = cfg % 2 ^ 20 ∧ (t.dev.ctx c).vf.val = cfg / 2 ^ 20 % 16
        ∧ (t.dev.ctx c).exclusive = decide (cfg / 2 ^ 24 % 2 = 1) ∧ (t.dev.ctx c).mask = x.maskReg ∧ (t.dev.ctx c).token = 0
        ∧ (t.dev.ctx c).park = none ∧ (t.dev.ctx c).save = Tbl.get x.wide 0x202C 0
        ∧ (∀ k, k ≠ c.val → t.dev.ctx k = s.dev.ctx k)
        ∧ t = { s with dev := { s.dev with
            col := { s.dev.col with armed := t.dev.col.armed }
            hq := { s.dev.hq with ctxs := t.dev.hq.ctxs, lastOff := t.dev.hq.lastOff, lastRes := t.dev.hq.lastRes } } })
    ∧ (noneStopped → s.dev.mayActivate c = false → refused (exec (.activate c) s))
    ∧ (x.state.live = true → x.state ≠ .stopping → x.park = none → (∀ e ∈ s.dev.hq.queues, e.2.ctx ≠ c) → (∀ e ∈ s.dev.gr.clusters, e.2.drill = []) →
      ∃ t, exec (.contextStop c) s = .next t ∧ ControlOnly { s with dev := { s.dev with gr := t.dev.gr } } t ∧ ServedAt t 0x12030 0
        ∧ (t.dev.ctx c).state = (if s.dev.hq.infl.any (fun e => e.2.ctx = c) then .stopping else .stopped)
        ∧ (t.dev.ctx c).preemptReq = none ∧ (t.dev.ctx c).reg 0x2030 = 2
        ∧ (∀ n, t.dev.core n = if (s.dev.core n).ctx = some c then { s.dev.core n with halted := 0, forced := false } else s.dev.core n)
        ∧ (∀ k, t.dev.cluster k = if (s.dev.cluster k).ctx = some c then { s.dev.cluster k with paused := false } else s.dev.cluster k)
        ∧ (∀ k, k ≠ c.val → t.dev.ctx k = s.dev.ctx k))
    ∧ (x.state = .stopped → ∃ t, exec (.release c) s = .next t ∧ ControlOnly s t ∧ ServedAt t 0x12030 0 ∧ (t.dev.ctx c).reg 0x2030 = 3
        ∧ (t.dev.ctx c).state = .free ∧ (t.dev.ctx c).mask = 0 ∧ (t.dev.ctx c).park = none
        ∧ (∀ q : QId, (s.dev.queue q).ctx = c → (t.dev.queue q).state = .disabled)
        ∧ (∀ h, h < 2 → (t.dev.half h).pins = (s.dev.half h).pins.filter (fun e => e.2.ctx ≠ c)
            ∧ (t.dev.half h).fallow = (s.dev.half h).fallow.filter (fun e => e.2.ctx ≠ c)))
    ∧ (x.state ≠ .stopped → refused (exec (.release c) s))

end Sys2Proof

/-- The queue commands and the context commands. -/
def Obligations.QueuesAndContexts : Prop := QueueCommands ∧ ContextCommands

namespace Sys2Proof

/-- The mailbox is empty and no descriptor is held for FENCE, WAIT or a tag, so that a completion lets no held descriptor go (R60, R87). -/
def NoneHeld (d : Dev) : Prop := d.hq.mail = [] ∧ ∀ j, (d.queue j).heldFor [6, 7, 8] = false

/-- The entries of the in-flight table that are not of a tag keep their descriptors, phases and times. -/
def OthersInFlight (s t : State) (tag : Nat) : Prop :=
  ∀ k, k ≠ tag → (t.dev.work k).map (fun w => (w.q, w.idx, w.desc, w.phase, w.spent, w.since, w.cause, w.exits))
    = (s.dev.work k).map (fun w => (w.q, w.idx, w.desc, w.phase, w.spent, w.since, w.cause, w.exits))

end Sys2Proof

/-- The commands of group 0. NOP completes OK with the low word of LT in RESULT and frees its tag. RESUME_CONTEXT and ABORT_PARKED complete with status
4 when their token is not the current park's; with the right one the context leaves its park, PARKED for ACTIVE and PARKED_PREEMPTED for PREEMPTED,
and ABORT_PARKED ends a faulted descriptor that is no LAUNCH with FAULT_ABORTED (R58, R59, R86). Nothing waits in the mailbox (R87). -/
def Obligations.GroupZeroCommands : Prop :=
  ∀ (tag : Tag) (w : Work) (s : State), s.dev.work tag = some w → w.phase = .accepted → s.dev.fwRuns = true →
    let ends (o : Host.Outcome State Fault Refusal) (status : Nat) (result : Word) : Prop := ∃ t, o = .next t ∧ ControlOnly s t
      ∧ t.dev = s.dev.completeWork tag status result ∧ t.dev.work tag = none ∧ OthersInFlight s t tag
    let left (t : State) : Prop := (t.dev.ctx w.ctx).park = none
      ∧ (t.dev.ctx w.ctx).state = (if (s.dev.ctx w.ctx).state = .parked then .active else .preempted)
    (dOp w.desc = 0 → NoneHeld s.dev → ends (exec (.nop tag) s) 0 (BitVec.ofNat 32 s.dev.lt))
    ∧ (dOp w.desc = 1 → s.dev.parkOf w = none → NoneHeld s.dev → ends (exec (.resumeContext tag) s) 4 0)
    ∧ (dOp w.desc = 2 → s.dev.parkOf w = none → NoneHeld s.dev → ends (exec (.abortParked tag) s) 4 0)
    ∧ (dOp w.desc = 1 → s.dev.hq.mail = [] → ∀ p, s.dev.parkOf w = some p → ∃ t, exec (.resumeContext tag) s = .next t ∧ left t)
    ∧ (dOp w.desc = 2 → s.dev.hq.mail = [] → ∀ p f v, s.dev.parkOf w = some p → p.tag = some f → f ≠ tag → s.dev.work f = some v → dOp v.desc ≠ 0x100 →
        Tbl.Sorted s.dev.hq.infl →
        ∃ t, exec (.abortParked tag) s = .next t ∧ left t ∧ (t.dev.work f).map (·.phase) = some (.finished 7 0))

namespace Sys2Proof

/-- The conditions of R60 for a descriptor of a queue, in the rule's order. -/
def Acceptable (d : Dev) (q : QId) (idx : Word) (x : Rec64) : Prop :=
  let y := d.queue q
  let c := (d.ctx y.ctx).state
  (0x100 ≤ dOp x → c = .active ∨ c = .preempted)
    ∧ d.hq.load ≠ .updatePaused ∧ d.pw.trans = none ∧ (d.hq.load = .updateWaiting → dCost x + 2000 ≤ d.classBound y.cls)
    ∧ (dFence x = true → y.done = idx) ∧ (dWaitEn x = true → newer (d.queue (dWaitQueue x)).done (dWaitIndex x) = true)
    ∧ d.hq.infl.length < 16384 ∧ d.classInflight y.cls + dCost x ≤ d.classBudget y.cls

/-- A descriptor of a queue has been accepted now, under the lowest free tag (R63). -/
def AcceptedNow (s t : State) (q : QId) (h : Held) : Prop :=
  ∃ w, t.dev.work (freeTag s.dev.hq.infl 0) = some w ∧ w.q = q ∧ w.idx = h.idx ∧ w.desc = h.desc ∧ w.ctx = (s.dev.queue q).ctx
    ∧ w.cls = (s.dev.queue q).cls ∧ w.phase = .accepted ∧ w.acceptedLt = s.dev.lt ∧ w.wasHeld = h.wasHeld

end Sys2Proof

/-- A descriptor read from its ring with nothing held before it is completed at once and takes no tag, or is accepted with the lowest free tag, its
deadline and its class's bound, or is held with the first failing condition in HOLD_REASON and its index in HOLD_INDEX and SQ_HEAD (R57, R60, R61,
R63, R83). One whose ring slot is translated to host memory, that no check of R57 or R61 completes and that meets every condition of R60, is
accepted, be it as it arrives or as budget is freed. In a context that is not EXCLUSIVE, for a descriptor that is no collective, the bound runs from
acceptance (R64). Budget freed re-evaluates the queues of the class held for it, in ascending order from after the queue that last received budget,
wrapping (R62). Nothing waits in the mailbox, which goes first (R87). -/
def Obligations.DescriptorArrives : Prop :=
  (∀ (q : QId) (s : State) (d : Dev) (r : Rec64),
    let x := s.dev.queue q
    x.state = .enabled → x.held = [] → x.nextRead ≠ x.prod → x.sqBad = false → s.dev.fwRuns = true → s.dev.hq.mail = [] →
    s.dev.fetchDesc q = .ok d r →
    let tag := freeTag s.dev.hq.infl 0
    let outcome := d.atOnce s.sec.lic q r
    let why := d.holdReason q ⟨x.nextRead, r, false, 0⟩
    ∃ t, exec (.descriptorArrival q) s = .next t ∧ (t.dev.queue q).nextRead = x.nextRead + 1 ∧ t.dev.gr = s.dev.gr ∧ t.dev.regs = s.dev.regs
      ∧ (outcome ≠ none → t.dev.hq.infl = s.dev.hq.infl)
      ∧ (outcome = none → why = 0 → ∃ w, t.dev.work tag = some w ∧ w.q = q ∧ w.idx = x.nextRead ∧ w.desc = r ∧ w.ctx = x.ctx ∧ w.cls = x.cls
          ∧ w.phase = .accepted ∧ w.acceptedLt = s.dev.lt ∧ w.bound = s.dev.classBound x.cls ∧ w.lic = s.sec.lic
          ∧ ((s.dev.ctx x.ctx).exclusive = false → isCollective (dOp r) = false → w.deadline = some (s.dev.lt + 100 * s.dev.classBound x.cls))
          ∧ ∀ k, k ≠ tag → t.dev.work k = s.dev.work k)
      ∧ (outcome = none → why ≠ 0 → t.dev.hq.infl = s.dev.hq.infl
          ∧ (((t.dev.queue q).held.map (·.desc) = [r] ∧ (t.dev.queue q).reason = why ∧ (t.dev.queue q).holdIdx = x.nextRead
                ∧ (t.dev.queue q).head = x.nextRead)
              ∨ ((t.dev.queue q).state = .error ∧ (t.dev.queue q).stBad = true))))
  ∧ (∀ (q : QId) (s : State) (d : Dev) (a : Nat),
    let x := s.dev.queue q
    x.state = .enabled → x.held = [] → x.nextRead ≠ x.prod → x.sqBad = false → s.dev.fwRuns = true → s.dev.hq.mail = [] →
    s.dev.xlate x.ctx none .front (some (.queue q 1)) (x.sq + x.nextRead.toNat % 2 ^ x.log2 * 64) false = (d, .host a) →
    let r := recOf (s.dev.hostRead a 64)
    s.dev.atOnce s.sec.lic q r = none → Acceptable s.dev q x.nextRead r →
    ∃ t, exec (.descriptorArrival q) s = .next t ∧ AcceptedNow s t q ⟨x.nextRead, r, false, 0⟩ ∧ (t.dev.queue q).nextRead = x.nextRead + 1
      ∧ (t.dev.queue q).head = x.nextRead + 1 ∧ (t.dev.queue q).held = [])
  ∧ (∀ (c : ClassId) (q : QId) (h : Held) (s : State),
    let x := s.dev.queue q
    s.dev.fwRuns = true → s.dev.hq.mail = [] → (q.val, x) ∈ s.dev.hq.queues → x.cls = c → x.reason = 9 →
    (∀ e ∈ s.dev.hq.queues, e.2.cls = c → e.2.reason = 9 → e.1 = q.val) → x.state = .enabled → x.held = [h] →
    s.dev.atOnce s.sec.lic q h.desc = none → Acceptable s.dev q h.idx h.desc →
    ∃ t, exec (.heldReevaluation c) s = .next t ∧ AcceptedNow s t q h ∧ (t.dev.queue q).held = [] ∧ (t.dev.queue q).reason = 0
      ∧ (t.dev.queue q).head = x.nextRead)
  ∧ (∀ (c : ClassId) (s : State), s.dev.fwRuns = true → s.dev.hq.mail = [] →
      let order := s.dev.budgetOrder c
      exec (.heldReevaluation c) s = .next { s with dev := order.foldl (fun d q => d.evalQueue s.sec.lic q) s.dev }
        ∧ (∀ q : QId, q ∈ order ↔ ∃ e ∈ s.dev.hq.queues, e.1 = q.val ∧ e.2.cls = c ∧ e.2.reason = 9)
        ∧ (∀ l, Tbl.find s.dev.hq.lastQ c.val = some l → ∃ a b, order = a ++ b ∧ (∀ q ∈ a, l < q.val) ∧ (∀ q ∈ b, q.val ≤ l)))

/-- The work dispatched is ready, no ready work has an earlier deadline, a tie going to the lower queue number and then to the older index; a descriptor of the Drills, the ranges or the granary is marked
dispatched from now, and nothing else changes (R65). A LAUNCH is dispatched onto every core of its entries, each stage context READY at its entry
offset and stage 0 of each stream ACTIVE, with core tokens, accumulators, registers and tile buffers at 0 (R102, R131, R189). -/
def Obligations.DispatchEarliestDeadline : Prop :=
  ∀ (k : Nat) (w : Work) (s : State), s.dev.fwRuns = true → FabClear s.dev → s.dev.nextWork = some (k, w) → k < 16384 →
    ((k, w) ∈ s.dev.hq.infl ∧ s.dev.fits w = true ∧ ∀ e ∈ s.dev.hq.infl, s.dev.fits e.2 = true → w.orderLt ≤ e.2.orderLt
        ∧ (w.orderLt = e.2.orderLt → w.q ≤ e.2.q)
        ∧ (w.orderLt = e.2.orderLt → w.q = e.2.q →
            (∃ base : Word, ∀ f ∈ s.dev.hq.infl, f.2.q = w.q → (f.2.idx - base).toNat < 2 ^ 31) → newer w.idx e.2.idx = false))
    ∧ (dOp w.desc < 0x600 → dOp w.desc ≠ 0x100 → ∃ t, exec .dispatch s = .next t
        ∧ t = { s with dev := { s.dev with hq := { s.dev.hq with infl := t.dev.hq.infl }, upd := { s.dev.upd with jobs := t.dev.upd.jobs } } }
        ∧ t.dev.work k = some { w with phase := .dispatched, since := some s.dev.lt } ∧ ∀ j, j ≠ k → t.dev.work j = s.dev.work j)
    ∧ (dOp w.desc = 0x100 → s.dev.entriesStatus w.entries = 0 → (w.entries.map (·.core)).Nodup →
        (∃ e ∈ w.entries, ∃ b n pc pcs rest, e.streams = (b, n, pc :: pcs) :: rest) →
        ∃ t, exec .dispatch s = .next t ∧ t.dev.work k = some { w with phase := .dispatched, since := some s.dev.lt }
          ∧ (∀ e ∈ w.entries, let c := t.dev.core e.core
              c.ctx = some w.ctx ∧ c.tag.map (·.val) = some k ∧ c.ways = e.ways ∧ c.tok = [] ∧ c.acc = [] ∧ c.v = [] ∧ c.t = [] ∧ c.sets = [] ∧ c.l1 = []
                ∧ c.hopOpen = true
                ∧ (∀ q i b n pcs pc, e.streams[q]? = some (b, n, pcs) → q < 3 → i < 8 → pcs[i]? = some pc →
                    let st := c.stage (8 * q + i)
                    st.state = (if i = 0 then .active else .ready) ∧ st.pc = BitVec.ofNat 32 pc ∧ st.regs = [] ∧ st.base = b ∧ st.len = n))
          ∧ (∀ n, (∀ e ∈ w.entries, e.core ≠ n) → t.dev.core n = s.dev.core n))

/-- Finished work that is no collective gives up its tag when its record is written, in a hand-off pause too, and other accepted work stays (R63, R68,
R93), but what a retirement ended waits for the pause to end (R438); the host need not first be asked for the record's page (R277). Work of OVERRUN_CONTINUE whose dispatched time has reached COST goes on without
a deadline, its promise broken; other work of the Drills, ranges or granary stops with status 6, a transfer that is at work on a unit at the unit's
boundary (R71, R154). Either overrun is recorded as the work's cause unless it has one (R76). A deadline that has passed breaks the promise of work
that is bound to no port that retrains, once (R77). -/
def Obligations.CompletionCostDeadline : Prop :=
  ∀ (tag : Tag) (w : Work) (s : State), s.dev.work tag = some w → s.dev.slotOf tag = none → FabClear s.dev →
    (∀ st res, w.phase = .finished st res → s.dev.recordsOut st = true → NoneHeld s.dev → ((s.dev.giveBack tag).recordReady w.q w.idx).2 = true →
      ∃ t, exec (.descriptorComplete tag) s = .next t ∧ t.dev.work tag = none ∧ OthersInFlight s t tag ∧ t.dev.gr = s.dev.gr
        ∧ t.dev.regs = s.dev.regs ∧ t.dev.fab = s.dev.fab)
    ∧ (∀ res, w.phase = .finished 9 res → s.dev.hq.load = .updatePaused → exec (.descriptorComplete tag) s = .next s)
    ∧ (s.dev.costReached w = true → isCollective (dOp w.desc) = false → dOverrun w.desc = true → w.broken = false → w.boundLt = some w.acceptedLt →
        s.dev.lt ≤ w.acceptedLt + 100 * w.bound →
      ∃ t v, exec (.costExceeded tag) s = .next t ∧ t.dev.work tag = some v ∧ v.noDeadline = true ∧ v.broken = true ∧ v.phase = .dispatched
        ∧ v.cause = (if w.cause = 0 then 1 else w.cause) ∧ OthersInFlight s t tag ∧ t.dev.gr = s.dev.gr)
    ∧ (s.dev.costReached w = true → isCollective (dOp w.desc) = false → dOverrun w.desc = false → dOp w.desc ≠ 0x100 →
      let moves := ∃ e ∈ s.dev.gr.clusters, ∃ x ∈ e.2.drill, x.tag = some tag ∧ x.moving = true
      ∃ t v, exec (.costExceeded tag) s = .next t ∧ t.dev.work tag = some v ∧ OthersInFlight s t tag ∧ t.dev.gr.cores = s.dev.gr.cores
        ∧ (w.cause = 0 → s.dev.lt ≤ w.deadline.getD s.dev.lt → v.cause = 1 ∧ v.detail = 1)
        ∧ (¬ moves → v.phase = .finished 6 0 ∧ ∀ c, ∀ x ∈ (t.dev.cluster c).drill, x.tag ≠ some tag)
        ∧ (moves → v.phase = .dispatched ∧ v.stopping = true ∧ ∀ c, ∀ x ∈ (t.dev.cluster c).drill, x.tag = some tag → x.stop = some 6))
    ∧ (∀ due, w.deadline = some due → due < s.dev.lt → w.noDeadline = false → (∀ e ∈ s.dev.upd.jobs, e.1 ≠ tag.val) →
      ∃ t v, exec (.deadlinePassed tag) s = .next t ∧ t.dev.work tag = some v ∧ v = { w with broken := true } ∧ OthersInFlight s t tag
        ∧ t.dev.gr = s.dev.gr ∧ (w.broken = true → t = s))

/-- A pre-emption of a context whose streams have all stopped and whose operations are complete saves it, and it reads PREEMPTED with its cores empty;
while something runs it is requested, the sequencers that are stalled or have no stage to run stop at once, and the others go on to their next
tile boundary; an EXCLUSIVE context is never pre-empted. HQS_BLOCK_MAX after the request the streams that still run stop where they are and one
forced pre-emption is counted; where the save region cannot take the save the request is withdrawn. A restore of a context without a save region
makes it ACTIVE (R72, R73, R74, R126, R127). -/
def Obligations.PreemptionAndRestore : Prop :=
  ∀ (c : CtxId) (s : State),
    let x := s.dev.ctx c
    (x.exclusive = true → exec (.preemption c) s = .next s)
    ∧ (s.dev.fwRuns = true → x.exclusive = false → x.saved = false → x.state = .active → x.park = none → s.dev.canSave c = true →
        Tbl.Sorted s.dev.gr.cores →
        (s.dev.allStopped c = false → ∃ t, exec (.preemption c) s = .next t
          ∧ t = { s with dev := { s.dev with hq := { s.dev.hq with ctxs := t.dev.hq.ctxs }, gr := { s.dev.gr with cores := t.dev.gr.cores } } }
          ∧ t.dev.ctx c = { x with preemptReq := if x.preemptReq.isSome then x.preemptReq else some s.dev.lt }
          ∧ (∀ n, t.dev.core n = { s.dev.core n with halted := (t.dev.core n).halted } ∧ (n ∉ s.dev.coresOfCtx c → t.dev.core n = s.dev.core n)
              ∧ (n ∈ s.dev.coresOfCtx c → (s.dev.core n).tag.isSome = true → ∀ q, q < 3 →
                (t.dev.core n).halted.testBit q = ((s.dev.core n).halted.testBit q || (s.dev.core n).seqStopped q)))
          ∧ ∀ k, k ≠ c.val → t.dev.ctx k = s.dev.ctx k)
        ∧ (s.dev.allStopped c = true → (∀ n ∈ s.dev.coresOfCtx c, (s.dev.core n).lsBad 0 ((s.dev.core n).ways * 32768) = false) → ∃ t, exec (.preemption c) s = .next t ∧ (t.dev.ctx c).state = .preempted ∧ (t.dev.ctx c).saved = true
            ∧ (t.dev.ctx c).preemptReq = none
            ∧ (∀ n ∈ s.dev.coresOfCtx c, (t.dev.core n).ctx = none ∧ (t.dev.core n).stages = [] ∧ (t.dev.core n).tok = []
                ∧ (t.dev.core n).acc = [] ∧ (t.dev.core n).imaged = true)
            ∧ (∀ n, n ∉ s.dev.coresOfCtx c → t.dev.core n = s.dev.core n)
            ∧ t.dev.regs = s.dev.regs ∧ t.dev.fab = s.dev.fab ∧ t.sec = s.sec))
    ∧ (∀ r, x.preemptReq = some r → r + 100 * s.dev.blockMax ≤ s.dev.lt → Tbl.Sorted s.dev.gr.cores →
        (s.dev.streamsStopped c = true → exec (.preemptionTimeout c) s = .next s)
        ∧ (s.dev.streamsStopped c = false → s.dev.canSave c = true →
            ((∃ n ∈ s.dev.coresOfCtx c, (s.dev.core n).fops ≠ []) ∨ ∃ k ∈ clustersOf x.mask, s.dev.drillAtRest c k = false) →
          ∃ t, exec (.preemptionTimeout c) s = .next t ∧ (t.dev.ctx c).preemptReq = some r
            ∧ (∀ n, n ∈ s.dev.coresOfCtx c → (s.dev.core n).tag.isSome = true → (∃ q, q < 3 ∧ (s.dev.core n).seqStopped q = false) →
                (t.dev.core n).halted = 7 ∧ (t.dev.core n).forced = true)
            ∧ (t.dev.ctrAt 0x1002C).val = satAdd 32 (s.dev.ctrAt 0x1002C).val 1)
        ∧ (s.dev.streamsStopped c = false → s.dev.canSave c = false →
          ∃ t, exec (.preemptionTimeout c) s = .next t ∧ (t.dev.ctx c).preemptReq = none ∧ (t.dev.ctx c).withheld = true
            ∧ (t.dev.ctrAt 0x1002C).val = satAdd 32 (s.dev.ctrAt 0x1002C).val 1))
    ∧ (s.dev.mayRestore c = true → x.mask = 0 → x.retiredSaved = [] → s.dev.coresOfCtx c = [] → x.wants = [] → s.dev.hq.mail = [] →
        (∀ e ∈ s.dev.hq.queues, e.2.ctx = c → e.2.state ≠ .enabled) →
        ∃ t, exec (.restore c) s = .next t ∧ (t.dev.ctx c).saved = false ∧ (x.state = .preempted → (t.dev.ctx c).state = .active)
          ∧ (x.state = .stopping → (t.dev.ctx c).state = .stopping) ∧ t.dev.gr = s.dev.gr ∧ t.dev.mm = s.dev.mm)

/-- The bundle of a LAUNCH is read and checked before any core starts: one that cannot be read in full parks the context, one that breaks the layout
parks it with BAD_BUNDLE, an entry on a core that is not GOOD ends the LAUNCH with UNIT_RETIRED and one in a gated cluster with UNREACHABLE, and a
good one is checked with its entries and its argument block kept; no core is changed but for the trap word of a park (R27, R98 to R100). -/
def Obligations.LaunchIsChecked : Prop :=
  ∀ (tag : Tag) (w : Work) (s : State), s.dev.work tag = some w → dOp w.desc = 0x100 → w.phase = .accepted → s.dev.fwRuns = true →
    (s.dev.ctx w.ctx).state = .active →
    let runs (t : State) (d : Dev) : Prop := ∀ n, t.dev.core n = { d.core n with trap := (t.dev.core n).trap }
    (∀ d f a, s.dev.readBundle tag w = .fault d f a → ∃ t, exec (.launch tag) s = .next t ∧ runs t d
      ∧ ((d.ctx w.ctx).state = .active → (t.dev.ctx w.ctx).state = .parked ∧ ∃ p, (t.dev.ctx w.ctx).park = some p ∧ p.cause = f.cause ∧ p.tag = some tag))
    ∧ (∀ d, s.dev.readBundle tag w = .bad d → ∃ t, exec (.launch tag) s = .next t ∧ runs t d
      ∧ ((d.ctx w.ctx).state = .active → (t.dev.ctx w.ctx).state = .parked ∧ ∃ p, (t.dev.ctx w.ctx).park = some p ∧ p.cause = 9 ∧ p.tag = some tag))
    ∧ (∀ d es args v, s.dev.readBundle tag w = .ok d (es, args) → d.work tag = some v → v.unreachable = false →
      ∃ t, exec (.launch tag) s = .next t ∧ t.dev.gr = d.gr ∧
        let v' := { v with entries := es, args := args }
        (d.entriesStatus es = 0 → t.dev.work tag = some { v' with phase := .checked })
        ∧ (d.entriesStatus es = 9 → (t.dev.work tag).map (·.phase) = some (.finished 9 0))
        ∧ (d.entriesStatus es = 10 → (t.dev.work tag).map (·.phase) = some (.finished 10 0)))

namespace Sys2Proof

/-- Event rings and the timed writes. The write of the device event ring's base sets it up from slot 0 and lets writes resume; a waiting record is
written to the next slot while one is free, and waits on a full ring; a queue's coalesced interrupt goes out COAL_US after the first record; a
deferred message of an event ring goes out when its 2 µs are over; the status block of an active queue is written at most once a µs (R81, R83, R84,
R443). Which queues are active is the model's choice (log 51). -/
def EventRingsAndTimers : Prop :=
  ∀ (s : State),
    (∀ val : Word, s.dev.reaches .pcie 0x13004 = true → s.dev.hq.devRing.waiting = [] → ∃ t, exec (.hqsDevEvqHi val) s = .next t
      ∧ t = { s with dev := { s.dev with hq := { s.dev.hq with devRing := t.dev.hq.devRing }, regs := t.dev.regs, wide := t.dev.wide } }
      ∧ t.dev.hq.devRing = { s.dev.hq.devRing with
          isSet := true, base := (s.dev.reg 0x13000).toNat + 2 ^ 32 * val.toNat, log2 := (s.dev.reg 0x13008).toNat % 32
          vec := (s.dev.reg 0x13008).toNat / 32 % 2048, headAddr := s.dev.wide64 0x13010, headSeen := 0, widx := 0, stopped := false }
      ∧ (∀ o, o ≠ 0x13004 → t.dev.reg o = s.dev.reg o ∧ t.dev.wide64 o = s.dev.wide64 o))
    ∧ (∀ n rcd, let r := s.dev.hq.devRing
        s.dev.on 94 = true → r.isSet = true → r.stopped = false → r.waiting = [(n, rcd)] → (∀ a, s.dev.hostDead a = false) →
        let seen := BitVec.ofNat 32 (s.dev.hostNat r.headAddr 4)
        let room (w : Word) : Nat := 2 ^ r.log2 - (r.widx - w).toNat
        ((1 < room r.headSeen ∨ 0 < room seen) → ∃ t, exec (.waitingRecordWrite none) s = .next t ∧ t.dev.hq.devRing.waiting = []
            ∧ t.dev.hq.devRing.widx = r.widx + 1 ∧ t.dev.hq.devRing.posted = r.posted
            ∧ t.dev.hostRead r.slot 64 = bytesOf 64 (evFinish rcd (n - r.written) (phaseOf r.widx r.log2))
            ∧ (∀ a, a < r.slot ∨ r.slot + 64 ≤ a → Mem.byte t.dev.env.host a = Mem.byte s.dev.env.host a))
          ∧ (room r.headSeen ≤ 1 → room seen = 0 → exec (.waitingRecordWrite none) s
              = .next { s with dev := { s.dev with hq := { s.dev.hq with devRing := { r with headSeen := seen } } } }))
    ∧ (∀ (c : CtxId) n rcd, (s.dev.ctx c).noRing = false → s.dev.on 94 = true → (s.dev.ctx c).ring.waiting = [(n, rcd)] →
        ∀ d, s.dev.ctxWrite c n rcd = (d, .done) →
        exec (.waitingRecordWrite (some c)) s = .next { s with dev := d.setRing c { (d.ctx c).ring with waiting := [] } })
    ∧ (∀ (q : QId), let x := s.dev.queue q
        (∀ first, x.coalStart = some first → x.coalUs ≠ 0 → first + 100 * x.coalUs ≤ s.dev.lt → ∃ t, exec (.coalescingTimer q) s = .next t
          ∧ t.dev.env.msix = s.dev.env.msix ++ [x.vec] ∧ t.dev.queue q = { x with coalN := 0, coalStart := none }
          ∧ (∀ k, k ≠ q.val → t.dev.queue k = s.dev.queue k)
          ∧ t = { s with dev := { s.dev with env := { s.dev.env with msix := t.dev.env.msix }, hq := { s.dev.hq with queues := t.dev.hq.queues } } })
        ∧ (x.coalStart = none → exec (.coalescingTimer q) s = .next s)
        ∧ (∀ last, x.stLt = some last → s.dev.lt < last + 100 → exec (.statusBlockWrite q) s = .next s)
        ∧ (x.state = .disabled ∨ x.state = .stopped → exec (.statusBlockWrite q) s = .next s)
        ∧ (∀ d, (x.stLt = none ∨ ∃ last, x.stLt = some last ∧ last + 100 ≤ s.dev.lt) → x.state ≠ .disabled → x.state ≠ .stopped → x.stBad = false →
            s.dev.on 94 = true → s.dev.frontWrite x.ctx (.queue q 3) x.st (x.statusBytes s.dev.lt) = .ok d () → ∃ t, exec (.statusBlockWrite q) s = .next t
              ∧ t = { s with dev := { d with hq := { d.hq with queues := t.dev.hq.queues } } }
              ∧ t.dev.queue q = { d.queue q with stLt := some d.lt }))
    ∧ (∀ last, let r := s.dev.hq.devRing
        r.lastMsg = some last → r.msgDue = true →
        (last + 200 ≤ s.dev.lt → exec (.eventInterruptInterval none) s = .next { s with dev := { s.dev with
            hq := { s.dev.hq with devRing := { r with lastMsg := some s.dev.lt, msgDue := false } }
            env := { s.dev.env with msix := s.dev.env.msix ++ [r.vec] } } })
          ∧ (s.dev.lt < last + 200 → exec (.eventInterruptInterval none) s = .next s))

end Sys2Proof

namespace Sys2Proof

/-- Firmware load and update. LOAD starts a fetch only while no control partition runs and the state is IDLE or a rejection, UPDATE only while one runs
and nothing is in progress. A bundle that is in is verified; the end of that gives RUNNING with the header's version for a LOAD, or the rejection,
and UPDATE_WAITING for an UPDATE. The pause begins only with 2,000 µs of slack in all undispatched work and before the deferral limit, which gives
state 9; a new image ready within 1,500 µs runs, otherwise the old one is rolled back to, state 8 (R91, R92, R93). No descriptor is held and the
mailbox is empty. -/
def FirmwareLoadAndUpdate : Prop :=
  ∀ (s : State), let h := s.dev.hq
    let idle := h.load = .idle ∨ h.load = .rejectSignature ∨ h.load = .rejectFormat ∨ h.load = .rejectFetch
    let busy := h.load = .fetching ∨ h.load = .verifying ∨ h.load = .updateWaiting ∨ h.load = .updatePaused
    let fetch (u : Bool) : Host.Outcome State Fault Refusal := .next { s with dev := { s.dev with hq := { h with
      load := .fetching, updating := u, fetchAddr := s.dev.wide64 0x20104, fetchLen := (s.dev.reg 0x20108).toNat % 2 ^ 27 } } }
    let loaded (l : LoadState) : Host.Outcome State Fault Refusal := .next { s with dev := { s.dev with hq := { h with load := l } } }
    let noneHeld := h.mail = [] ∧ ∀ e ∈ h.queues, e.2.held = [] ∧ e.2.reason = 0
    let limit := h.waitLt + 100000 * ((s.dev.reg 0x20114).toNat % 2 ^ 16)
    (s.dev.reaches .pcie 0x2010C = true →
      (h.ctrlRun = false → idle → exec .load s = fetch false) ∧ ((h.ctrlRun = true ∨ ¬ idle) → exec .load s = .next s)
        ∧ (h.ctrlRun = true → ¬ busy → exec .update s = fetch true) ∧ ((h.ctrlRun = false ∨ busy) → exec .update s = .next s))
    ∧ (h.load = .fetching → exec (.bundleFetchDone .hostError) s = loaded .rejectFetch ∧ exec (.bundleFetchDone .fetched) s = loaded .verifying)
    ∧ (h.load = .fetching ∨ h.load = .verifying →
        exec (.bundleFetchDone .badFormat) s = loaded .rejectFormat
        ∧ (h.fetchLen ≤ 2 ^ 26 → exec (.bundleFetchDone .badSignature) s = loaded .rejectSignature)
        ∧ (∀ v, 2 ^ 26 < h.fetchLen → exec (.bundleFetchDone (.good v)) s = loaded .rejectFormat)
        ∧ (∀ v, h.fetchLen ≤ 2 ^ 26 → h.updating = true → exec (.bundleFetchDone (.good v)) s
            = .next { s with dev := { s.dev with hq := { h with load := .updateWaiting, newVersion := v, waitLt := s.dev.lt } } })
        ∧ (∀ v, h.fetchLen ≤ 2 ^ 26 → h.updating = false → ∃ t, exec (.bundleFetchDone (.good v)) s = .next t ∧ t.dev.hq.load = .running
            ∧ t.dev.hq.ctrlRun = true ∧ t.dev.hq.mgmtRun = true ∧ t.dev.hq.version = v ∧ t.dev.hq.bundleAddr = h.fetchAddr
            ∧ t.dev.hq.bundleLen = h.fetchLen ∧ t.dev.hq.owed = [] ∧ t.dev.hq.infl = h.infl ∧ t.dev.gr = s.dev.gr ∧ t.dev.regs = s.dev.regs))
    ∧ (h.load = .updateWaiting →
        (limit ≤ s.dev.lt → exec .updatePauseStart s = .next s)
        ∧ (s.dev.lt < limit → (∀ e ∈ h.infl, e.2.undispatched = true → ∀ due, e.2.deadline = some due →
            s.dev.lt + (100 * dCost e.2.desc - e.2.spent) + 200000 ≤ due) →
          exec .updatePauseStart s = .next { s with dev := { s.dev with hq := { h with load := .updatePaused, pauseLt := s.dev.lt } } })
        ∧ ((∃ e ∈ h.infl, e.2.undispatched = true ∧ ∃ due, e.2.deadline = some due
            ∧ due < s.dev.lt + (100 * dCost e.2.desc - e.2.spent) + 200000) → exec .updatePauseStart s = .next s)
        ∧ (noneHeld → limit ≤ s.dev.lt → ∃ t, exec .updateDeferExpiry s = .next t
            ∧ t.dev.hq.load = .deferExpired ∧ t.dev.hq.infl = h.infl ∧ t.dev.hq.queues = h.queues ∧ t.dev.hq.version = h.version
            ∧ t.dev.hq.ctrlRun = h.ctrlRun))
    ∧ (h.load = .updatePaused → noneHeld →
        (s.dev.lt ≤ h.pauseLt + 150000 → ∃ t, exec .newImageReady s = .next t ∧ t.dev.hq.load = .running ∧ t.dev.hq.version = h.newVersion
            ∧ t.dev.hq.pauseUs = (s.dev.lt - h.pauseLt) / 100 ∧ t.dev.hq.infl = h.infl ∧ t.dev.hq.queues = h.queues ∧ t.dev.hq.ctxs = h.ctxs)
        ∧ (h.pauseLt + 150000 < s.dev.lt → ∃ t, exec .updateRollback s = .next t ∧ t.dev.hq.load = .rolledBack ∧ t.dev.hq.version = h.version
            ∧ t.dev.hq.pauseUs = (s.dev.lt - h.pauseLt) / 100 ∧ t.dev.hq.infl = h.infl ∧ t.dev.hq.queues = h.queues ∧ t.dev.hq.ctxs = h.ctxs))

end Sys2Proof

/-- Event rings and timers, and the loading of firmware. -/
def Obligations.EventsAndFirmware : Prop := EventRingsAndTimers ∧ FirmwareLoadAndUpdate

/-! ## Streams (03) -/

namespace Sys2Proof

/-- Bits of an instruction word, n of them from bit lo (R104). -/
def wb (w : IWord) (lo n : Nat) : Nat := (w.extractLsb' lo n).toNat

/-- Stage i of the sequencer is next to issue for context c: the core runs, the instruction buffer holds the PC's block and the PC lies in the
stream. -/
def Fetched (s : State) (a : At) (c : CtxId) (i : Nat) : Prop :=
  s.dev.issuer a = some i ∧ (s.dev.core a.core).ctx = some c
    ∧ (Tbl.get (s.dev.core a.core).ibuf (i / 8) []).contains
        ((((s.dev.core a.core).stage i).base + ((s.dev.core a.core).stage i).pc.toNat) / 1024) = true
    ∧ ((s.dev.core a.core).stage i).pc.toNat < ((s.dev.core a.core).stage i).len

/-- Stage i of the sequencer issues the word for context c: it is next, no stop of its core is wanted (StopsAtTileBoundary says what one does), and
an ACCESS has no 64 requests of its core before it (R119). -/
def Issuing (s : State) (a : At) (w : IWord) (c : CtxId) (i : Nat) : Prop :=
  Fetched s a c i ∧ s.dev.stopWanted a.core = false ∧ (wb w 60 4 = 4 → s.dev.llcFull a.core i = false)

/-- Nothing but one core has changed. -/
def OnlyCore (s t : State) (n : Nat) : Prop := OnlyCores s t ∧ ∀ m, m ≠ n → t.dev.core m = s.dev.core m

/-- Nothing but one stage context of one core has changed. -/
def OnlyStage (s t : State) (n i : Nat) : Prop :=
  OnlyCore s t n ∧ t.dev.core n = { s.dev.core n with stages := (t.dev.core n).stages }
    ∧ ∀ j, j ≠ i → (t.dev.core n).stage j = (s.dev.core n).stage j

/-- A stage after its instruction: its PC, no stall, and its registers given by a function; the rest as it was. -/
def StageGoes (x y : Stage) (pc : Word) (regs : Nat → Word) : Prop :=
  y = { x with pc := pc, stall := none, regs := y.regs } ∧ ∀ r, y.reg r = regs r

/-- The instruction traps (R120, R128): an ACTIVE context parks with the cause, the core's trap word says where and why, and no core is otherwise
changed, so that the PC stays at the instruction. -/
def TrapsWith (s : State) (a : At) (c : CtxId) (i cause code : Nat) (o : Host.Outcome State Fault Refusal) : Prop :=
  (s.dev.ctx c).state = .active → ∃ t, o = .next t ∧ (t.dev.ctx c).state = .parked
    ∧ (∃ p, (t.dev.ctx c).park = some p ∧ p.cause = cause ∧ p.tag = (s.dev.core a.core).tag ∧ p.token = (t.dev.ctx c).token ∧ p.token ≠ 0)
    ∧ (t.dev.core a.core).trap = BitVec.ofNat 32 (cause + 2 ^ 8 * (i / 8) + 2 ^ 10 * (i % 8) + 2 ^ 16 * code)
    ∧ ∀ n, t.dev.core n = { s.dev.core n with trap := (t.dev.core n).trap }

end Sys2Proof

namespace Sys2Proof

/-- SCALAR: SD takes the value of the operation on SA, SB and IMM, the PC goes on by 8, and nothing else changes; LD_ARG reads its argument word, or traps
with LOCAL_RANGE beyond ARG_LEN; a reserved bit raises ILLEGAL_INSTRUCTION (R105, R108, R120). -/
def ScalarOperations : Prop :=
  ∀ (a : At) (w : IWord) (c : CtxId) (i : Nat) (s : State), Issuing s a w c i → wb w 60 4 = 0 →
    let st := (s.dev.core a.core).stage i
    let x := st.reg (wb w 43 5)
    let y := st.reg (wb w 38 5)
    let imm := BitVec.ofNat 32 (wb w 0 32)
    let is (op : Nat) : Prop := wb w 53 6 = op ∧ wb w 32 6 = 0
    let gives (o : Host.Outcome State Fault Refusal) (v : Word) : Prop := ∃ t, o = .next t ∧ OnlyStage s t a.core i
      ∧ StageGoes st ((t.dev.core a.core).stage i) (st.pc + 8) (fun r => if r = wb w 48 5 then v else st.reg r)
    (is 0 → gives (exec (.scalarAdd a w) s) (x + y)) ∧ (is 1 → gives (exec (.scalarSub a w) s) (x - y))
      ∧ (is 2 → gives (exec (.scalarAnd a w) s) (x &&& y)) ∧ (is 3 → gives (exec (.scalarOr a w) s) (x ||| y))
      ∧ (is 4 → gives (exec (.scalarXor a w) s) (x ^^^ y)) ∧ (is 5 → gives (exec (.shl a w) s) (x <<< (y.toNat % 32)))
      ∧ (is 6 → gives (exec (.shr a w) s) (x >>> (y.toNat % 32))) ∧ (is 7 → gives (exec (.scalarMul a w) s) (x * y))
      ∧ (is 8 → gives (exec (.addi a w) s) (x + imm)) ∧ (is 9 → gives (exec (.movi a w) s) imm)
      ∧ (is 11 → gives (exec (.coreId a w) s) (BitVec.ofNat 32 a.core.val))
      ∧ (∀ v, is 10 → s.dev.launchOf a.core = some v →
          (imm.toNat + 4 ≤ v.args.length → gives (exec (.ldArg a w) s) (BitVec.ofNat 32 (leNat ((v.args.drop imm.toNat).take 4))))
          ∧ (v.args.length < imm.toNat + 4 → TrapsWith s a c i 2 0 (exec (.ldArg a w) s)))
      ∧ (wb w 53 6 = 0 → wb w 32 6 ≠ 0 → TrapsWith s a c i 1 0 (exec (.scalarAdd a w) s))

end Sys2Proof

namespace Sys2Proof

/-- BRANCH: with a target in the stream the stream goes on there if the condition on SA holds, else at the next instruction; DEC writes SA less 1 first and
judges that; a target outside the stream raises ILLEGAL_INSTRUCTION (R105, R120). -/
def BranchOperations : Prop :=
  ∀ (a : At) (w : IWord) (c : CtxId) (i : Nat) (s : State), Issuing s a w c i → wb w 60 4 = 1 → wb w 32 19 = 0 →
    let st := (s.dev.core a.core).stage i
    let sa := wb w 51 5
    let x := st.reg sa
    let target := BitVec.ofNat 32 (wb w 0 32)
    let goes (o : Host.Outcome State Fault Refusal) (taken : Bool) (v : Word) : Prop := ∃ t, o = .next t ∧ OnlyStage s t a.core i
      ∧ StageGoes st ((t.dev.core a.core).stage i) (if taken then target else st.pc + 8) (fun r => if r = sa then v else st.reg r)
    (target.toNat % 8 = 0 → target.toNat < st.len →
      (wb w 56 3 = 0 → goes (exec (.branchAlways a w) s) true x) ∧ (wb w 56 3 = 1 → goes (exec (.branchIfZero a w) s) (decide (x = 0)) x)
        ∧ (wb w 56 3 = 2 → goes (exec (.branchIfNonzero a w) s) (decide (x ≠ 0)) x)
        ∧ (wb w 56 3 = 3 → goes (exec (.branchIfNegative a w) s) (decide (x.toInt < 0)) x)
        ∧ (wb w 56 3 = 4 → goes (exec (.dec a w) s) (decide (x ≠ 1)) (x - 1)))
    ∧ (st.len ≤ target.toNat → wb w 56 3 = 0 → TrapsWith s a c i 1 0 (exec (.branchAlways a w) s))

end Sys2Proof

namespace Sys2Proof

/-- Where a stop of its context or LAUNCH is wanted, a sequencer does not issue an instruction that marks a tile boundary but stops there, and issues
one that marks none as ever (R71, R72, R104, R126). The instruction is MOVI; the LAUNCH has not reached its COST. -/
def StopsAtTileBoundary : Prop :=
  ∀ (a : At) (w : IWord) (c : CtxId) (i : Nat) (tag : Tag) (v : Work) (s : State), Fetched s a c i → s.dev.stopWanted a.core = true →
    (s.dev.core a.core).tag = some tag → s.dev.work tag = some v → v.stopping = false →
    wb w 60 4 = 0 → wb w 53 6 = 9 → wb w 32 6 = 0 →
    let k := s.dev.core a.core
    (wb w 59 1 = 1 → ∃ t, exec (.movi a w) s = .next t ∧ OnlyCore s t a.core
      ∧ t.dev.core a.core = { k with halted := k.halted ||| 2 ^ a.seq.val })
    ∧ (wb w 59 1 = 0 → ∃ t, exec (.movi a w) s = .next t ∧ OnlyStage s t a.core i
      ∧ StageGoes (k.stage i) ((t.dev.core a.core).stage i) ((k.stage i).pc + 8)
          (fun r => if r = wb w 48 5 then BitVec.ofNat 32 (wb w 0 32) else (k.stage i).reg r))

end Sys2Proof

/-- The scalar and branch instructions of a stream: ALU results, register reads and the flow of the program counter; and where a stream stops. -/
def Obligations.ScalarAndBranch : Prop := ScalarOperations ∧ BranchOperations ∧ StopsAtTileBoundary

namespace Sys2Proof

/-- TOKEN: a WAIT whose COUNT is there and that no earlier waiter stands before takes it and goes on, and WAIT_INV also empties the L1 cache; otherwise the
stage blocks and the sequencer's next READY stage runs. SIGNAL adds COUNT, lets a waiter whose COUNT is then there go on, and overflows above
65,535. READ copies the value (R107, R111, R114, R118). -/
def TokenOperations : Prop :=
  ∀ (a : At) (w : IWord) (c : CtxId) (i : Nat) (s : State), Issuing s a w c i → wb w 60 4 = 2 → wb w 0 25 = 0 → wb w 30 3 ≤ 4 →
    let k := s.dev.core a.core
    let st := k.stage i
    let cl : Bool := decide (wb w 55 1 = 1)
    let tk := wb w 49 6
    let n := wb w 33 16
    let v := s.dev.token a.core cl tk
    let steps (t : State) : Prop := StageGoes st ((t.dev.core a.core).stage i) (st.pc + 8) st.reg
    let tokenIs (t : State) (u : Nat) : Prop := t.dev.token a.core cl tk = u
      ∧ ∀ m sc r, (m, sc, r) ≠ (a.core.val, cl, tk) → (sc = true → cl = true → clusterOf m = clusterOf a.core → r ≠ tk) → t.dev.token m sc r = s.dev.token m sc r
    let waitDone (o : Host.Outcome State Fault Refusal) (l1 : List L1Line) : Prop := ∃ t, o = .next t ∧ steps t ∧ tokenIs t (v - n)
      ∧ (t.dev.core a.core).l1 = l1 ∧ t.dev.hq = s.dev.hq ∧ t.dev.mm = s.dev.mm
    let blocks (o : Host.Outcome State Fault Refusal) (inv : Bool) : Prop := ∃ t, o = .next t ∧ OnlyCore s t a.core ∧ tokenIs t v
      ∧ (t.dev.core a.core).stage i = { st with state := .blocked, hint := wb w 30 3, blockLt := s.dev.lt, want := some (cl, tk, n, inv), stall := none }
      ∧ (∀ j, k.nextReady i = some j → ((t.dev.core a.core).stage j).state = .active)
    (cl = false → tk < 32) →
      (n ≠ 0 → wb w 56 3 = 0 → n ≤ v → s.dev.waiters a.core cl tk = [] → waitDone (exec (.wait a w) s) k.l1)
      ∧ (n ≠ 0 → wb w 56 3 = 2 → n ≤ v → s.dev.waiters a.core cl tk = [] → waitDone (exec (.waitInv a w) s) [])
      ∧ (n ≠ 0 → wb w 56 3 = 0 → v < n → blocks (exec (.wait a w) s) false) ∧ (n ≠ 0 → wb w 56 3 = 2 → v < n → blocks (exec (.waitInv a w) s) true)
      ∧ (n ≠ 0 → wb w 56 3 = 1 → k.holds i = false → v + n ≤ 65535 → s.dev.waiters a.core cl tk = [] →
          ∃ t, exec (.signal a w) s = .next t ∧ steps t ∧ tokenIs t (v + n))
      ∧ (∀ lt j m, n ≠ 0 → wb w 56 3 = 1 → k.holds i = false → v + n ≤ 65535 → s.dev.waiters a.core cl tk = [(lt, a.core.val, j)] →
          (k.stage j).state = .blocked → (k.stage j).want = some (cl, tk, m, false) → m ≤ v + n → bitOf k.halted (j / 8) = false →
          ∃ t, exec (.signal a w) s = .next t ∧ steps t ∧ t.dev.token a.core cl tk = v + n - m
            ∧ ((t.dev.core a.core).stage j).pc = (k.stage j).pc + 8 ∧ ((t.dev.core a.core).stage j).want = none
            ∧ ((t.dev.core a.core).stage j).state = (if (k.active (j / 8)).isNone then .active else .ready))
      ∧ (n ≠ 0 → wb w 56 3 = 1 → k.holds i = false → 65535 < v + n → TrapsWith s a c i 4 0 (exec (.signal a w) s))
      ∧ (n = 0 → wb w 56 3 = 3 → ∃ t, exec (.tokenRead a w) s = .next t ∧ OnlyStage s t a.core i
          ∧ StageGoes st ((t.dev.core a.core).stage i) (st.pc + 8) (fun r => if r = wb w 25 5 then BitVec.ofNat 32 v else st.reg r))

end Sys2Proof

namespace Sys2Proof

/-- FENCE WR goes on, for earlier stores are performed when their instruction is done (log 5); INV and FULL also empty the core's L1 cache. TRAP parks with
PROGRAM_TRAP and its CODE; a reserved encoding parks with ILLEGAL_INSTRUCTION. END records EXIT, ends its stage, ORs EXIT into the LAUNCH's result
and lets the sequencer's next READY stage run; when the last stage of the LAUNCH ends, the LAUNCH finishes OK with that OR (R103, R107, R118, R120). -/
def FenceTrapEnd : Prop :=
  ∀ (a : At) (w : IWord) (c : CtxId) (i : Nat) (s : State), Issuing s a w c i →
    let k := s.dev.core a.core
    let st := k.stage i
    let fence (o : Host.Outcome State Fault Refusal) (inv : Bool) : Prop := ∃ t, o = .next t ∧ OnlyCore s t a.core
      ∧ StageGoes st ((t.dev.core a.core).stage i) (st.pc + 8) st.reg
      ∧ t.dev.core a.core = { k with l1 := if inv then [] else k.l1, l1lru := if inv then [] else k.l1lru, stages := (t.dev.core a.core).stages } ∧ ∀ j, j ≠ i → (t.dev.core a.core).stage j = k.stage j
    (wb w 60 4 = 3 → wb w 0 56 = 0 →
      (wb w 56 3 = 0 → fence (exec (.fenceWr a w) s) false) ∧ (wb w 56 3 = 1 → fence (exec (.fenceInv a w) s) true)
        ∧ (wb w 56 3 = 2 → fence (exec (.fenceFull a w) s) true))
    ∧ (wb w 60 4 = 0xB → wb w 16 43 = 0 → TrapsWith s a c i 5 (wb w 0 16) (exec (.trap a w) s))
    ∧ (reservedWord w = true → TrapsWith s a c i 1 0 (exec (.illegalInstruction a w) s))
    ∧ (wb w 60 4 = 0xC → wb w 32 27 = 0 → ∀ tag v, k.tag = some tag → s.dev.work tag = some v → v.stopping = false →
        let e := BitVec.ofNat 32 (wb w 0 32)
        (∀ j, k.nextReady i = some j → ∃ t, exec (.endStream a w) s = .next t
          ∧ ((t.dev.core a.core).stage i).state = .ended ∧ ((t.dev.core a.core).stage i).exit = e ∧ ((t.dev.core a.core).stage j).state = .active
          ∧ t.dev.work tag = some { v with exits := v.exits ||| e } ∧ (t.dev.core a.core).tag = some tag ∧ t.dev.mm = s.dev.mm)
        ∧ (k.nextReady i = none → v.phase = .dispatched → v.unreachable = false → v.marked = false → k.fops = [] → Tbl.Sorted s.dev.gr.cores →
            (∀ j, j ≠ i → (k.stage j).state = .ended ∨ (k.stage j).state = .unused) → Tbl.Sorted k.stages →
            (∀ n, n ≠ a.core.val → (s.dev.core n).tag = some tag → (s.dev.core n).finished = true) →
            ∃ t, exec (.endStream a w) s = .next t ∧ (t.dev.work tag).map (·.phase) = some (.finished 0 (v.exits ||| e))
              ∧ (∀ n, (s.dev.core n).tag = some tag → (t.dev.core n).tag = none ∧ (t.dev.core n).stages = [] ∧ (t.dev.core n).l1 = []
                  ∧ (t.dev.core n).ls = (s.dev.core n).ls)
              ∧ t.dev.mm = s.dev.mm))

end Sys2Proof

/-- Tokens, fences, traps, sleep and the end of a stage. -/
def Obligations.TokensFencesTraps : Prop := TokenOperations ∧ FenceTrapEnd

/-! ## The matrix arrays and the Drills (04) -/

namespace Sys2Proof

/-- Only one core, one cluster's counters and the free-value index may have changed outside the core's stage: nothing of memory, the
control plane's queues and contexts, the fabric, the engines, power, reset or the floor plan has. -/
def GridOnly (s t : State) : Prop :=
  t.pending = s.pending ∧ t.sec = s.sec ∧ t.dev.lt = s.dev.lt ∧ t.dev.regs = s.dev.regs ∧ t.dev.dom = s.dev.dom ∧ t.dev.mm = s.dev.mm
    ∧ t.dev.fl = s.dev.fl ∧ t.dev.pw = s.dev.pw ∧ t.dev.rs = s.dev.rs ∧ t.dev.fab = s.dev.fab ∧ t.dev.col = s.dev.col ∧ t.dev.upd = s.dev.upd

/-- A local-store range holds no poisoned or uncorrectable block. -/
def CleanLs (k : Core) (off n : Nat) : Prop := (k.ls.read off n).2 = []

end Sys2Proof

namespace Sys2Proof

/-- ZERO puts a slot's 256 cells at +0.0; LOAD_ACC takes them from 1 KiB of the local store in order, or traps with LOCAL_RANGE beyond it. No other
accumulator changes, the PC goes on by 8, and of the rest of the core only the array's list of operations does (R134, R142). -/
def SlotOperations : Prop :=
  ∀ (a : At) (w : IWord) (c : CtxId) (i : Nat) (s : State), Issuing s a w c i → wb w 60 4 = 5 → wb w 44 8 = 0 → wb w 0 39 = 0 →
    let k := s.dev.core a.core
    let st := k.stage i
    let arr := wb w 55 1
    let base := (8 * arr + wb w 52 3) * 256
    let off := (st.reg (wb w 39 5)).toNat
    let held := (k.fops.filter (fun o => o.arr = arr)).length
    let puts (o : Host.Outcome State Fault Refusal) (v : Nat → Word) : Prop := ∃ t, o = .next t ∧ OnlyCore s t a.core
      ∧ (∀ x, Tbl.get (t.dev.core a.core).acc x 0 = if base ≤ x ∧ x < base + 256 then v (x - base) else Tbl.get k.acc x 0)
      ∧ StageGoes st ((t.dev.core a.core).stage i) (st.pc + 8) st.reg ∧ (∀ j, j ≠ i → (t.dev.core a.core).stage j = k.stage j)
      ∧ t.dev.core a.core = { k with acc := (t.dev.core a.core).acc, stages := (t.dev.core a.core).stages, busy := k.busy + 1, fops := (t.dev.core a.core).fops }
      ∧ (held = 0 → (t.dev.core a.core).fops = k.fops)
    (held < 2 → wb w 56 3 = 2 → puts (exec (.zero a w) s) (fun _ => 0))
    ∧ (held < 2 → wb w 56 3 = 3 → off + 1024 ≤ k.ways * 32768 → CleanLs k off 1024 →
        puts (exec (.loadAcc a w) s) (fun x => BitVec.ofNat 32 (leNat (((k.ls.read off 1024).1.drop (4 * x)).take 4))))
    ∧ (wb w 56 3 = 3 → k.ways * 32768 < off + 1024 → TrapsWith s a c i 2 0 (exec (.loadAcc a w) s))
    ∧ (2 ≤ held → wb w 56 3 = 2 → ∃ t, exec (.zero a w) s = .next t ∧ OnlyStage s t a.core i
        ∧ (t.dev.core a.core).stage i = st.stalled 2 s.dev.lt)

end Sys2Proof

namespace Sys2Proof

/-- MMA adds to each cell (i, j) of its slot, step after step, the sum of its K-group's products of A's row i and B's row j; MMA_INIT replaces the
cell with the first step's sum. FP64 works on a slot pair, low words in the first slot. No other accumulator changes, the operation is held for its
checksum comparison, and its steps are counted (R130, R131, R134, R142, R157, R171, R175). A reserved encoding raises ILLEGAL_INSTRUCTION and a
panel beyond the local store LOCAL_RANGE (R120, R133). -/
def MatrixMultiply : Prop :=
  ∀ (a : At) (w : IWord) (c : CtxId) (i : Nat) (s : State) (init : Bool), Issuing s a w c i → wb w 60 4 = 5 → wb w 56 3 = (if init then 1 else 0) →
    let o := exec (if init then .mmaInit a w else .mma a w) s
    let k := s.dev.core a.core
    let st := k.stage i
    let arr := wb w 55 1
    let base := (8 * arr + wb w 52 3) * 256
    let fmt := wb w 48 4
    let steps := wb w 25 9
    let offA := (st.reg (wb w 39 5)).toNat
    let offB := (st.reg (wb w 34 5)).toNat
    let A := (k.panel w 0 offA).1
    let B := (k.panel w 1 offB).1
    let inside : Prop := offA + fuPanel w 0 ≤ k.ways * 32768 ∧ offB + fuPanel w 1 ≤ k.ways * 32768
    let old (x : Nat) : Word := Tbl.get k.acc x 0
    (wb w 0 15 ≠ 0 ∨ steps = 0 ∨ 8 < fmt ∨ (fmt = 8 ∧ wb w 52 1 = 1) → TrapsWith s a c i 1 0 o)
    ∧ (mmaIllegal w = false → ¬ inside → TrapsWith s a c i 2 0 o)
    ∧ (mmaIllegal w = false → inside → CleanLs k offA (fuPanel w 0) → CleanLs k offB (fuPanel w 1) →
        (k.fops.filter (fun o => o.arr = arr)).length < 2 → ∃ t, o = .next t ∧ GridOnly s t
          ∧ (∀ m, m ≠ a.core.val → t.dev.core m = s.dev.core m)
          ∧ StageGoes st ((t.dev.core a.core).stage i) (st.pc + 8) st.reg ∧ (∀ j, j ≠ i → (t.dev.core a.core).stage j = k.stage j)
          ∧ (∃ p, (t.dev.core a.core).fops = k.fops ++ [p] ∧ p.arr = arr ∧ p.word = w ∧ p.offA = offA ∧ p.offB = offB ∧ p.stage = i)
          ∧ t.dev.core a.core = { k with acc := (t.dev.core a.core).acc, stages := (t.dev.core a.core).stages, busy := k.busy + 1, fops := (t.dev.core a.core).fops }
          ∧ ((t.dev.ctrAt (coreBase a.core + 0x10 + 8 * arr)).val = satAdd 64 (s.dev.ctrAt (coreBase a.core + 0x10 + 8 * arr)).val steps)
          ∧ (fmt ≠ 8 → ∀ x, Tbl.get (t.dev.core a.core).acc x 0 =
              if base ≤ x ∧ x < base + 256 then
                (List.range steps).foldl (fun v p => cellStep v (init && decide (p = 0))
                  ((List.range (fmtKg fmt)).map (fun e => Val.mul (A.val ((x - base) / 16) p e) (B.val ((x - base) % 16) p e)))) (old x)
              else old x)
          ∧ (fmt = 8 → (∀ x, x < base ∨ base + 512 ≤ x → Tbl.get (t.dev.core a.core).acc x 0 = old x)
              ∧ ∀ n, n < 256 →
                (Tbl.get (t.dev.core a.core).acc (base + n) 0).toNat + 2 ^ 32 * (Tbl.get (t.dev.core a.core).acc (base + 256 + n) 0).toNat =
                  ((List.range steps).foldl (fun v p => cellStep64 v (init && decide (p = 0)) (A.val (n / 16) p 0) (B.val (n % 16) p 0))
                    (BitVec.ofNat 64 ((old (base + n)).toNat + 2 ^ 32 * (old (base + 256 + n)).toNat))).toNat))

end Sys2Proof

namespace Sys2Proof

/-- TILE_CHECKSUM_COMPARE where nothing struck: the array's oldest operation leaves with the ZEROs and LOAD_ACCs behind it, its array recomputes no
longer, and nothing else changes while a stage still runs; so it does where a tree's output changed by a multiple of 255, which no check sees, but
for that cell. A failed tree check is a mismatch: it is counted, its LT, unit and cells are recorded, and the array's operations run again (R143
to R146, R157). The local store they read is clean. -/
def ChecksumCompare : Prop :=
  ∀ (a : CoreId) (arr : Fin 2) (s : State) (tag : Tag) (v : Work) (o : FurrowOp) (j : Nat),
    let k := s.dev.core a
    k.fops.find? (fun o => o.arr = arr.val) = some o → k.tag = some tag → s.dev.work tag = some v → v.stopping = false → (k.stage j).state = .active →
      (∃ t, exec (.tileChecksumCompare a arr []) s = .next t ∧ OnlyCore s t a ∧ t.dev.core a = { k with
            fops := passOps arr k.fops, redo := if bitOf k.redo arr then k.redo - 2 ^ arr.val else k.redo }
        ∧ (t.dev.core a).fops.filter (fun p => p.arr ≠ arr.val) = k.fops.filter (fun p => p.arr ≠ arr.val)
        ∧ (t.dev.core a).fops.filter (fun p => p.arr = arr.val)
            = ((k.fops.filter (fun p => p.arr = arr.val)).drop 1).dropWhile (fun p => 2 ≤ wb p.word 56 3))
      ∧ (∀ cell, cell < 256 → ∃ t, exec (.tileChecksumCompare a arr [(256 + cell, 510)]) s = .next t ∧ (t.dev.core a).fops = passOps arr k.fops
          ∧ ∀ x, x ≠ slotBase o.word + cell → Tbl.get (t.dev.core a).acc x 0 = Tbl.get k.acc x 0)
      ∧ (∀ cell, cell < 256 → k.mism.length < 2 → Quiet s.dev (coreBase a + 0x20) 16 →
          (∀ p ∈ k.fops, p.arr = arr.val → ∀ x ∈ p.ranges, CleanLs k x.1 x.2) →
          ∃ t, exec (.tileChecksumCompare a arr [(256 + cell, 1)]) s = .next t ∧ GridOnly s t ∧ (∀ m, m ≠ a.val → t.dev.core m = s.dev.core m)
            ∧ (t.dev.core a).redo = k.redo ||| 2 ^ arr.val ∧ (t.dev.core a).mism = (s.dev.lt :: k.mism).take 2 ∧ (t.dev.core a).lastLt = s.dev.lt
            ∧ (t.dev.core a).lastWord = BitVec.ofNat 32 (arr.val + 2 * wb o.word 52 3 + 16) ∧ (t.dev.core a).lastCols = 0
            ∧ (t.dev.core a).stages = k.stages ∧ (t.dev.core a).fops.length = k.fops.length
            ∧ (t.dev.ctrAt (coreBase a + 0x20)).val = (s.dev.ctrAt (coreBase a + 0x20)).val + 1)

end Sys2Proof

/-- The Furrow arrays: slots, the matrix multiplication and its checksum. -/
def Obligations.FurrowOperations : Prop := SlotOperations ∧ MatrixMultiply ∧ ChecksumCompare

namespace Sys2Proof

/-- ENQUEUE puts the record at its local-store address into the Drill of its TARGET_CORE's cluster and SD takes the transfer's number; a full queue stalls
the stage. A gated cluster takes nothing, and the LAUNCH ends UNREACHABLE later; a core that is not GOOD takes nothing, and the LAUNCH ends with
UNIT_RETIRED (log 55). DRILL, KV_CREATE and KV_APPEND enter the Drill once an entry is free, TARGET_CORE's or the mask's lowest cluster's; a KV_APPEND to
a region that cannot be appended to is refused with BAD_DESCRIPTOR (R23, R27, R57, R148 to R152, R224, R225). -/
def DrillQueue : Prop :=
  (∀ (a : At) (w : IWord) (c : CtxId) (i : Nat) (s : State), Issuing s a w c i → wb w 60 4 = 8 → wb w 56 3 = 0 → wb w 0 46 = 0 →
    let k := s.dev.core a.core
    let st := k.stage i
    let off := (st.reg (wb w 51 5)).toNat / 64 * 64
    let rcd := recOf (k.ls.read off 64).1
    let cl := clusterOf (xferOf rcd).core
    let y := s.dev.cluster cl
    off + 64 ≤ k.ways * 32768 → CleanLs k off 64 →
    (xferBad rcd (s.dev.ctx c).mask = true → TrapsWith s a c i 1 0 (exec (.enqueue a w) s))
    ∧ (xferBad rcd (s.dev.ctx c).mask = false → s.dev.admits cl = false → ∃ t, exec (.enqueue a w) s = .next t ∧ t.dev.cluster cl = y
        ∧ StageGoes st ((t.dev.core a.core).stage i) (st.pc + 8) st.reg
        ∧ ∀ tag v, k.tag = some tag → s.dev.work tag = some v → t.dev.work tag = some { v with unreachable := true })
    ∧ (xferBad rcd (s.dev.ctx c).mask = false → s.dev.admits cl = true → s.dev.coreGood (xferOf rcd).core = false →
        ∀ tag v, k.tag = some tag → s.dev.work tag = some v → ∃ t, exec (.enqueue a w) s = .next t
          ∧ (t.dev.work tag).map (·.phase) = some (.finished 9 0) ∧ (t.dev.core a.core).tag = none)
    ∧ (xferBad rcd (s.dev.ctx c).mask = false → s.dev.coreGood (xferOf rcd).core = true → s.dev.drillOpen cl c = true → y.drill.length < 16 →
        ∃ t, exec (.enqueue a w) s = .next t
          ∧ t = { s with dev := { s.dev with gr := { s.dev.gr with cores := t.dev.gr.cores, clusters := t.dev.gr.clusters } } }
          ∧ t.dev.cluster cl = { y with
              ctx := some c
              drill := y.drill ++ [⟨rcd, y.nextNum, none, a.core, i, c, 0, false, false, k.tag, none⟩]
              nextNum := y.nextNum + 1
              paused := y.paused && !y.drill.isEmpty }
          ∧ (∀ n, n ≠ cl → t.dev.cluster n = s.dev.cluster n) ∧ (∀ m, m ≠ a.core.val → t.dev.core m = s.dev.core m)
          ∧ StageGoes st ((t.dev.core a.core).stage i) (st.pc + 8) (fun r => if r = wb w 46 5 then y.nextNum else st.reg r))
    ∧ (xferBad rcd (s.dev.ctx c).mask = false → s.dev.coreGood (xferOf rcd).core = true → s.dev.drillOpen cl c = true → 16 ≤ y.drill.length →
        ∃ t, exec (.enqueue a w) s = .next t ∧ OnlyStage s t a.core i ∧ (t.dev.core a.core).stage i = st.stalled 14 s.dev.lt))
  ∧ (∀ (tag : Tag) (s : State) (v : Work) (cl : Nat), s.dev.work tag = some v → v.phase = .dispatched → (s.dev.ctx v.ctx).state = .active →
      s.dev.inDrill tag = false → s.dev.drillOpen cl v.ctx = true → (s.dev.cluster cl).drill.length < 16 →
      let enters (o : Host.Outcome State Fault Refusal) : Prop := ∃ t, o = .next t
        ∧ t = { s with dev := { s.dev with gr := { s.dev.gr with clusters := t.dev.gr.clusters } } }
        ∧ t.dev.cluster cl = { s.dev.cluster cl with
            ctx := some v.ctx
            drill := (s.dev.cluster cl).drill ++ [⟨v.desc, dId v.desc, some tag, 0, 0, v.ctx, 0, false, false, none, none⟩]
            paused := (s.dev.cluster cl).paused && !(s.dev.cluster cl).drill.isEmpty }
        ∧ ∀ n, n ≠ cl → t.dev.cluster n = s.dev.cluster n
      let lowest : Prop := (setBits (s.dev.ctx v.ctx).mask.toNat 72).head? = some cl
      (dOp v.desc = 0x200 → cl = clusterOf (xferOf v.desc).core → s.dev.coreGood (xferOf v.desc).core = true → enters (exec (.drill tag) s))
        ∧ (dOp v.desc = 0x300 → lowest → enters (exec (.kvCreate tag) s))
        ∧ (dOp v.desc = 0x301 → lowest → (∀ e ∈ s.dev.hq.infl, dOp e.2.desc = 0x301 → e.1 = tag.val ∧ e.2 = v) →
            (∀ d, s.dev.kvRegion ⟨v.ctx, some tag, none, 2, .both, none, 0x100000 + tag.val⟩ v.desc ≠ .ok d none) → enters (exec (.kvAppend tag) s))
        ∧ (dOp v.desc = 0x301 → lowest → (∀ e ∈ s.dev.hq.infl, dOp e.2.desc = 0x301 → e.1 = tag.val ∧ e.2 = v) →
            ∀ d, s.dev.kvRegion ⟨v.ctx, some tag, none, 2, .both, none, 0x100000 + tag.val⟩ v.desc = .ok d none → d.work tag = some v →
            ∃ t, exec (.kvAppend tag) s = .next t ∧ (t.dev.work tag).map (·.phase) = some (.finished 3 0) ∧ t.dev.gr = d.gr))

end Sys2Proof

namespace Sys2Proof

/-- A Drill starts the transfer at the head of its queue, or parks its context with LOCAL_RANGE where the destination leaves the local store; a started
one whose units all complete leaves the queue, signals its token and is counted; a fault parks the context with TRANSLATION_FAULT and the transfer
stays with its PROGRESS (R113, R152 to R154, R253). No stop of the transfer and no save of its context is wanted. A ZERO transfer to the local store stands for every layout: its bytes become zero. -/
def DrillRuns : Prop :=
  ∀ (cl : ClusterId) (s : State) (x : DXfer) (xs : List DXfer),
    let y := s.dev.cluster cl
    let r := xferOf x.rcd
    y.drill = x :: xs → s.dev.on cl = true → y.paused = false → x.faulted = false → x.isKv = false → (s.dev.ctx x.ctx).state = .active →
    x.stop = none → (s.dev.ctx x.ctx).preemptReq = none →
    (x.started = false → r.layout ≠ 1 → r.toLocal = true → r.dst + r.len ≤ (s.dev.core r.core).ways * 32768 →
      ∃ t, exec (.drillTransferStart cl) s = .next t
        ∧ t = { s with dev := { s.dev with gr := { s.dev.gr with clusters := t.dev.gr.clusters } } }
        ∧ t.dev.cluster cl = { y with drill := { x with started := true } :: xs } ∧ ∀ n, n ≠ cl.val → t.dev.cluster n = s.dev.cluster n)
    ∧ (x.started = false → r.layout ≠ 1 → r.toLocal = true → (s.dev.core r.core).ways * 32768 < r.dst + r.len →
      ∃ t, exec (.drillTransferStart cl) s = .next t ∧ (t.dev.ctx x.ctx).state = .parked
        ∧ (∃ p, (t.dev.ctx x.ctx).park = some p ∧ p.cause = 2)
        ∧ (t.dev.cluster cl).drill = { x with faulted := true } :: xs)
    ∧ (x.started = true → x.tag = none → r.layout = 2 → r.toLocal = true → 0 < r.len → r.len ≤ 4096 → x.progress = 0 → r.sigEn = false →
      r.dst % 64 = 0 → r.len % 64 = 0 → s.dev.coreGood r.core = true →
      ∃ t, exec (.drillTransferComplete cl) s = .next t ∧ GridOnly s t ∧ (t.dev.cluster cl).drill = xs
        ∧ (∀ n, n < r.len → Mem.byte (t.dev.core r.core).ls.data (r.dst + n) = 0)
        ∧ (∀ n, n < r.dst ∨ r.dst + r.len ≤ n → Mem.byte (t.dev.core r.core).ls.data n = Mem.byte (s.dev.core r.core).ls.data n)
        ∧ (t.dev.ctrAt (clBase cl + 0x808)).val = satAdd 64 (s.dev.ctrAt (clBase cl + 0x808)).val r.len
        ∧ (t.dev.ctrAt (clBase cl + 0x810)).val = satAdd 32 (s.dev.ctrAt (clBase cl + 0x810)).val 1
        ∧ t.dev.core r.core = { s.dev.core r.core with ls := (t.dev.core r.core).ls, orig := (t.dev.core r.core).orig })
    ∧ (∀ d f v z zs, x.started = true → s.dev.drillRun cl x = .fault d f v → (d.cluster cl).drill = z :: zs → z.isKv = false →
      (xferOf z.rcd).toLocal = true → (d.ctx z.ctx).state = .active → z.stop = none →
      ∃ t, exec (.drillTranslationFault cl) s = .next t ∧ (t.dev.ctx z.ctx).state = .parked
        ∧ (∃ p, (t.dev.ctx z.ctx).park = some p ∧ p.cause = f.cause) ∧ (t.dev.cluster cl).drill = { z with faulted := true } :: zs)

end Sys2Proof

/-- The Drill: the queueing of transfers and what a transfer does. -/
def Obligations.Drill : Prop := DrillQueue ∧ DrillRuns

/-! ## The vector engine (06) -/

namespace Sys2Proof

/-- The Harrow runs an operation on one core: its operation count advances by one (R205), and nothing else of the part changes but that core. -/
def HarrowOnly (s t : State) (n : Nat) : Prop :=
  t = { s with dev := { counted s.dev (coreBase n + 0x40) 64 with gr := { s.dev.gr with cores := t.dev.gr.cores } } }
    ∧ ∀ m, m ≠ n → t.dev.core m = s.dev.core m

/-- A Harrow instruction a stage issues: its OP, its fields as R190 to R192 and R202 allow, its counter short of saturation. -/
def HarrowIssue (s : State) (a : At) (w : IWord) (c : CtxId) (i op : Nat) : Prop :=
  Issuing s a w c i ∧ wb w 60 4 = 6 ∧ wb w 53 6 = op ∧ harIllegal w op = false ∧ Quiet s.dev (coreBase a.core + 0x40) 64

/-- Lane l is active (R188, R195). -/
def laneOn (k : Core) (w : IWord) (l : Nat) : Bool := decide (wb w 34 3 = 0) || bitOf (Tbl.get k.m (wb w 34 3) 0) l

/-- Lane l of a vector register (R188). -/
def lane (k : Core) (v l : Nat) : Word := Tbl.get k.v (64 * v + l) 0

/-- Lane l of the VB operand, or the broadcast scalar (R190). -/
def laneB (k : Core) (i : Nat) (w : IWord) (l : Nat) : Word := if wb w 32 1 = 1 then (k.stage i).reg (wb w 27 5) else lane k (wb w 41 4) l

/-- Word n of a run of bytes. -/
def wordAt (bs : List Byte) (n : Nat) : Word := BitVec.ofNat 32 (leNat ((bs.drop (4 * n)).take 4))

/-- The operation writes VD: its active lanes take f, its inactive ones keep their value or become +0.0 by MZ (R195); the PC goes on by 8 and nothing else
of the core changes. -/
def WritesVd (s : State) (a : At) (w : IWord) (i : Nat) (f : Nat → Word) (o : Host.Outcome State Fault Refusal) : Prop :=
  let k := s.dev.core a.core
  let vd := wb w 49 4
  ∃ t, o = .next t ∧ HarrowOnly s t a.core ∧ StageGoes (k.stage i) ((t.dev.core a.core).stage i) ((k.stage i).pc + 8) (k.stage i).reg
    ∧ (∀ j, j ≠ i → (t.dev.core a.core).stage j = k.stage j)
    ∧ t.dev.core a.core = { k with
        v := (t.dev.core a.core).v, stages := (t.dev.core a.core).stages, busy := k.busy + 1, harBusy := k.harBusy ||| harMark (wb w 53 6) }
    ∧ (∀ l, l < 64 → lane (t.dev.core a.core) vd l = if laneOn k w l then f l else if wb w 33 1 = 1 then 0 else lane k vd l)
    ∧ ∀ n, (n < 64 * vd ∨ 64 * vd + 64 ≤ n) → Tbl.get (t.dev.core a.core).v n 0 = Tbl.get k.v n 0

/-- The operation writes the mask register of VD, bit by bit; the PC goes on by 8 and nothing else of the core changes. -/
def WritesMask (s : State) (a : At) (w : IWord) (i : Nat) (f : Nat → Bool) (o : Host.Outcome State Fault Refusal) : Prop :=
  let k := s.dev.core a.core
  let vd := wb w 49 4
  ∃ t, o = .next t ∧ HarrowOnly s t a.core ∧ StageGoes (k.stage i) ((t.dev.core a.core).stage i) ((k.stage i).pc + 8) (k.stage i).reg
    ∧ (∀ j, j ≠ i → (t.dev.core a.core).stage j = k.stage j)
    ∧ t.dev.core a.core = { k with
        m := (t.dev.core a.core).m, stages := (t.dev.core a.core).stages, busy := k.busy + 1, harBusy := k.harBusy ||| harMark (wb w 53 6) }
    ∧ (∀ l, l < 64 → bitOf (Tbl.get (t.dev.core a.core).m vd 0) l = f l) ∧ Tbl.get (t.dev.core a.core).m vd 0 < 2 ^ 64
    ∧ ∀ n, n ≠ vd → Tbl.get (t.dev.core a.core).m n 0 = Tbl.get k.m n 0

/-- The operation changes tile buffers and the local store as told; the PC goes on by 8 and nothing else of the core changes. -/
def WritesTiles (s : State) (a : At) (w : IWord) (i : Nat) (f : Core → Prop) (o : Host.Outcome State Fault Refusal) : Prop :=
  let k := s.dev.core a.core
  ∃ t, o = .next t ∧ HarrowOnly s t a.core ∧ StageGoes (k.stage i) ((t.dev.core a.core).stage i) ((k.stage i).pc + 8) (k.stage i).reg
    ∧ (∀ j, j ≠ i → (t.dev.core a.core).stage j = k.stage j)
    ∧ t.dev.core a.core = { k with
      t := (t.dev.core a.core).t, ls := (t.dev.core a.core).ls, stages := (t.dev.core a.core).stages, busy := k.busy + 1
      harBusy := k.harBusy ||| harMark (wb w 53 6) }
    ∧ f (t.dev.core a.core)

end Sys2Proof

namespace Sys2Proof

/-- The lane operations and the special functions write VD lane by lane, each result rounded once, inactive lanes as R195 says; an operation without a
VB operand that asks for a broadcast raises ILLEGAL_INSTRUCTION (R190 to R195). -/
def LaneOperations : Prop :=
  ∀ (a : At) (w : IWord) (c : CtxId) (i : Nat) (s : State),
    let k := s.dev.core a.core
    let x (l : Nat) : Word := lane k (wb w 45 4) l
    let y (l : Nat) : Word := laneB k i w l
    let z (l : Nat) : Word := lane k (wb w 37 4) l
    let is (op : Nat) : Prop := HarrowIssue s a w c i op
    (is 0x00 → WritesVd s a w i (fun l => add32 (x l) (y l)) (exec (.harrowAdd a w) s))
      ∧ (is 0x01 → WritesVd s a w i (fun l => rne32 (Val.add (f32 (x l)) (f32 (y l)).neg)) (exec (.harrowSub a w) s))
      ∧ (is 0x02 → WritesVd s a w i (fun l => mul32 (x l) (y l)) (exec (.harrowMul a w) s))
      ∧ (is 0x03 → WritesVd s a w i (fun l => fma32 (x l) (y l) (z l)) (exec (.fma a w) s))
      ∧ (is 0x04 → WritesVd s a w i (fun l => max32 (x l) (y l)) (exec (.max a w) s))
      ∧ (is 0x05 → WritesVd s a w i (fun l => min32 (x l) (y l)) (exec (.min a w) s))
      ∧ (is 0x06 → WritesVd s a w i (fun l => if (f32 (x l)).isNan then 0x7FC00000 else x l &&& 0x7FFFFFFF) (exec (.abs a w) s))
      ∧ (is 0x07 → WritesVd s a w i (fun l => if (f32 (x l)).isNan then 0x7FC00000 else x l ^^^ 0x80000000) (exec (.neg a w) s))
      ∧ (is 0x08 → WritesVd s a w i x (exec (.mov a w) s))
      ∧ (is 0x10 → WritesVd s a w i (fun l => rne32 (f32 (x l)).expE) (exec (.exp a w) s))
      ∧ (is 0x11 → WritesVd s a w i (fun l => rne32 (f32 (x l)).exp2E) (exec (.exp2 a w) s))
      ∧ (is 0x12 → WritesVd s a w i (fun l => rne32 (f32 (x l)).lnE) (exec (.ln a w) s))
      ∧ (is 0x13 → WritesVd s a w i (fun l => rne32 (Val.div (.pow2 0) (f32 (x l)))) (exec (.rcp a w) s))
      ∧ (is 0x14 → WritesVd s a w i (fun l => rne32 (f32 (x l)).rsqrtE) (exec (.rsqrt a w) s))
      ∧ (Issuing s a w c i → wb w 60 4 = 6 → wb w 53 6 = 0x08 → wb w 32 1 = 1 → TrapsWith s a c i 1 0 (exec (.mov a w) s))

end Sys2Proof

namespace Sys2Proof

/-- Comparisons write mask bits of the active lanes, inactive ones keep their bit or become 0 by MZ; mask logic, MSET and MPERIOD write all 64; M0 reads as
all ones and as a destination raises ILLEGAL_INSTRUCTION (R188, R191 to R193, R195). -/
def MaskOperations : Prop :=
  ∀ (a : At) (w : IWord) (c : CtxId) (i : Nat) (s : State),
    let k := s.dev.core a.core
    let x (l : Nat) : Val := f32 (lane k (wb w 45 4) l)
    let y (l : Nat) : Val := f32 (laneB k i w l)
    let m (n l : Nat) : Bool := decide (n = 0) || bitOf (Tbl.get k.m n 0) l
    let p := m (wb w 45 4)
    let q := m (wb w 41 4)
    let cmp (r : Nat → Bool) (l : Nat) : Bool := if laneOn k w l then r l else decide (wb w 33 1 = 0) && bitOf (Tbl.get k.m (wb w 49 4) 0) l
    let reg (n : Nat) : Nat := ((k.stage i).reg n).toNat
    let is (op : Nat) : Prop := HarrowIssue s a w c i op
    (is 0x0A → WritesMask s a w i (cmp (fun l => Val.lt (x l) (y l))) (exec (.cmplt a w) s))
      ∧ (is 0x0B → WritesMask s a w i (cmp (fun l => Val.lt (x l) (y l) || Val.eq (x l) (y l))) (exec (.cmple a w) s))
      ∧ (is 0x0C → WritesMask s a w i (cmp (fun l => Val.eq (x l) (y l))) (exec (.cmpeq a w) s))
      ∧ (is 0x28 → WritesMask s a w i (fun l => p l && q l) (exec (.mand a w) s))
      ∧ (is 0x29 → WritesMask s a w i (fun l => p l || q l) (exec (.mor a w) s))
      ∧ (is 0x2A → WritesMask s a w i (fun l => p l != q l) (exec (.mxor a w) s))
      ∧ (is 0x2B → WritesMask s a w i (fun l => !p l) (exec (.mnot a w) s))
      ∧ (is 0x2C → WritesMask s a w i (fun l => if l < 32 then bitOf (reg (wb w 22 5)) l else bitOf (reg (wb w 17 5)) (l - 32)) (exec (.mset a w) s))
      ∧ (is 0x2D → WritesMask s a w i (fun l => let n := reg (wb w 27 5) % 128
          if n = 0 ∨ 64 < n then decide (l = 0) else decide (l % n = 0)) (exec (.mperiod a w) s))
      ∧ (Issuing s a w c i → wb w 60 4 = 6 → wb w 53 6 = 0x28 → wb w 49 4 = 0 → TrapsWith s a c i 1 0 (exec (.mand a w) s))

end Sys2Proof

/-- The lane by lane operations of Harrow and the operations on masks. -/
def Obligations.LanesAndMasks : Prop := LaneOperations ∧ MaskOperations

/-- Scans run the six-level network of R200 on VA, inactive lanes at the identity, with the FLAGS mask as segments and VC[63] folded into lane 0 under
CHAIN; reductions run the tree of R201, or give each lane its segment's last scan value, into every lane of VD, VC[0] folded in under CHAIN and SD written
under TOS (R199 to R201). -/
def Obligations.ScansAndReductions : Prop :=
  ∀ (a : At) (w : IWord) (c : CtxId) (i : Nat) (s : State),
    let k := s.dev.core a.core
    let chain : Bool := decide (wb w 23 1 = 1)
    let segs : Nat := if wb w 24 3 = 0 then 2 ^ 64 - 1 else Tbl.get k.m (wb w 24 3) 0
    let x (f : Fold) (l : Nat) : Word := if laneOn k w l then lane k (wb w 45 4) l else f.unit
    let head (f : Fold) (flags : Nat) (l : Nat) : Word :=
      if l = 0 ∧ chain = true ∧ bitOf flags 0 = false then f.op (lane k (wb w 37 4) 63) (x f 0) else x f l
    let net (f : Fold) (flags l : Nat) : Word :=
      (segScan f.op ((List.range 64).map (head f flags)) (if chain then flags else flags ||| 1)).getD l 0
    let total (f : Fold) : Word :=
      let r := redTree f.op ((List.range 64).map (x f))
      if chain then f.op (lane k (wb w 37 4) 0) r else r
    let seg (f : Fold) (l : Nat) : Word := net f segs (segEnd (if chain then segs else segs ||| 1) l)
    let is (op : Nat) : Prop := HarrowIssue s a w c i op
    let all (v : Nat → Word) (o : Host.Outcome State Fault Refusal) : Prop := ∃ t, o = .next t ∧ HarrowOnly s t a.core
      ∧ (∀ l, l < 64 → lane (t.dev.core a.core) (wb w 49 4) l = v l)
      ∧ (∀ n, (n < 64 * wb w 49 4 ∨ 64 * wb w 49 4 + 64 ≤ n) → Tbl.get (t.dev.core a.core).v n 0 = Tbl.get k.v n 0)
      ∧ StageGoes (k.stage i) ((t.dev.core a.core).stage i) ((k.stage i).pc + 8)
          (fun r => if wb w 53 6 ≤ 0x22 ∧ wb w 22 1 = 1 ∧ r = wb w 17 5 then v 0 else (k.stage i).reg r)
      ∧ t.dev.core a.core = { k with
          v := (t.dev.core a.core).v, stages := (t.dev.core a.core).stages, busy := k.busy + 1, harBusy := k.harBusy ||| harMark (wb w 53 6) }
    (is 0x18 → WritesVd s a w i (net foldAdd 0) (exec (.scanAdd a w) s)) ∧ (is 0x19 → WritesVd s a w i (net foldMax 0) (exec (.scanMax a w) s))
      ∧ (is 0x1A → WritesVd s a w i (net foldAdd segs) (exec (.segscanAdd a w) s))
      ∧ (is 0x1B → WritesVd s a w i (net foldMax segs) (exec (.segscanMax a w) s))
      ∧ (is 0x20 → all (fun _ => total foldAdd) (exec (.redAdd a w) s)) ∧ (is 0x21 → all (fun _ => total foldMax) (exec (.redMax a w) s))
      ∧ (is 0x22 → all (fun _ => total foldMin) (exec (.redMin a w) s))
      ∧ (is 0x23 → all (seg foldAdd) (exec (.segredAdd a w) s)) ∧ (is 0x24 → all (seg foldMax) (exec (.segredMax a w) s))

namespace Sys2Proof

/-- ACC reads a quarter of a slot, or stalls while an array holds the stage's operation on it; TLD and TST move a tile-buffer row, LD and ST 256 bytes,
TFILL and TSPILL 4 KiB of the local store, under the mask where R195 says so, and trap with LOCAL_RANGE beyond it (R191, R192, R195, R196). -/
def TileOperations : Prop :=
  ∀ (a : At) (w : IWord) (c : CtxId) (i : Nat) (s : State),
    let k := s.dev.core a.core
    let tb := wb w 24 3
    let row := 1024 * tb + 64 * (((k.stage i).reg (wb w 27 5)).toNat % 16)
    let off := ((k.stage i).reg (wb w 27 5)).toNat / 64 * 64
    let slot := (8 * wb w 26 1 + wb w 23 3) * 256
    let inside (n : Nat) : Prop := off + n ≤ k.ways * 32768
    let x (l : Nat) : Word := lane k (wb w 45 4) l
    let stored (old : Nat → Word) (l : Nat) : Word := if laneOn k w l then x l else if wb w 33 1 = 1 then 0 else old l
    let is (op : Nat) : Prop := HarrowIssue s a w c i op
    (is 0x30 → k.fops = [] → WritesVd s a w i (fun l => Tbl.get k.acc (slot + 64 * wb w 21 2 + l) 0) (exec (.acc a w) s))
      ∧ (is 0x30 → (∃ o ∈ k.fops, o.stage = i ∧ o.arr = wb w 26 1 ∧ wb o.word 52 3 = wb w 23 3) →
          ∃ t, exec (.acc a w) s = .next t ∧ OnlyStage s t a.core i ∧ (t.dev.core a.core).stage i = (k.stage i).stalled 2 s.dev.lt)
      ∧ (is 0x32 → WritesVd s a w i (fun l => Tbl.get k.t (row + l) 0) (exec (.tld a w) s))
      ∧ (is 0x33 → WritesTiles s a w i (fun u => u.ls = k.ls ∧ ∀ n, Tbl.get u.t n 0 =
          if row ≤ n ∧ n < row + 64 then stored (fun l => Tbl.get k.t (row + l) 0) (n - row) else Tbl.get k.t n 0) (exec (.tst a w) s))
      ∧ (is 0x34 → inside 256 → CleanLs k off 256 → WritesVd s a w i (fun l => wordAt (k.ls.read off 256).1 l) (exec (.ld a w) s))
      ∧ (is 0x35 → inside 256 → CleanLs k off 256 → WritesTiles s a w i (fun u => u.t = k.t
          ∧ (u.ls.read off 256).1 = (List.range 64).flatMap (fun l => bytesOf 4 (stored (fun l => wordAt (k.ls.read off 256).1 l) l))
          ∧ ∀ n, (n < off ∨ off + 256 ≤ n) → Mem.byte u.ls.data n = Mem.byte k.ls.data n) (exec (.st a w) s))
      ∧ (is 0x36 → inside 4096 → CleanLs k off 4096 → WritesTiles s a w i (fun u => u.ls = k.ls ∧ ∀ n, Tbl.get u.t n 0 =
          if 1024 * tb ≤ n ∧ n < 1024 * tb + 1024 then wordAt (k.ls.read off 4096).1 (n - 1024 * tb) else Tbl.get k.t n 0) (exec (.tfill a w) s))
      ∧ (is 0x37 → inside 4096 → WritesTiles s a w i (fun u => u.t = k.t
          ∧ (u.ls.read off 4096).1 = (List.range 1024).flatMap (fun n => bytesOf 4 (Tbl.get k.t (1024 * tb + n) 0))
          ∧ ∀ n, (n < off ∨ off + 4096 ≤ n) → Mem.byte u.ls.data n = Mem.byte k.ls.data n) (exec (.tspill a w) s))
      ∧ (is 0x34 → ¬ inside 256 → TrapsWith s a c i 2 0 (exec (.ld a w) s)) ∧ (is 0x35 → ¬ inside 256 → TrapsWith s a c i 2 0 (exec (.st a w) s))
      ∧ (is 0x36 → ¬ inside 4096 → TrapsWith s a c i 2 0 (exec (.tfill a w) s)) ∧ (is 0x37 → ¬ inside 4096 → TrapsWith s a c i 2 0 (exec (.tspill a w) s))

end Sys2Proof

namespace Sys2Proof

/-- CVTIN decodes a tile buffer's 1,024 elements and scales exactly to FP32, in ORDER. CVT packs the converted codes, writes the scale of each block, under
KIND 2 replaces the delayed maxima it read, and counts the non-finite and the saturated elements (R202, R203; blocks by R162 to R168). -/
def Conversions : Prop :=
  ∀ (a : At) (w : IWord) (c : CtxId) (i : Nat) (s : State), Issuing s a w c i → wb w 60 4 = 6 →
    let k := s.dev.core a.core
    let st := k.stage i
    let fb := fmtBits (wb w 20 4)
    let scaledF : Bool := decide (wb w 18 2 ≠ 0)
    let blk := 16 * 2 ^ wb w 16 2
    let delayed : Bool := decide (wb w 13 2 = 2) && scaledF
    let off := (st.reg (wb w 27 5)).toNat / 64 * 64
    let sc := (st.reg (wb w 7 5)).toNat / 64 * 64
    let cell (n : Nat) : Nat := 1024 * wb w 24 3 + (if wb w 15 1 = 1 then 64 * (n % 16) + n / 16 else n)
    let inside : Prop := k.cvLocal i w = true
    let goes (t : State) : Prop := GridOnly s t ∧ (∀ m, m ≠ a.core.val → t.dev.core m = s.dev.core m)
      ∧ StageGoes st ((t.dev.core a.core).stage i) (st.pc + 8) st.reg ∧ (t.dev.core a.core).v = k.v ∧ (t.dev.core a.core).m = k.m
      ∧ (t.dev.core a.core).acc = k.acc
    (wb w 53 6 = 0x39 → harIllegal w 0x39 = false → inside → CleanLs k off (128 * fb) → (scaledF = true → CleanLs k sc 64) →
      ∃ t, exec (.cvtin a w) s = .next t ∧ goes t ∧ (t.dev.core a.core).ls = k.ls
        ∧ (∀ n, n < 1024 → Tbl.get (t.dev.core a.core).t (cell n) 0 =
            rne32 (scaled (wb w 20 4) (wb w 18 2) (leNat (k.ls.read off (128 * fb)).1 / 2 ^ (fb * n) % 2 ^ fb)
              (if scaledF then ((k.ls.read sc (1024 / blk)).1.getD (n / blk) 0).toNat else 0)))
        ∧ ∀ x, (x < 1024 * wb w 24 3 ∨ 1024 * wb w 24 3 + 1024 ≤ x) → Tbl.get (t.dev.core a.core).t x 0 = Tbl.get k.t x 0)
    ∧ (wb w 53 6 = 0x38 → harIllegal w 0x38 = false → inside → (scaledF = true → CleanLs k sc 128) → (scaledF = true → off + 128 * fb ≤ sc ∨ sc + 128 ≤ off) →
      let vals := (List.range 1024).map (fun n => f32 (Tbl.get k.t (cell n) 0))
      let old (b : Nat) : Word := wordAt (k.ls.read (sc + 64) 32).1 b
      let rs := cvBlocks w vals (fun b => if delayed && old b != 0xFFFFFFFF then some (f32 (old b)) else none)
      ∃ t, exec (.cvt a w) s = .next t ∧ goes t ∧ (t.dev.core a.core).t = k.t
        ∧ ((t.dev.core a.core).ls.read off (128 * fb)).1 = packCodes fb (rs.flatMap (fun r => r.codes))
        ∧ (scaledF = true → ((t.dev.core a.core).ls.read sc (1024 / blk)).1 = rs.map (fun r => BitVec.ofNat 8 r.scale))
        ∧ (delayed = true → ((t.dev.core a.core).ls.read (sc + 64) 32).1 =
            (List.range 8).flatMap (fun b => bytesOf 4 (rne32 (absMax ((vals.drop (128 * b)).take 128)))))
        ∧ (t.dev.ctrAt (coreBase a.core + 0x48)).val = satAdd 32 (s.dev.ctrAt (coreBase a.core + 0x48)).val (rs.map (fun r => r.bad)).sum
        ∧ (t.dev.ctrAt (coreBase a.core + 0x4C)).val = satAdd 32 (s.dev.ctrAt (coreBase a.core + 0x4C)).val (rs.map (fun r => r.sat)).sum
        ∧ (t.dev.ctrAt (coreBase a.core + 0x40)).val = satAdd 64 (s.dev.ctrAt (coreBase a.core + 0x40)).val 1)
    ∧ (wb w 53 6 = 0x38 → harIllegal w 0x38 = false → ¬ inside → TrapsWith s a c i 2 0 (exec (.cvt a w) s))

end Sys2Proof

/-- Tile loads and stores of Harrow, and the format conversions. -/
def Obligations.TilesAndConversions : Prop := TileOperations ∧ Conversions

/-! ## The attention path (07) -/

namespace Sys2Proof

/-- An ATTN instruction of an OP that runs: licensed, its word and its record as R209 to R211 allow, its ranges in the local store and free of poison, no
array holding an operation (R207). -/
def AttnIssue (s : State) (a : At) (w : IWord) (c : CtxId) (i op : Nat) (r : AttRec) : Prop :=
  let k := s.dev.core a.core
  let off := ((k.stage i).reg (wb w 49 5)).toNat / 64 * 64
  Issuing s a w c i ∧ wb w 60 4 = 7 ∧ wb w 56 3 = op ∧ wb w 0 49 = 0 ∧ bitOf (s.dev.licOf a.core) 3 = true ∧ off + 64 ≤ k.ways * 32768
    ∧ CleanLs k off 64 ∧ r = attRec (recOf (k.ls.read off 64).1) ∧ r.reserved = false ∧ r.bad op = false
    ∧ (op ≠ 0 → (k.aset (wb w 54 2)).begun = true ∧ (k.aset (wb w 54 2)).compat = r.compat ∧ (k.aset (wb w 54 2)).dv16 = r.nv)
    ∧ (3 ≤ op → r.compat = false) ∧ (∀ x ∈ r.ranges op, x.1 + x.2 ≤ k.ways * 32768 ∧ CleanLs k x.1 x.2) ∧ k.fops = []

/-- The operation changes one state set, accumulators and the local store as told and counts itself, its empty rows and its rows that are not finite (R231);
the PC goes on by 8 and nothing else of the core or of the part changes. -/
def AttnGoes (s : State) (a : At) (w : IWord) (i empty nonfin : Nat) (f : Core → ASet → Prop) (o : Host.Outcome State Fault Refusal) : Prop :=
  let k := s.dev.core a.core
  let count (t : State) (off wd n : Nat) : Prop := (t.dev.ctrAt (coreBase a.core + off)).val = satAdd wd (s.dev.ctrAt (coreBase a.core + off)).val n
  ∃ t, o = .next t ∧ GridOnly s t ∧ (∀ m, m ≠ a.core.val → t.dev.core m = s.dev.core m)
    ∧ StageGoes (k.stage i) ((t.dev.core a.core).stage i) ((k.stage i).pc + 8) (k.stage i).reg
    ∧ (∀ j, j ≠ i → (t.dev.core a.core).stage j = k.stage j) ∧ (∀ n, n ≠ wb w 54 2 → (t.dev.core a.core).aset n = k.aset n)
    ∧ t.dev.core a.core = { k with
      acc := (t.dev.core a.core).acc, sets := (t.dev.core a.core).sets, ls := (t.dev.core a.core).ls, stages := (t.dev.core a.core).stages
      busy := k.busy + 1, harBusy := k.harBusy ||| 8 }
    ∧ count t 0x60 64 1 ∧ count t 0x68 32 empty ∧ count t 0x6C 32 nonfin ∧ f (t.dev.core a.core) ((t.dev.core a.core).aset (wb w 54 2))

end Sys2Proof

namespace Sys2Proof

/-- BEGIN opens a set with m = −∞ and l = +0 in every row and its slots of array 1 at +0.0; BLOCK runs its key blocks in order, counts the steps of
its multiplies and redoes a multiply whose checksum does not agree, with the same result (R223); FINAL writes the outputs and
the LSE line and closes the set; PARTIAL writes the unnormalised state and closes it; MERGE folds the records in order (R210 to R214, R218, R219).
Without the ATTN licence the instruction raises UNLICENSED_UNIT (R211). -/
def AttentionOperations : Prop :=
  ∀ (a : At) (w : IWord) (c : CtxId) (i : Nat) (s : State) (r : AttRec),
    let k := s.dev.core a.core
    let set := k.aset (wb w 54 2)
    (AttnIssue s a w c i 0 r → AttnGoes s a w i 0 0 (fun u x => x.begun = true ∧ x.compat = r.compat ∧ x.dv16 = r.nv ∧ x.oslot = r.oslot ∧ x.first = true
        ∧ (∀ n, n < 16 → Tbl.get x.m n 0 = 0xFF800000 ∧ Tbl.get x.l n 0 = 0) ∧ u.ls = k.ls
        ∧ ∀ n, Tbl.get u.acc n 0 = if accKey 1 r.oslot 0 ≤ n ∧ n < accKey 1 r.oslot 0 + 256 * r.nv then 0 else Tbl.get k.acc n 0)
      (exec (.begin a w) s))
    ∧ (AttnIssue s a w c i 1 r →
        let z := (List.range r.nb).foldl (fun y b => attBlock plainMma k r b y) ((), k.acc, set)
        let steps (t : State) (arr n : Nat) : Prop :=
          (t.dev.ctrAt (coreBase a.core + 0x10 + 8 * arr)).val = satAdd 64 (s.dev.ctrAt (coreBase a.core + 0x10 + 8 * arr)).val n
        AttnGoes s a w i 0 0 (fun u x => x = z.2.2 ∧ u.acc = z.2.1 ∧ u.ls = k.ls ∧ u.mism = k.mism) (exec (.block { a with runs := [] } w) s)
          ∧ (∃ t, exec (.block { a with runs := [] } w) s = .next t ∧ steps t 0 (r.nb * r.kPanels * r.kSteps) ∧ steps t 1 (r.nb * r.nv * r.vSteps))
          ∧ ∀ b n cell, b < r.nb → n < r.kPanels + r.nv → cell < 256 → k.mism.length < 2 → Quiet s.dev (coreBase a.core + 0x20) 16 →
              ∃ t, exec (.block { a with runs := [⟨b, n, 0, 256 + cell, 1⟩] } w) s = .next t ∧ GridOnly s t ∧ (t.dev.core a.core).aset (wb w 54 2) = z.2.2
                ∧ (t.dev.core a.core).acc = z.2.1 ∧ (t.dev.core a.core).ls = k.ls ∧ (t.dev.core a.core).mism = (s.dev.lt :: k.mism).take 2
                ∧ (t.dev.core a.core).lastLt = s.dev.lt
                ∧ (t.dev.ctrAt (coreBase a.core + 0x20)).val = (s.dev.ctrAt (coreBase a.core + 0x20)).val + 1)
    ∧ (AttnIssue s a w c i 2 r →
        let rows := (List.range 16).map (finalRow k r set)
        AttnGoes s a w i (rows.filter (fun x => x.2.2.1)).length (rows.filter (fun x => x.2.2.2)).length (fun u x => x = { set with begun := false }
          ∧ (∀ n col, n < 16 → col < 16 * r.nv → Tbl.get u.acc (oKey r n col) 0 = (finalRow k r set n).1.getD col 0)
          ∧ (∀ n, (n < accKey 1 r.oslot 0 ∨ accKey 1 r.oslot 0 + 256 * r.nv ≤ n) → Tbl.get u.acc n 0 = Tbl.get k.acc n 0)
          ∧ (u.ls.read r.out 64).1 = rows.flatMap (fun x => bytesOf 4 x.2.1)
          ∧ (∀ n, n < 16 → bitOf (leNat (u.ls.read (r.out + 64) 2).1) n = (finalRow k r set n).2.2.1)
          ∧ leNat (u.ls.read (r.out + 66) 2).1 = 2 ^ r.rows - 1 ∧ (u.ls.read (r.out + 68) 60).1 = List.replicate 60 0
          ∧ ∀ n, (n < r.out ∨ r.out + 128 ≤ n) → Mem.byte u.ls.data n = Mem.byte k.ls.data n) (exec (.finalAcc a w) s))
    ∧ (AttnIssue s a w c i 3 r → AttnGoes s a w i 0 0 (fun u x => x = { set with begun := false } ∧ u.acc = k.acc
          ∧ leNat (u.ls.read r.out 2).1 = a.core.val ∧ leNat (u.ls.read (r.out + 2) 2).1 = 2 ^ r.rows - 1 ∧ leNat (u.ls.read (r.out + 4) 1).1 = r.nv
          ∧ (∀ n, n < 16 → wordAt (u.ls.read (r.out + 64) 64).1 n = Tbl.get set.m n 0 ∧ wordAt (u.ls.read (r.out + 128) 64).1 n = Tbl.get set.l n 0)
          ∧ (∀ n col, n < 16 → col < 16 * r.nv →
              wordAt (u.ls.read (r.out + 192) (1024 * r.nv)).1 (16 * r.nv * n + col) = Tbl.get k.acc (oKey r n col) 0)
          ∧ ∀ n, (n < r.out ∨ r.out + 192 + 1024 * r.nv ≤ n) → Mem.byte u.ls.data n = Mem.byte k.ls.data n) (exec (.partialAcc a w) s))
    ∧ (AttnIssue s a w c i 4 r →
        let z := (List.range r.nb).foldl (fun x n => (List.range 16).foldl (fun x j => mergeRow k r (r.out + n * r.stride) j x) x) (k.acc, set)
        AttnGoes s a w i 0 0 (fun u x => x = z.2 ∧ u.acc = z.1 ∧ u.ls = k.ls) (exec (.merge a w) s))
    ∧ (Issuing s a w c i → wb w 60 4 = 7 → wb w 56 3 = 0 → bitOf (s.dev.licOf a.core) 3 = false →
        TrapsWith s a c i 6 0 (exec (.begin a w) s))

end Sys2Proof

namespace Sys2Proof

/-- A row that sees exactly one key of a block, its score finite, and had seen none before, gives that key the weight 1.0 and every other key +0.0, and holds
l = 1.0 and m = that score; a row that sees none keeps m = −∞ and weighs every key +0.0, and no NaN arises (R213, R215, R216). -/
def SoftmaxOfOneKey : Prop :=
  (∀ (n j : Nat) (x : Word), n ≤ 64 → j < n → (f32 x).isFin = true →
    let t := (List.range n).map (fun i => if i = j then x else 0xFF800000)
    softRow 0xFF800000 0 t = (x, 0x3F800000, 0, (List.range n).map (fun i => if i = j then 0x3F800000 else 0)))
  ∧ ∀ (n : Nat) (l : Word), n ≤ 64 → 0 < n → (f32 l).isNan = false → ((f32 l).isZero = false ∨ l = 0) →
    softRow 0xFF800000 l (List.replicate n 0xFF800000) = (0xFF800000, l, 0x3F800000, List.replicate n 0)

end Sys2Proof

/-- The attention unit. -/
def Obligations.Attention : Prop := AttentionOperations ∧ SoftmaxOfOneKey

/-! ## Loads, stores and the stacked cache (08) -/

namespace Sys2Proof

/-- What follows an access by a stage: the part as the access left it, the stage's instruction done, its register SD written where a value is given. -/
def AfterAccess (s : State) (d : Dev) (a : At) (i : Nat) (sd : Option (Nat × Word)) (o : Host.Outcome State Fault Refusal) : Prop :=
  ∃ t, o = .next t ∧ t.pending = s.pending ∧ t.sec = s.sec ∧ (∀ m, m ≠ a.core.val → t.dev.core m = d.core m)
    ∧ StageGoes ((d.core a.core).stage i) ((t.dev.core a.core).stage i) (((d.core a.core).stage i).pc + 8)
        (fun r => match sd with | some (n, v) => if r = n then v else ((d.core a.core).stage i).reg r | none => ((d.core a.core).stage i).reg r)
    ∧ t.dev = { d with gr := { d.gr with cores := t.dev.gr.cores } }

end Sys2Proof

namespace Sys2Proof

/-- LOAD and LOAD_NA copy a block to the local store from the L1 line that holds it, which is then its set's most recent, or from the cache: LOAD
allocates the L1 line in the lowest free way of its set that is not local store, or, all being held, in the one the tree selects; LOAD_NA does not
(R116, R244). A length out of range raises ILLEGAL_INSTRUCTION. -/
def LoadOperations : Prop :=
  ∀ (a : At) (w : IWord) (c : CtxId) (i : Nat) (s : State) (dpa place home : Nat), Issuing s a w c i → wb w 60 4 = 4 →
    let k := s.dev.core a.core
    let st := k.stage i
    let ac := s.dev.coreAcc a.core i c
    let iova := ((st.reg (wb w 51 5)).toNat + 2 ^ 32 * (st.reg (wb w 46 5)).toNat) / 64 * 64
    let off := (st.reg (wb w 41 5)).toNat / 64 * 64
    let line := dpa / 128 * 128
    let half (p : Blk × Blk) : Blk := if dpa / 64 % 2 = 0 then p.1 else p.2
    let goes : Prop := s.dev.xlate ac.ctx ac.cl ac.ag ac.who iova false = (s.dev, .gran dpa place home)
    let mates : List L1Line := k.l1.filter (fun e => Config.l1Set (e.line / 128) = Config.l1Set (line / 128))
    let free (v : Nat) : Prop := k.ways ≤ v ∧ v < 8 ∧ ∀ e ∈ mates, e.way ≠ v
    let tree : Nat := Tbl.get k.l1lru (Config.l1Set (line / 128)) 0
    let used (t : State) (v : Nat) : Prop := Tbl.get (t.dev.core a.core).l1lru (Config.l1Set (line / 128)) 0 = touchTree tree v
    let fills (t : State) (b : Blk) : Prop := ((t.dev.core a.core).ls.read off 64).1 = b.bytes
      ∧ (∀ n, (n < off ∨ off + 64 ≤ n) → Mem.byte (t.dev.core a.core).ls.data n = Mem.byte k.ls.data n)
      ∧ StageGoes st ((t.dev.core a.core).stage i) (st.pc + 8) st.reg
    (wb w 34 7 = 1 → wb w 0 34 = 0 → off + 64 ≤ k.ways * 32768 → goes →
      (∀ e, k.l1Find line = some e → (half e.pair).poison = false →
        let out (o : Host.Outcome State Fault Refusal) : Prop := ∃ t, o = .next t ∧ OnlyCore s t a.core ∧ fills t (half e.pair)
          ∧ (t.dev.core a.core).l1 = k.l1 ∧ used t e.way
        (wb w 56 3 = 0 → out (exec (.accessLoad a w []) s)) ∧ (wb w 56 3 = 4 → out (exec (.loadNa a w) s)))
      ∧ ∀ b0 b1 g d, k.l1Find line = none → s.dev.fallowTrap ac a.core [iova] = false → s.dev.secRead ac.half place home line = .ok d b0 b1 g false →
        d.gr = s.dev.gr → d.stopWanted a.core = false → (half (b0, b1)).poison = false → (half (b0, b1)).bytes.length = 64 →
        let out (o : Host.Outcome State Fault Refusal) (held : State → Prop) : Prop := ∃ t, o = .next t ∧ fills t (half (b0, b1)) ∧ held t
          ∧ (∀ m, m ≠ a.core.val → t.dev.core m = s.dev.core m) ∧ t.dev = { d with gr := { d.gr with cores := t.dev.gr.cores } }
        (wb w 56 3 = 0 → ∀ v, free v → (∀ u, u < v → ¬ free u) →
            out (exec (.accessLoad a w []) s) (fun t => (t.dev.core a.core).l1 = k.l1 ++ [L1Line.of line v b0 b1] ∧ used t v))
          ∧ (wb w 56 3 = 0 → (∀ u, ¬ free u) → ∀ v, plruPick tree (fun u => decide (k.ways ≤ u)) = some v →
            out (exec (.accessLoad a w []) s) (fun t => used t v ∧ (t.dev.core a.core).l1
              = k.l1.filter (fun e => !(decide (Config.l1Set (e.line / 128) = Config.l1Set (line / 128)) && decide (e.way = v))) ++ [L1Line.of line v b0 b1]))
          ∧ (wb w 56 3 = 4 → out (exec (.loadNa a w) s) (fun t => (t.dev.core a.core).l1 = k.l1)))
    ∧ (wb w 56 3 = 0 → (wb w 34 7 = 0 ∨ 64 < wb w 34 7) → TrapsWith s a c i 1 0 (exec (.accessLoad a w []) s))

/-- LOAD_S reads 4 bytes into SL; STORE and STORE_S write through the cache and update the L1 line they touch; a translation fault raises
TRANSLATION_FAULT; an uncorrectable block of the local store retires the core (R116, R120, R243, R244). A core with 64 requests
outstanding waits with the next (R119). -/
def NarrowAndStoreOperations : Prop :=
  (∀ (a : At) (w : IWord) (c : CtxId) (i : Nat) (s : State) (dpa place home : Nat), Issuing s a w c i → wb w 60 4 = 4 →
    let k := s.dev.core a.core
    let st := k.stage i
    let ac := s.dev.coreAcc a.core i c
    let iova := (st.reg (wb w 51 5)).toNat + 2 ^ 32 * (st.reg (wb w 46 5)).toNat
    let off := (st.reg (wb w 41 5)).toNat / 64 * 64
    let line := dpa / 128 * 128
    let half (p : Blk × Blk) : Blk := if dpa / 64 % 2 = 0 then p.1 else p.2
    let goesTo (at_ : Nat) (wr : Bool) (d : Dev) : Prop := d.xlate ac.ctx ac.cl ac.ag ac.who at_ wr = (d, .gran dpa place home)
    let bulk : Prop := wb w 34 7 = 1 ∧ wb w 0 34 = 0 ∧ off + 64 ≤ k.ways * 32768
    (∀ e, wb w 56 3 = 2 → wb w 0 41 = 0 → goesTo (iova / 4 * 4) false s.dev → k.l1Find line = some e → (half e.pair).poison = false →
      ∃ t, exec (.loadS a w) s = .next t ∧ OnlyCore s t a.core
        ∧ t.dev.core a.core = { k with stages := (t.dev.core a.core).stages, l1lru := (t.dev.core a.core).l1lru }
        ∧ (∀ j, j ≠ i → (t.dev.core a.core).stage j = k.stage j) ∧ StageGoes st ((t.dev.core a.core).stage i) (st.pc + 8)
          (fun r => if r = wb w 41 5 then BitVec.ofNat 32 (leNat (((half e.pair).bytes.drop (iova / 4 * 4 % 64)).take 4)) else st.reg r))
    ∧ (∀ d, wb w 56 3 = 1 → bulk → k.ls.par (off / 64) ≠ .bad → s.dev.writeBlocks ac (iova / 64 * 64) [k.ls.readBlk (off / 64)] = .ok d () →
      d.gr = s.dev.gr → d.stopWanted a.core = false → goesTo (iova / 64 * 64) true d → ∃ t, exec (.store { a with hits := [] } w) s = .next t ∧ AfterAccess s d a i none (.next t)
        ∧ (t.dev.core a.core).l1 = (k.l1Put dpa (k.ls.readBlk (off / 64))).l1 ∧ (t.dev.core a.core).ls = k.ls)
    ∧ (wb w 56 3 = 1 → bulk → k.ls.par (off / 64) = .bad → ∃ t, exec (.store { a with hits := [] } w) s = .next t ∧ t.dev.coreGood a.core = false)
    ∧ (∀ d, wb w 56 3 = 3 → wb w 0 41 = 0 → s.dev.writeRange ac (iova / 4 * 4) (bytesOf 4 (st.reg (wb w 41 5))) = .ok d () → d.gr = s.dev.gr →
      d.stopWanted a.core = false → goesTo (iova / 4 * 4) true d → ∃ t, exec (.storeS a w) s = .next t ∧ AfterAccess s d a i none (.next t)
        ∧ (t.dev.core a.core).l1 = (k.l1Store dpa (bytesOf 4 (st.reg (wb w 41 5)))).l1 ∧ (t.dev.core a.core).ls = k.ls)
    ∧ (∀ f, wb w 56 3 = 2 → wb w 0 41 = 0 → s.dev.xlate ac.ctx ac.cl ac.ag ac.who (iova / 4 * 4) false = (s.dev, .fault f) →
        TrapsWith s a c i 7 0 (exec (.loadS a w) s)))
  ∧ ∀ (a : At) (w : IWord) (c : CtxId) (i : Nat) (s : State), Fetched s a c i → s.dev.stopWanted a.core = false → wb w 60 4 = 4 →
      s.dev.llcFull a.core i = true →
      let waits (o : Host.Outcome State Fault Refusal) : Prop := ∃ t, o = .next t ∧ OnlyStage s t a.core i
        ∧ (t.dev.core a.core).stage i = ((s.dev.core a.core).stage i).stalled 10 s.dev.lt
      (wb w 56 3 = 0 → waits (exec (.accessLoad a w []) s)) ∧ (wb w 56 3 = 1 → waits (exec (.store { a with hits := [] } w) s))
        ∧ (wb w 56 3 = 2 → waits (exec (.loadS a w) s)) ∧ (wb w 56 3 = 3 → waits (exec (.storeS a w) s))
        ∧ (wb w 56 3 = 4 → waits (exec (.loadNa a w) s))

end Sys2Proof

/-- The ACCESS class. -/
def Obligations.AccessOperations : Prop := LoadOperations ∧ NarrowAndStoreOperations

/-- A whole sector written to the stacked cache is what the next read of it returns, from the cache and without the granary, wherever the line had to be
put and whatever it evicted; a fallow entry that held it is gone (R237, R238, R254). The ways and tags of the set hold no upset bit (an error that
retired the line's pair would write the line back, R259). -/
def Obligations.CacheReadAfterWrite : Prop :=
  ∀ (d e : Dev) (from_ place home a key : Nat) (b0 b1 x0 x1 : Blk) (bs : List Byte) (g r : Bool),
    a % 128 = 0 → bs.length = 128 → b0.poison = false → b1.poison = false → b0.bytes.length = 64 → b1.bytes.length = 64 →
    (∀ m ∈ d.mm.lines, ∀ i, i < 4 → m.st.par i = .clean ∨ m.st.par i = .poisoned) → d.mm.tags.chk = [] →
    d.secWrite from_ place home a 0 [b0, b1] bs key = .ok e x0 x1 g r →
    (∃ f, e.secRead from_ place home a = .ok f b0 b1 false false ∧ f.mm.gran = e.mm.gran)
      ∧ e.fallowAt (locOf place home (a / 256)).1 a 128 = []

namespace Sys2Proof

/-- RANGE instructions write the result word to SD and range descriptors complete OK with it in RESULT, the effect being one and the same: FALLOW enters the
range, RESOW and UNPIN remove the context's entries, PIN takes a pair for each line, WRITEBACK cleans a line and INVALIDATE also drops it; dirty sectors of
a fallow range go once their pin is released; a length below 256 gives OUTCOME 6 (R245 to R250, R252, R254, R255). -/
def RangeOperations : Prop :=
  (∀ (a : At) (w : IWord) (c : CtxId) (i : Nat) (s : State) (d : Dev) (v : Word), Issuing s a w c i → wb w 60 4 = 9 → wb w 0 35 = 0 →
    let st := (s.dev.core a.core).stage i
    let iova := (st.reg (wb w 51 5)).toNat + 2 ^ 32 * (st.reg (wb w 46 5)).toNat
    let runs (op : Nat) : Prop := wb w 56 3 = op ∧ (op ≠ 2 → wb w 35 1 = 0)
      ∧ s.dev.rangeOp (s.dev.coreAcc a.core i c) op (decide (wb w 35 1 = 1)) iova (st.reg (wb w 41 5)).toNat = .ok d v
      ∧ d.stopWanted a.core = false
    let gives (o : Host.Outcome State Fault Refusal) : Prop := AfterAccess s d a i (some (wb w 36 5, v)) o
    (runs 0 → gives (exec (.rangePin a w) s)) ∧ (runs 1 → gives (exec (.rangeUnpin a w) s)) ∧ (runs 2 → gives (exec (.rangeFallow a w) s))
      ∧ (runs 3 → gives (exec (.rangeResow a w) s)) ∧ (runs 4 → gives (exec (.rangeWriteback a w) s))
      ∧ (runs 5 → gives (exec (.rangeInvalidate a w) s)))
  ∧ (∀ (tag : Tag) (s : State) (v : Work) (d : Dev) (x : Word), s.dev.work tag = some v → v.phase = .dispatched → (s.dev.ctx v.ctx).state = .active →
      let runs (op : Nat) : Prop := dOp v.desc = 0x400 + op ∧ s.dev.rangeOp (v.acc tag .granary) op (decide (fieldB v.desc 28 1 % 2 = 1))
        (fieldB v.desc 16 8) (fieldB v.desc 24 4) = .ok d x ∧ d.work tag = some v ∧ v.marked = false ∧ v.unreachable = false
      let ends (o : Host.Outcome State Fault Refusal) : Prop := ∃ t, o = .next t ∧ (t.dev.work tag).map (·.phase) = some (.finished 0 x)
        ∧ t = { s with dev := { d with hq := { d.hq with infl := t.dev.hq.infl } } } ∧ ∀ n : Nat, n ≠ tag.val → t.dev.work n = d.work n
      (runs 0 → ends (exec (.pin tag) s)) ∧ (runs 1 → ends (exec (.unpin tag) s)) ∧ (runs 2 → ends (exec (.fallow tag) s))
        ∧ (runs 3 → ends (exec (.resow tag) s)) ∧ (runs 4 → ends (exec (.writeback tag) s)) ∧ (runs 5 → ends (exec (.invalidate tag) s)))
  ∧ ∀ (d : Dev) (ac : Acc) (trap : Bool) (addr len dpa place home : Nat), place < 2 →
      let n := len / 256
      let num := dpa / 256
      let word (outcome count : Nat) : Word := BitVec.ofNat 32 (outcome + 256 * count)
      let x := d.half place
      (n = 0 → ∀ op, d.rangeOp ac op trap addr len = .ok d (word 6 0))
      ∧ (0 < n → n ≤ 2 ^ 13 → d.xlate ac.ctx ac.cl .granary none (addr / 256 * 256) false = (d, .gran dpa place home) →
        addr / 256 * 256 % 2 ^ 21 + 256 * n ≤ 2 ^ 21 →
        (∀ e, freeEntry x.fallow = some e → d.rangeOp ac 2 trap addr len =
            .ok (d.modHalf place (fun y => { y with fallow := Tbl.put y.fallow e ⟨256 * num, n, ac.ctx, trap⟩ })) (word 0 n))
        ∧ (let hit (e : RangeEntry) : Bool := decide (e.ctx = ac.ctx) && e.hits (256 * num) (256 * n)
           let gone := (x.fallow.filter (fun e => hit e.2)).length
           d.rangeOp ac 3 trap addr len = .ok (d.modHalf place (fun y => { y with fallow := y.fallow.filter (fun e => !hit e.2) }))
             (if gone = 0 then word 4 0 else word 0 (min gone 0xFFFFFF)))
        ∧ (∃ e v, d.rangeOp ac 1 trap addr len = .ok e v ∧ (∀ f ∈ (e.half place).pins, f.2.ctx ≠ ac.ctx ∨ f.2.inside (256 * num) (256 * n) = false)
            ∧ e.mm.gran = d.mm.gran ∧ (x.fallow = [] → e.mm.lines.length = d.mm.lines.length)
            ∧ ∀ l f, d.mm.lines = [l] → l.half = place → l.valid = 3 → l.dirty = 3 → f ∈ x.pins → f.2.ctx = ac.ctx →
                f.2.inside (256 * num) (256 * n) = true → f.2.hits (256 * l.num) 256 = true → d.fallowAt place (256 * l.num) 128 ≠ [] →
                d.fallowAt place (256 * l.num + 128) 128 ≠ [] → e.mm.lines = [])
        ∧ (let at_ := locOf place home num
           ∀ l e, n = 1 → d.findLine at_.1 at_.2.1 at_.2.2 num = some l → l.valid = 3 → l.num = num → x.pins.all (fun f => !f.2.hits (256 * num) 256) = true →
             freeEntry x.pins = some e → d.pinnedAfter ⟨place, home, num, 1⟩ at_.1 at_.2.1 at_.2.2 ≤ d.pinWays place / 2 →
             d.layerHeld (layerOf l.pair) place = false → d.pairRetired place at_.2.1 at_.2.2 l.pair = false →
             (∀ m ∈ d.mm.lines, d.wbHeld m = false ∧ ∀ i, i < 4 → m.st.par i = .clean ∨ m.st.par i = .poisoned) →
             ∃ f, d.rangeOp ac 0 trap addr len = .ok f (word 0 1) ∧ Tbl.find (f.half place).pins e = some ⟨256 * num, 1, ac.ctx, false⟩
               ∧ f.findLine at_.1 at_.2.1 at_.2.2 num = some { l with
                 pin := true, enc := 0, two := true, way := l.way / 2 * 2, st := l.plain })
        ∧ (let at_ := locOf place home num
           ∀ l, n = 1 → d.findLine at_.1 at_.2.1 at_.2.2 num = some l → l.dirty ≠ 0 → l.dirty < 4 → l.pin = false → d.wbHeld l = false →
             (∀ i, i < 4 → l.st.par i = .clean ∨ l.st.par i = .poisoned) →
             (∃ f, d.rangeOp ac 4 trap addr len = .ok f (word 0 1) ∧ f.findLine at_.1 at_.2.1 at_.2.2 num = some { l with dirty := 0 }
               ∧ f.mm.gran = (d.writeBack l).mm.gran)
             ∧ ∃ f, d.rangeOp ac 5 trap addr len = .ok f (word 0 1) ∧ f.findLine at_.1 at_.2.1 at_.2.2 num = none
               ∧ f.mm.gran = (d.writeBack l).mm.gran))

end Sys2Proof

namespace Sys2Proof

/-- PRESSURE_WINDOW, at the end of a 100 µs window, restarts the half's counts and keeps the miss ratio: a window above the threshold with lines pinned
lengthens the run, at 8 the event is due once, and a window not above ends it. LLC_PIN_LIMIT takes a percentage up to 75 and ignores a higher one (R248, R251). -/
def PinPressure : Prop :=
  ∀ (h : HalfId) (s : State),
    let x := s.dev.half h
    let thresh := (s.dev.reg 0xA0014).toNat % 2048
    let ratio := if x.winReq = 0 then 0 else 1024 * x.winMiss / x.winReq
    let restarted : LlcHalf := { x with winReq := 0, winMiss := 0, ratio := ratio }
    let onlyHalf (y : LlcHalf) (o : Host.Outcome State Fault Refusal) : Prop := ∃ t, o = .next t ∧ t.dev.half h = y
      ∧ t = { s with dev := { s.dev with mm := { s.dev.mm with halves := t.dev.mm.halves } } } ∧ ∀ n, n ≠ h.val → t.dev.half n = s.dev.half n
    let above : Prop := 0 < x.winReq ∧ thresh < 1024 ∧ if thresh = 0 then 0 < x.winMiss else thresh < ratio
    (s.dev.lt % 10000 = 0 →
      (above → s.dev.pinLinesOf h ≠ 0 → x.run < 7 → onlyHalf { restarted with run := x.run + 1 } (exec (.pressureWindow h) s))
      ∧ (above → s.dev.pinLinesOf h ≠ 0 → 7 ≤ x.run → x.raised = true → onlyHalf { restarted with run := 8 } (exec (.pressureWindow h) s))
      ∧ (above → s.dev.pinLinesOf h ≠ 0 → 7 ≤ x.run → x.raised = false → ∃ t, exec (.pressureWindow h) s = .next t
          ∧ t.dev.half h = { restarted with run := 8, raised := true })
      ∧ (above → s.dev.pinLinesOf h = 0 → onlyHalf restarted (exec (.pressureWindow h) s))
      ∧ (¬ above → onlyHalf { restarted with run := 0, raised := false } (exec (.pressureWindow h) s)))
    ∧ (∀ val : Word, val.toNat % 128 ≤ 75 → s.dev.reaches .pcie 0xA0100 = true →
        exec (.llcPinLimit h val) s = .next { s with dev := s.dev.setReg (0xA0100 + 0x100 * h.val) (BitVec.ofNat 32 (val.toNat % 128)) })
    ∧ ∀ val : Word, 75 < val.toNat % 128 → exec (.llcPinLimit h val) s = .next s

end Sys2Proof

/-- Operations on ranges of the cache, and pinned lines. -/
def Obligations.RangesAndPins : Prop := RangeOperations ∧ PinPressure

/-! ## Granary and translation (09) -/

namespace Sys2Proof

/-- No context holds a resume record that still waits to be written (R127). -/
def NoneUnsaved (d : Dev) : Prop := ∀ e ∈ d.hq.ctxs, e.2.park.any (fun p => p.unsaved) = false

/-- Nothing of the part but one channel group has changed. -/
def OnlyGroup (s t : State) (g : Nat) : Prop :=
  t = { s with dev := { s.dev with mm := { s.dev.mm with groups := t.dev.mm.groups } } } ∧ ∀ n, n ≠ g → t.dev.group n = s.dev.group n

end Sys2Proof

namespace Sys2Proof

/-- A walk reads the level 3, 2 and 1 entries of the context's tree in host memory; a GRANARY leaf gives its DPA with the offset in the page, its PLACE and
its HOME_CORE, and is cached. RANGE comes first, then NOT_PRESENT at the level of an INVALID entry, then SPACE, then PERMISSION (R273 to R275, R278). -/
def TranslationWalk : Prop :=
  ∀ (d : Dev) (c : CtxId) (ag : Agent) (who : Option Issuer) (iova : Nat) (wr : Bool),
    Quiet d 0xE0100 32 → Quiet d 0xE0104 32 → d.mm.walks = [] → d.env.dead = [] →
    let root := d.wide64 (0xE1004 + 16 * c.val)
    let a3 := root + 8 * (iova / 2 ^ 39 % 512)
    let e3 := d.hostNat a3 8
    let a2 := e3 / 2 ^ 12 % 2 ^ 40 * 2 ^ 12 + 8 * (iova / 2 ^ 30 % 512)
    let e2 := d.hostNat a2 8
    let a1 := e2 / 2 ^ 12 % 2 ^ 40 * 2 ^ 12 + 8 * (iova / 2 ^ 21 % 512)
    let leaf := d.hostNat a1 8
    let base := leaf / 2 ^ 21 % 2 ^ 31 * 2 ^ 21
    let valid : Prop := (d.reg (0xE1008 + 16 * c.val)).toNat % 2 = 1
    let table (e : Nat) : Prop := e % 2 ^ 12 = 1 ∧ e < 2 ^ 52
    let faults (k lv e : Nat) : Prop := ∃ f, (d.xlate c none ag who iova wr).2 = .fault f ∧ f.kind = k ∧ f.wr = wr ∧ f.level = lv ∧ f.entry = e
    let good : Prop := leaf % 4 = 2 ∧ leaf / 2 ^ 17 % 16 = 0 ∧ leaf < 2 ^ 52 ∧ leaf / 16 % 4 ≠ 3 ∧ leaf / 64 % 2048 ≤ 1295
      ∧ d.hole base = false ∧ d.hole (base + 2 ^ 21 - 1) = false
    (2 ^ 48 ≤ iova → faults 4 0 0)
    ∧ (iova < 2 ^ 48 → ¬ valid → faults 1 3 0)
    ∧ (iova < 2 ^ 48 → valid → e3 % 4 = 0 → faults 1 3 e3)
    ∧ (iova < 2 ^ 48 → valid → table e3 → e2 % 4 = 0 → faults 1 2 e2)
    ∧ (iova < 2 ^ 48 → valid → table e3 → table e2 → leaf % 4 = 0 → faults 1 1 leaf)
    ∧ (iova < 2 ^ 48 → valid → table e3 → table e2 → good → ag = .front → faults 5 1 leaf)
    ∧ (iova < 2 ^ 48 → valid → table e3 → table e2 → good → ag ≠ .front → (if wr then leaf / 8 % 2 = 0 else leaf / 4 % 2 = 0) → faults 2 1 leaf)
    ∧ (iova < 2 ^ 48 → valid → table e3 → table e2 → good → ag ≠ .front → (if wr then leaf / 8 % 2 = 1 else leaf / 4 % 2 = 1) →
        ∃ e, d.xlate c none ag who iova wr = (e, .gran (base + iova % 2 ^ 21) (leaf / 16 % 4) (leaf / 64 % 2048))
          ∧ e.mm.walks = [⟨c, 1, iova / 2 ^ 21, leaf⟩] ∧ e.mm.lines = d.mm.lines ∧ e.env = d.env
          ∧ (e.ctrAt 0xE0100).val = satAdd 32 (d.ctrAt 0xE0100).val 1)

end Sys2Proof

namespace Sys2Proof

/-- XLT_INVAL_CMD starts an invalidation of the range in its registers, or is ignored while one runs; XLT_INVAL_COMPLETE drops every cached walk result of
the range, in the central and the cluster caches, keeps the others and clears BUSY. An ATS Invalidate Request drops the matching ATC entries and is answered (R275, R276). -/
def Invalidations : Prop :=
  (∀ s : State, s.dev.reaches .pcie 0xE0020 = true → s.dev.mm.inval = none →
    ∃ c : CtxId, c.val = (s.dev.reg 0xE0010).toNat % 256 ∧ exec .xltInvalCmd s = .next { s with dev := { s.dev with mm := { s.dev.mm with
      inval := some (c, decide ((s.dev.reg 0xE0010).toNat / 256 % 2 = 1), s.dev.wide64 0xE0018, (s.dev.reg 0xE001C).toNat) } } })
  ∧ (∀ s : State, s.dev.mm.inval ≠ none → exec .xltInvalCmd s = .next s)
  ∧ (∀ (s : State) (r : CtxId × Bool × Nat × Nat), s.dev.mm.inval = some r → ∃ t, exec .xltInvalComplete s = .next t
      ∧ t = { s with dev := { s.dev with mm := { s.dev.mm with inval := none, walks := t.dev.mm.walks, clWalks := t.dev.mm.clWalks } } }
      ∧ (∀ w, w ∈ t.dev.mm.walks ↔ w ∈ s.dev.mm.walks ∧ w.inRange r = false)
      ∧ (∀ cl w, (∃ e ∈ t.dev.mm.clWalks, e.1 = cl ∧ w ∈ e.2) ↔ (∃ e ∈ s.dev.mm.clWalks, e.1 = cl ∧ w ∈ e.2) ∧ w.inRange r = false)
      ∧ (r.2.1 = true → r.2.2.2 = 0 → t.dev.mm.walks = [] ∧ t.dev.mm.clWalks = []))
  ∧ ∀ (s : State) (pasid : BitVec 20) (page n : Nat), Quiet s.dev 0xE0110 32 → ∃ t, exec (.atsInvalidateRequest pasid page n) s = .next t
      ∧ t = { s with dev := { counted s.dev 0xE0110 32 with
        mm := { s.dev.mm with atc := t.dev.mm.atc }, env := { s.dev.env with invals := s.dev.env.invals ++ [(pasid, page, n)] } } }
      ∧ ∀ e, e ∈ t.dev.mm.atc ↔ e ∈ s.dev.mm.atc ∧ ¬ (e.pasid = pasid ∧ page ≤ e.page ∧ e.page < page + n)

end Sys2Proof

/-- Translation walks and invalidations. -/
def Obligations.Translation : Prop := TranslationWalk ∧ Invalidations

namespace Sys2Proof

/-- ATS_COMPLETION that grants access is held in the ATC; one that grants none makes the waiting Drill send a page request where PRI_EN is 1. PRI_RESPONSE with
success makes the page accessible as asked and puts it into the ATC; any other code, and PRI_TIMEOUT after XLT_PRI_WAIT, fail the waiting access, here a page
of PAGE_TOUCH, once the request is gone, but for a wait that a pre-emption has abandoned (R276, R277, R283, R293). -/
def HostPages : Prop :=
  (∀ (s : State) (c : CtxId) (page target : Nat) (rd wr : Bool), s.dev.env.ats = true →
    let pasid := (s.dev.ctx c).pasid
    (rd = true ∨ wr = true → s.dev.mm.atc.length < 16384 → ∃ t, exec (.atsCompletion c page target rd wr) s = .next t
      ∧ (⟨pasid, page, ⟨target, rd, wr⟩⟩ : AtcEntry) ∈ t.dev.mm.atc ∧ t.dev.hostAnswer pasid page = ⟨target, rd, wr⟩
      ∧ (∀ e ∈ t.dev.mm.atc, e.pasid = pasid → e.page = page → e.tr = ⟨target, rd, wr⟩) ∧ t.dev.mm.pri = s.dev.mm.pri ∧ t.dev.gr = s.dev.gr)
    ∧ (∀ cl, rd = false → wr = false → s.dev.runningDrill c = some cl → (s.dev.reg (0xE1008 + 16 * c.val)).toNat / 2 % 2 = 1 →
        s.dev.priPending c page = false → s.dev.mm.pri.length < 80 → (∀ p ∈ s.dev.mm.pri, p.who ≠ .drill cl) → Quiet s.dev 0xE0108 32 →
        ∀ x xs, (s.dev.cluster cl).drill = x :: xs → ∃ t, exec (.atsCompletion c page target rd wr) s = .next t
          ∧ t.dev.mm.pri = s.dev.mm.pri ++ [⟨c, page, .drill cl, (x.touch page).1, s.dev.lt, (x.touch page).2, true⟩] ∧ t.dev.gr = s.dev.gr))
  ∧ (∀ (s : State) (c : CtxId) (page : Nat) (p : PageReq), s.dev.mm.pri.find? (fun p => p.ctx = c && p.page = page) = some p →
      let pasid := (s.dev.ctx c).pasid
      let gone : List PageReq := s.dev.mm.pri.filter (fun q => !(decide (q.ctx = c) && decide (q.page = page)))
      ((∀ q st, p.who ≠ .queue q st) → (∀ r st, p.who ≠ .ring r st) → Quiet s.dev 0xE0108 32 → ∃ t, exec (.priResponse c page 0) s = .next t
        ∧ (t.dev.hostAnswer pasid page).allows p.wr = true ∧ t.dev.mm.pri = gone ∧ t.dev.gr = s.dev.gr ∧ t.dev.hq = s.dev.hq
        ∧ (s.dev.env.ats = true → ∃ e ∈ t.dev.mm.atc, e.pasid = pasid ∧ e.page = page ∧ e.tr.allows p.wr = true))
      ∧ (p.alive = false → ∀ code, code ≠ 0 → exec (.priResponse c page code) s
          = .next { s with dev := { s.dev with mm := { s.dev.mm with pri := gone } } }))
  ∧ (∀ (s : State) (c : CtxId) (page : Nat) (p : PageReq) (tag : Tag) (v : Work), s.dev.mm.pri.find? (fun p => p.ctx = c && p.page = page) = some p →
      p.who = .work tag → p.alive = true → s.dev.work tag = some v → dOp v.desc = 0x500 → (s.dev.ctx c).noRing = true →
      let fails (o : Host.Outcome State Fault Refusal) : Prop := ∃ t, o = .next t ∧ t.dev.work tag = some { v with progress := v.progress + 1 + 2 ^ 64 }
        ∧ t.dev.mm.pri = s.dev.mm.pri.filter (fun q => !(decide (q.ctx = c) && decide (q.page = page))) ∧ t.dev.gr = s.dev.gr ∧ t.dev.hq.ctxs = s.dev.hq.ctxs
      (∀ code, code ≠ 0 → fails (exec (.priResponse c page code) s))
        ∧ (p.lt + 100 * ((s.dev.reg 0xE0004).toNat % 1024) ≤ s.dev.lt → fails (exec (.priTimeout c page) s))
        ∧ (s.dev.lt < p.lt + 100 * ((s.dev.reg 0xE0004).toNat % 1024) → exec (.priTimeout c page) s = .next s))

end Sys2Proof

namespace Sys2Proof

/-- SR_ENTER, SR_EXIT and REMAP act on a group in the states R269 names and are ignored in the others: SR_ENTER waits for the requests queued at the
group, and after REMAP the contents are undefined. Each answers a next state whatever the state. -/
def SelfRefreshAndRemap : Prop :=
  ∀ (g : GroupId) (s : State), s.dev.reaches .pcie (0xC0040 + 4 * g.val) = true →
    let x := s.dev.group g
    let back : GState := if x.map.any (fun n => decide (s.dev.chanState n = 2)) then .degraded else .active
    (x.state = .active ∨ x.state = .degraded → ∃ t, exec (.srEnter g) s = .next t ∧ OnlyGroup s t g
        ∧ t.dev.group g = if s.dev.groupOut g = 0 then { x with state := .selfRefresh, selfRef := true, srDue := false } else { x with srDue := true })
    ∧ (x.state = .off ∨ x.state = .training ∨ x.state = .selfRefresh → exec (.srEnter g) s = .next s)
    ∧ (x.state = .selfRefresh → NoneUnsaved s.dev → ∃ t, exec (.srExit g) s = .next t ∧ OnlyGroup s t g
        ∧ t.dev.group g = { x with state := back, selfRef := false })
    ∧ (x.state ≠ .selfRefresh → exec (.srExit g) s = .next s)
    ∧ (x.state = .active ∨ x.state = .degraded → s.dev.walkInto g = false → NoneUnsaved s.dev → ∃ t, exec (.remap g) s = .next t
        ∧ t.dev.group g = { x with state := .active, map := x.map.filter (fun n => decide (s.dev.chanState n ≠ 2)), epoch := s.dev.fresh }
        ∧ t.dev.fresh = s.dev.fresh + 1 ∧ (∀ n, n ≠ g.val → t.dev.group n = s.dev.group n)
        ∧ (∀ n, (n < g.val * 2 ^ 37 ∨ (g.val + 1) * 2 ^ 37 ≤ n) → Mem.byte t.dev.mm.gran.data n = Mem.byte s.dev.mm.gran.data n) ∧ t.dev.hq = s.dev.hq)
    ∧ (s.dev.walkInto g = true → exec (.remap g) s = .next s)
    ∧ (x.state = .off ∨ x.state = .training ∨ x.state = .selfRefresh → exec (.remap g) s = .next s)

/-- After the first training of a group its contents are zero once the fill is done, after a later one they are undefined; the uncorrectable tallies
restart at each window (R268, R466, R467). -/
def TrainingAndWindows : Prop :=
  ∀ (g : GroupId) (s : State),
    let x := s.dev.group g
    (x.state = .training → x.filling = false → s.dev.on (84 + g.val) = true → ∀ passed : List Nat,
        let map := ((List.range 6).filter (fun i => decide (s.dev.chanState (6 * g.val + i) = 0 ∧ 1 ≤ passed.getD i 0 ∧ passed.getD i 0 ≤ 3))).map
          (fun i => 6 * g.val + i)
        (x.trained = false → ∃ t, exec (.groupTrainingDone g passed) s = .next t
          ∧ t.dev.group g = { x with map := map, trained := true, filling := true } ∧ t.dev.mm.gran = s.dev.mm.gran
          ∧ ∀ i, i < 6 → s.dev.chanState (6 * g.val + i) = 0 → (passed.getD i 0 = 0 ∨ 3 < passed.getD i 0) → 6 * g.val + i ∈ t.dev.fl.due)
        ∧ (x.trained = true → NoneUnsaved s.dev → ∃ t, exec (.groupTrainingDone g passed) s = .next t ∧ (t.dev.group g).epoch + 1 = t.dev.fresh
          ∧ t.dev.group g = { x with state := .active, map := map, epoch := (t.dev.group g).epoch }))
    ∧ (x.state = .training → x.filling = true → s.dev.on (84 + g.val) = true → NoneUnsaved s.dev → ∃ t, exec (.zeroFillDone g) s = .next t
        ∧ t.dev.group g = { x with
          state := if x.map.any (fun n => decide (s.dev.chanState n = 2)) then .degraded else .active
          filling := false
          epoch := 0 }
        ∧ (∀ a, g.val * 2 ^ 37 ≤ a → a < (g.val + 1) * 2 ^ 37 → t.dev.granBytes a 1 = [0] ∧ t.dev.mm.gran.syn (a / 64) = 0)
        ∧ ∀ a, (a < g.val * 2 ^ 37 ∨ (g.val + 1) * 2 ^ 37 ≤ a) → Mem.byte t.dev.mm.gran.data a = Mem.byte s.dev.mm.gran.data a)
    ∧ ∃ t, exec .uncWindowRestart s = .next t
        ∧ t = { s with dev := { s.dev with mm := { s.dev.mm with chans := t.dev.mm.chans } } }
        ∧ ∀ n, t.dev.chan n = if n < 24 ∧ s.dev.lt % (100000000 * Nat.max 1 ((s.dev.reg 0xC000C).toNat / 2 ^ 16)) = 0
            then { s.dev.chan n with tally := 0 } else s.dev.chan n

end Sys2Proof

/-- Commands on channel groups, their training, and the windows of the tallies. -/
def Obligations.GroupCommands : Prop := SelfRefreshAndRemap ∧ TrainingAndWindows

/-- A granary engine's next block: a clean one is left as it is; one flipped data bit, wherever it falls, is put right and counted for the channel and the
engine; either way the position moves on, and at the end of a lap its length is kept and the lap counted. An LLC engine passes over an empty set whose tags are clean
(R187, R289, R290, R292). -/
def Obligations.GleanCorrects : Prop :=
  ∀ (e : Fin 6) (s : State), s.dev.on 95 = true → s.dev.gleanMode e ≠ 0 →
    let pos := (s.dev.glean e).pos
    let start := if (s.dev.glean e).run then (s.dev.glean e).start else s.dev.lt
    let moved (t : State) : Prop := t.dev.glean e = { s.dev.glean e with pos := pos + 1, run := true, start := start } ∧ ∀ n, n ≠ e.val → t.dev.glean n = s.dev.glean n
    (2 ≤ e.val →
      let g := e.val - 2
      let b := g * 2 ^ 31 + pos
      let n := (s.dev.chanOf (64 * b)).1
      (s.dev.group g).state = .active → s.dev.on (84 + g) = true → s.dev.granPar b = .clean →
      (pos + 1 = (s.dev.group g).bytes / 64 → s.dev.gleanMode e ≠ 2 → ∃ t, exec (.gleanBlockRead e []) s = .next t
          ∧ t.dev.glean e = { s.dev.glean e with pos := 0, run := false, start := start, last := s.dev.lt - start }
          ∧ (t.dev.ctrAt (0xC0818 + 0x40 * e.val)).val = satAdd 32 (s.dev.ctrAt (0xC0818 + 0x40 * e.val)).val 1)
      ∧ (pos + 1 < (s.dev.group g).bytes / 64 →
      (∃ t, exec (.gleanBlockRead e []) s = .next t ∧ moved t ∧ t = { s with dev := { s.dev with mm := { s.dev.mm with glean := t.dev.mm.glean } } })
      ∧ (∀ bit, bit < 512 → (s.dev.chan n).hold = false → Quiet s.dev (0xC0100 + 0x20 * n) 32 → Quiet s.dev (0xC081C + 0x40 * e.val) 32 →
          ∃ t, exec (.gleanBlockRead e [⟨0, BitVec.ofNat 512 (2 ^ bit), 0⟩]) s = .next t ∧ moved t
            ∧ t.dev.granBytes (64 * b) 64 = s.dev.granBytes (64 * b) 64 ∧ t.dev.granPar b = .clean
            ∧ (∀ a, (a < 64 * b ∨ 64 * b + 64 ≤ a) → Mem.byte t.dev.mm.gran.data a = Mem.byte s.dev.mm.gran.data a)
            ∧ (t.dev.ctrAt (0xC0100 + 0x20 * n)).val = satAdd 32 (s.dev.ctrAt (0xC0100 + 0x20 * n)).val 1
            ∧ (t.dev.ctrAt (0xC081C + 0x40 * e.val)).val = satAdd 32 (s.dev.ctrAt (0xC081C + 0x40 * e.val)).val 1)))
    ∧ (e.val < 2 → pos + 1 < 640 * 2048 → s.dev.setLines e.val (pos / 2048) (pos % 2048) = [] → s.dev.mm.tags.chk = [] →
        ∃ t, exec (.gleanBlockRead e []) s = .next t ∧ moved t ∧ t = { s with dev := { s.dev with mm := { s.dev.mm with glean := t.dev.mm.glean } } })

namespace Sys2Proof

/-- PAGE_TOUCH translates its pages and ends OK with the count of those that fail, parking nothing; SCRUB_RANGE reads its blocks in order and ends OK with the
count corrected, and a fault parks its context (R293). -/
def PageDescriptors : Prop :=
  ∀ (tag : Tag) (s : State) (v : Work), s.dev.work tag = some v → v.phase = .dispatched → (s.dev.ctx v.ctx).state = .active → v.marked = false →
    v.unreachable = false → v.progress = 0 →
    let addr := fieldB v.desc 16 8
    let len := fieldB v.desc 24 8
    let ends (x : Word) (o : Host.Outcome State Fault Refusal) : Prop := ∃ t, o = .next t ∧ (t.dev.work tag).map (·.phase) = some (.finished 0 x)
      ∧ t.dev.hq.ctxs = s.dev.hq.ctxs ∧ t.dev.gr = s.dev.gr
    let kept (d : Dev) : Prop := d.work tag = some v ∧ d.hq.ctxs = s.dev.hq.ctxs ∧ d.gr = s.dev.gr
    let touch := s.dev.xlate v.ctx none .both (some (.work tag)) addr false
    (dOp v.desc = 0x500 → len = 4096 → kept touch.1 →
      (∀ a, touch.2 = .host a → ends 0 (exec (.pageTouch tag) s)) ∧ (∀ a p h, touch.2 = .gran a p h → ends 0 (exec (.pageTouch tag) s))
        ∧ (∀ f, touch.2 = .fault f → ends 1 (exec (.pageTouch tag) s)) ∧ (touch.2 = .wait → exec (.pageTouch tag) s = .next { s with dev := touch.1 }))
    ∧ (∀ d n, dOp v.desc = 0x501 → s.dev.scrubAll (v.acc tag .granary) addr (len / 64) 0 0 = .ok d n → kept d →
        ends (BitVec.ofNat 32 n) (exec (.scrubRange tag) s))
    ∧ (∀ d f a, dOp v.desc = 0x501 → s.dev.scrubAll (v.acc tag .granary) addr (len / 64) 0 0 = .fault d f a → kept d →
        ∃ t, exec (.scrubRange tag) s = .next t ∧ (t.dev.ctx v.ctx).state = .parked ∧ (∃ p, (t.dev.ctx v.ctx).park = some p ∧ p.cause = 7 ∧ p.tag = some tag))

end Sys2Proof

/-- Pages of the host, and the descriptors that act on pages. -/
def Obligations.Pages : Prop := HostPages ∧ PageDescriptors

/-! ## The fabric (10) -/

namespace Sys2Proof

/-- Nothing but one port has changed. -/
def OnlyPort (s t : State) (p : Nat) : Prop :=
  t = { s with dev := { s.dev with fab := { s.dev.fab with ports := t.dev.fab.ports } } } ∧ ∀ k, k ≠ p → t.dev.port k = s.dev.port k

/-- Nothing but one port, the wire, counters and what goes with events on the device ring has changed. -/
def PortAndEvents (s t : State) (p : Nat) : Prop :=
  t = { s with dev := { s.dev with
      fab := { s.dev.fab with ports := t.dev.fab.ports, wire := t.dev.fab.wire, laneOut := t.dev.fab.laneOut }
      ctr := t.dev.ctr
      env := t.dev.env
      mc := t.dev.mc
      hq := { s.dev.hq with devRing := t.dev.hq.devRing } } }
  ∧ ∀ k, k ≠ p → t.dev.port k = s.dev.port k

/-- A port is as told, but for the message bits that no codeword carries yet (R305). -/
def PortIs (y z : Port) : Prop := y = { z with msg := y.msg, msgLen := y.msgLen }

/-- The flits that a port sends again, the first marked REPLAY (R308). -/
def replayed (p : Nat) (ks : List Kept) : List (Nat × List Byte) :=
  ((List.range ks.length).zip ks).map (fun e => (p, flitBytes e.2.seq e.2.payload (if e.1 = 0 then 1 else 0)))

/-- A flit that carries one LINK record. -/
def linkFlit (x : Port) (p flags fseq : Nat) : Nat × List Byte :=
  (p, flitBytes (x.txSeq % 65536) ((x.linkRecord flags fseq 0).bytes ++ List.replicate 480 0) 0)

/-- PORT_ENABLE: BAD_ROLE for no role, for a role of a dimension of size 1 and for one that the spare and its regular port both claim; UNLICENSED for a ninth
port without FABRIC-L; otherwise a DISABLED port trains. PORT_DISABLE leaves a port DISABLED, a retired one RETIRED; here nothing is queued on it (R298, R299,
R322). -/
def PortEnabling : Prop :=
  ∀ (p : PortId) (s : State), FabClear s.dev → s.dev.reaches .pcie (portBase p) = true →
    let x := s.dev.port p
    let r := s.dev.roleOf p
    let bad : Prop := 16 < r ∨ (dimOfRole r ≠ 0 ∧ s.dev.dimSize (dimOfRole r) = 1)
      ∨ (if p.val = 17 then (s.dev.port r).en = true ∧ (s.dev.port r).state ≠ .retired else (s.dev.port 17).role = r)
    let full : Prop := s.sec.lic.testBit 2 = false ∧ 8 ≤ ((List.range 18).filter (fun q => (s.dev.port q).en)).length
    let refused (n : Nat) (o : Host.Outcome State Fault Refusal) : Prop :=
      o = .next { s with dev := { s.dev with fab := { s.dev.fab with cfgPort := p.val, cfgResult := n } } }
    let becomes (o : Host.Outcome State Fault Refusal) (y : Port) : Prop := ∃ t, o = .next t ∧ OnlyPort s t p ∧ t.dev.port p = y
    (x.en = true → exec (.portEnable p) s = .next s)
    ∧ (x.en = false → bad → refused 3 (exec (.portEnable p) s))
    ∧ (x.en = false → ¬ bad → full → refused 1 (exec (.portEnable p) s))
    ∧ (x.en = false → ¬ bad → ¬ full → x.state = .disabled → becomes (exec (.portEnable p) s)
        { x with en := true, state := .training, attempts := 0, since := s.dev.lt, peer := none, rejoin := false })
    ∧ (x.en = false → ¬ bad → ¬ full → x.state ≠ .disabled → becomes (exec (.portEnable p) s) { x with en := true })
    ∧ (x.state = .disabled ∨ x.state = .retired → becomes (exec (.portDisable p) s) { x with en := false })
    ∧ (x.state ≠ .disabled → x.state ≠ .retired → x.tx = [] → x.replay = [] → (∀ k, k ≠ p.val → (s.dev.port k).state ≠ .up) →
        becomes (exec (.portDisable p) s)
          { x with en := false, state := .disabled, width := 0, peer := none, rejoin := false, links := [], waiting := false })

/-- Training and retraining. RETRAIN and lost framing put an UP port in RETRAINING with its replay buffer, credits and queues kept. A training attempt that
fails is counted; one that succeeds records the peer and, where its address and role are right, brings the port UP with FSEQ 0 and full credits, and else
DOWN; a retrain that reaches MIN_WIDTH resumes from the replay buffer; too small a width or a third failure retires the port, in the floor plan too
(R322, R323, R326). An attempt sends the 64 sync blocks of each lane that comes up and, in a training, this end's address, role and PART; it succeeds where the
lanes received align (R305, R323). QUIESCE_MS in QUIESCED ends DOWN. -/
def PortTraining : Prop :=
  ∀ (p : PortId) (s : State), FabClear s.dev → s.dev.portOn p = true →
    let x := s.dev.port p
    let min := (s.dev.reg 0x8001C).toNat / 2 ^ 8 % 16
    let idle : Prop := x.tx = [] ∧ x.replay = [] ∧ x.links = [] ∧ ∀ k, k ≠ p.val → (s.dev.port k).state ≠ .up
    let retires (o : Host.Outcome State Fault Refusal) : Prop := ∃ t, o = .next t ∧ (t.dev.port p).state = .retired ∧ (t.dev.port p).width = 0
      ∧ Tbl.get t.dev.fl.ports p 0 = 2 ∧ (∀ k, k ≠ p.val → t.dev.port k = s.dev.port k) ∧ FabClear t.dev
      ∧ t.dev.gr = s.dev.gr ∧ t.dev.mm = s.dev.mm ∧ t.dev.regs = s.dev.regs
    let retrains (o : Host.Outcome State Fault Refusal) : Prop := ∃ t, o = .next t
      ∧ t = { s with dev := { counted s.dev (portBase p + 0x64) 32 with fab := { s.dev.fab with ports := t.dev.fab.ports } } }
      ∧ (∀ k, k ≠ p.val → t.dev.port k = s.dev.port k)
      ∧ t.dev.port p = { x with state := .retraining, attempts := 0, since := s.dev.lt, nakRun := 0, nakSent := 0 }
    (x.state = .up → Quiet s.dev (portBase p + 0x64) 32 →
      retrains (exec (.framingLost p) s) ∧ (s.dev.reaches .pcie (portBase p) = true → retrains (exec (.retrain p) s)))
    ∧ (x.state ≠ .up → exec (.framingLost p) s = .next s ∧ exec (.retrain p) s = .next s)
    ∧ (∀ r : TrainResult,
        let mask := r.lanes.toNat &&& (x.lanes &&& x.peerLanes)
        let w := ones mask 8
        let good : Prop := r.locked = true ∧ w ≠ 0 ∧ aligned mask r.sync = true
        let want := s.dev.peerOf (s.dev.roleOf p)
        let said : Option (Nat × Nat × Nat) := if x.state = .training then some (s.dev.addr, s.dev.roleOf p, s.dev.part) else x.said
        let greeted := s.dev.fab.laneOut ++ if r.locked then (lanesOf mask).map (fun l => ⟨p, l, 4096, syncRun l⟩) else []
        (x.state = .training ∨ x.state = .retraining → ¬ good → x.attempts + 1 < 3 →
          ∃ t, exec (.trainingAttemptDone p r) s = .next t ∧ t.dev.port p = { x with attempts := x.attempts + 1, said := said }
            ∧ t = { s with dev := { s.dev with fab := { s.dev.fab with ports := t.dev.fab.ports, laneOut := greeted } } }
            ∧ ∀ k, k ≠ p.val → t.dev.port k = s.dev.port k)
        ∧ (x.state = .training → good → want = (r.addr.toNat, r.role.toNat) → idle → x.rejoin = false →
          ∃ t, exec (.trainingAttemptDone p r) s = .next t ∧ (t.dev.port p).state = .up ∧ (t.dev.port p).width = w
            ∧ (t.dev.port p).active = mask ∧ (t.dev.port p).said = said ∧ t.dev.fab.laneOut = greeted
            ∧ (t.dev.port p).peer = some (r.addr.toNat, r.role.toNat) ∧ (t.dev.port p).txSeq = 0 ∧ (t.dev.port p).rxSeq = 0
            ∧ (t.dev.port p).cred = (List.range 8).map (s.dev.reserve p) ∧ (t.dev.port p).shared = 6144 - ((List.range 8).map (s.dev.reserve p)).sum
            ∧ (∀ k, k ≠ p.val → t.dev.port k = s.dev.port k) ∧ t.dev.gr = s.dev.gr ∧ t.dev.mm = s.dev.mm ∧ t.dev.regs = s.dev.regs)
        ∧ (x.state = .training → good → want ≠ (r.addr.toNat, r.role.toNat) → idle →
          ∃ t, exec (.trainingAttemptDone p r) s = .next t ∧ (t.dev.port p).state = .down ∧ (t.dev.port p).width = 0
            ∧ (t.dev.port p).peer = some (r.addr.toNat, r.role.toNat) ∧ (∀ k, k ≠ p.val → t.dev.port k = s.dev.port k)
            ∧ t.dev.gr = s.dev.gr ∧ t.dev.mm = s.dev.mm ∧ t.dev.regs = s.dev.regs)
        ∧ (x.state = .retraining → good → min ≤ w → x.tx = [] → x.links = [] → x.replay.length < 768 →
          ∃ t, exec (.trainingAttemptDone p r) s = .next t ∧ PortAndEvents s t p ∧ t.dev.fab.wire = s.dev.fab.wire ++ replayed p x.replay
            ∧ PortIs (t.dev.port p) { x with
              state := .up, width := w, active := mask, attempts := 0, waiting := false, txSeq := x.txSeq % 65536, rxFlits := 0, rxBad := false
              badRun := 0 })
        ∧ (idle → s.dev.col.slots = [] → s.dev.upd.jobs = [] →
            (x.state = .training ∧ ¬ good ∧ x.attempts = 2) ∨ (x.state = .retraining ∧ good ∧ w < min)
              ∨ (x.state = .retraining ∧ ¬ good ∧ x.attempts = 2) → retires (exec (.trainingAttemptDone p r) s)))
    ∧ (let due := x.since + 100000 * ((s.dev.reg 0x8001C).toNat / 2 ^ 16)
       (x.state = .quiesced → due ≤ s.dev.lt → idle → ∃ t, exec (.quiesceTimeout p) s = .next t ∧ PortAndEvents s t p
          ∧ t.dev.port p = { x with state := .down, width := 0, waiting := false })
        ∧ (x.state ≠ .quiesced ∨ s.dev.lt < due → exec (.quiesceTimeout p) s = .next s))

end Sys2Proof

/-- The states of a port: what EN, training, retraining and a quiesce that lasts too long do to it, and that no other port is touched. -/
def Obligations.PortStates : Prop := PortEnabling ∧ PortTraining

namespace Sys2Proof

/-- Flits. A good flit is taken once: its packets go into the receive buffer and the expected FSEQ moves on; the 64th unreported one is acknowledged. A bad one is discarded, is NAKed with the expected FSEQ, and nothing is taken until a replay comes; RETRY_LIMIT NAKs of
one FSEQ retrain. An idle flit moves nothing. A codeword with more than 15 symbols in error is counted and its flits are bad; the eighth in a row retrains (R304 to R309).
A lane whose tally passes FAB_LANE_LIMIT is retired and the port retrains (R325). -/
def FlitsReceived : Prop :=
  ∀ (p : PortId) (s : State), FabClear s.dev → s.dev.portOn p = true → (s.dev.port p).state = .up →
    let x := s.dev.port p
    let still : Prop := ∀ l, Tbl.get x.tally l 0 ≤ (s.dev.reg 0x80018).toNat
    let quietLink : Prop := x.tx = [] ∧ x.links = [] ∧ x.replay = []
    let begins : Bool := (codewordIn x.rxFlits).isSome
    let carried : Bool := x.rxBad && !codewordEdge x.rxFlits
    let seen : Port := { x with
      rxFlits := x.rxFlits + 1, rxBad := if begins then false else x.rxBad, badRun := if begins then 0 else x.badRun }
    (∀ f : Flit, f.errors = [] → x.badRun < 8 → still →
      let flags := (f.bytes.getD 512 0).toNat
      let crc : Prop := carried = false ∧ f.bytes.length = 516 ∧ leNat (f.bytes.drop 513) = flitCrc x.rxSeq (f.bytes.take 513)
      let got := parsePackets 64 (x.part ++ f.bytes.take 512)
      let o := exec (.flitReceived p f) s
      (crc → flags.testBit 1 = false → (x.waiting = false ∨ flags.testBit 0 = true) → x.unrep < 63 →
        ∃ t, o = .next t ∧ PortAndEvents s t p ∧ t.dev.fab.wire = s.dev.fab.wire ∧ t.dev.port p = { seen with
          waiting := false, nakSent := 0, rxSeq := (x.rxSeq + 1) % 65536, unrep := x.unrep + 1
          unrepLt := some (x.unrepLt.getD s.dev.lt), rx := x.rx ++ got.1, part := got.2 })
      ∧ (crc → flags.testBit 1 = false → (x.waiting = false ∨ flags.testBit 0 = true) → x.unrep = 63 → quietLink →
        ∃ t, o = .next t ∧ PortAndEvents s t p ∧ (t.dev.port p).unrep = 0 ∧ (t.dev.port p).rx = x.rx ++ got.1
          ∧ t.dev.fab.wire = s.dev.fab.wire ++ [linkFlit x p 1 (x.rxSeq % 65536)])
      ∧ (crc → (flags.testBit 1 = true ∨ (x.waiting = true ∧ flags.testBit 0 = false)) →
        ∃ t, o = .next t ∧ PortAndEvents s t p ∧ t.dev.port p = seen ∧ t.dev.fab.wire = s.dev.fab.wire)
      ∧ (¬ crc → x.waiting = false → quietLink →
        ∃ t, o = .next t ∧ PortAndEvents s t p ∧ t.dev.fab.wire = s.dev.fab.wire ++ [linkFlit x p 2 x.rxSeq]
          ∧ (t.dev.port p).waiting = true ∧ (t.dev.port p).rx = x.rx ∧ (t.dev.port p).rxSeq = x.rxSeq ∧ (t.dev.port p).part = x.part
          ∧ (t.dev.port p).state = if (s.dev.reg 0x8001C).toNat % 16 ≤ x.nakSent + 1 then .retraining else .up)
      ∧ (¬ crc → x.waiting = true → flags.testBit 0 = false →
        ∃ t, o = .next t ∧ PortAndEvents s t p ∧ t.dev.port p = seen ∧ t.dev.fab.wire = s.dev.fab.wire))
    ∧ (∀ f : Flit, 15 < f.errors.eraseDups.length → begins = true → x.waiting = false → quietLink → still →
        ∃ t, exec (.flitReceived p f) s = .next t ∧ PortAndEvents s t p ∧ t.dev.fab.wire = s.dev.fab.wire ++ [linkFlit x p 2 x.rxSeq]
          ∧ (t.dev.port p).waiting = true ∧ (t.dev.port p).rx = x.rx ∧ (t.dev.port p).rxSeq = x.rxSeq ∧ (t.dev.port p).part = x.part
          ∧ (t.dev.port p).badRun = x.badRun + 1
          ∧ (t.dev.ctrAt (portBase p + 0x60)).val = satAdd 32 (s.dev.ctrAt (portBase p + 0x60)).val 1
          ∧ (t.dev.port p).state = if (s.dev.reg 0x8001C).toNat % 16 ≤ x.nakSent + 1 ∨ 7 ≤ x.badRun then .retraining else .up)
    ∧ (∀ (f : Flit) (l : Nat), f.errors.eraseDups.length ≤ 15 → begins = true → carried = false → quietLink → l < 8 → x.laneDone = false →
        s.dev.col.slots = [] → s.dev.upd.jobs = [] → f.bytes.length = 516 → leNat (f.bytes.drop 513) = flitCrc x.rxSeq (f.bytes.take 513) →
        (f.bytes.getD 512 0).toNat.testBit 1 = true →
        let limit := (s.dev.reg 0x80018).toNat
        let hits (j : Nat) : Nat := (f.errors.eraseDups.filter (fun e => laneOfSymbol x.active e = j)).length
        let tally (j : Nat) : Nat := if hits j = 0 then Tbl.get x.tally j 0 else min 0xFFFFFFFF (Tbl.get x.tally j 0 + hits j)
        (x.lanes &&& x.peerLanes).testBit l = true → limit < tally l → (∀ j, j < 8 → j ≠ l → tally j ≤ limit) →
        ∃ t, exec (.flitReceived p f) s = .next t ∧ (t.dev.port p).state = .retraining ∧ (t.dev.port p).lanes = x.lanes &&& (255 - 2 ^ l)
          ∧ (t.dev.port p).laneDone = true ∧ Tbl.get t.dev.fl.ports p 0 = 3 ∧ (∀ k, k ≠ p.val → t.dev.port k = s.dev.port k)
          ∧ t.dev.gr = s.dev.gr ∧ t.dev.mm = s.dev.mm ∧ t.dev.regs = s.dev.regs)

end Sys2Proof

namespace Sys2Proof

/-- The timers of the links. What stays unreported for 100 ns is acknowledged. At the end of each window of lane tallies every port's tally starts again at
0, and a lane may be retired again. The interval after a rejoin in which the device issues no transaction of its own ends when it is over, and not before (R309, R325, R461). -/
def LinkTimers : Prop :=
  ∀ (p : PortId) (s : State), FabClear s.dev →
    let x := s.dev.port p
    (∀ since, s.dev.portOn p = true → x.state = .up → x.unrepLt = some since → since + 10 ≤ s.dev.lt → x.tx = [] → x.links = [] → x.replay = [] →
      ∃ t, exec (.ackTimer p) s = .next t ∧ PortAndEvents s t p
        ∧ (t.dev.port p).unrep = 0 ∧ (t.dev.port p).unrepLt = none ∧ t.dev.fab.wire = s.dev.fab.wire ++ [linkFlit x p 1 ((x.rxSeq + 65535) % 65536)])
    ∧ ((x.unrepLt = none ∨ ∃ since, x.unrepLt = some since ∧ s.dev.lt < since + 10) → exec (.ackTimer p) s = .next s)
    ∧ (∃ t, exec .laneWindowRestart s = .next t
        ∧ t = { s with dev := { s.dev with fab := { s.dev.fab with ports := t.dev.fab.ports } } }
        ∧ ∀ k, t.dev.port k = if k < 18 ∧ s.dev.lt % 1000000000 = 0 then { s.dev.port k with tally := [], laneDone := false } else s.dev.port k)
    ∧ (∃ t, exec (.quietIntervalEnd p) s = .next t
        ∧ t = { s with dev := { s.dev with fab := { s.dev.fab with quiet := t.dev.fab.quiet } } }
        ∧ t.dev.fab.quiet = s.dev.fab.quiet.map (fun till => if till ≤ s.dev.lt then 0 else till))

end Sys2Proof

namespace Sys2Proof

/-- LINK records. Credits are added; an ACK frees every flit up to the one it names; a NAK sends again from its FSEQ, the first marked REPLAY, or retrains
at the RETRY_LIMIT-th in a row; QUIESCE stops an UP port, REJOIN brings a QUIESCED one UP with FSEQ 0 and full credits; LANE_RETIRE retires the lanes at
this end too, in the floor plan as well, and retrains (R308, R309, R312, R314, R322, R325). -/
def LinkRecords : Prop :=
  ∀ (p : PortId) (pkt : Packet) (s : State), FabClear s.dev → s.dev.portOn p = true → pkt.type = 1 → pkt.broken = false →
    let x := s.dev.port p
    let flags := pkt.f 55 48
    let seq := pkt.f 47 32
    let back := { x with
      rx := x.rx.erase pkt
      cred := (List.range 8).map (fun q => x.cred.getD q 0 + pkt.hdr.toNat / 2 ^ (64 + 16 * q) % 2 ^ 16)
      shared := x.shared + pkt.hdr.toNat / 2 ^ 192 % 2 ^ 16
      txSeq := x.txSeq % 65536 }
    let empty : Prop := x.tx = [] ∧ x.links = []
    (x.state = .up → flags = 1 → empty → x.replay.length < 768 → ∃ t, exec (.ack p pkt) s = .next t ∧ OnlyPort s t p
      ∧ t.dev.port p = { back with replay := x.replay.filter (fun k => newer16 k.seq seq) })
    ∧ (x.state = .up → flags = 2 → empty → x.replay.length < 768 →
        let left := x.replay.filter (fun k => !newer16 seq k.seq)
        let run := if x.nakRun ≠ 0 ∧ x.nakSeq = seq then x.nakRun + 1 else 1
        ∃ t, exec (.nak p pkt) s = .next t ∧ PortAndEvents s t p
          ∧ ((s.dev.reg 0x8001C).toNat % 16 ≤ run → (t.dev.port p).state = .retraining ∧ (t.dev.port p).replay = left ∧ t.dev.fab.wire = s.dev.fab.wire)
          ∧ (run < (s.dev.reg 0x8001C).toNat % 16 → t.dev.fab.wire = s.dev.fab.wire ++ replayed p left
              ∧ PortIs (t.dev.port p) { back with replay := left, nakSeq := seq, nakRun := run }))
    ∧ (x.state = .up → flags / 2 = 2 → ∃ t, exec (.quiesce p pkt) s = .next t ∧ PortAndEvents s t p ∧ (t.dev.port p).state = .quiesced
        ∧ (t.dev.port p).since = s.dev.lt ∧ (t.dev.port p).tx = x.tx ∧ t.dev.fab.wire = s.dev.fab.wire)
    ∧ (x.state = .quiesced → flags / 2 = 4 → x.tx = [] → x.replay = [] →
        ∃ t, exec (.rejoin p pkt) s = .next t ∧ OnlyPort s t p ∧ (t.dev.port p).state = .up
        ∧ (t.dev.port p).txSeq = 0 ∧ (t.dev.port p).rxSeq = x.rxSeq ∧ (t.dev.port p).cred = (List.range 8).map (s.dev.reserve p)
        ∧ (t.dev.port p).shared = 6144 - ((List.range 8).map (s.dev.reserve p)).sum)
    ∧ (x.state = .up → flags / 2 = 8 → s.dev.col.slots = [] → s.dev.upd.jobs = [] →
        let gone := pkt.hdr.toNat / 2 ^ 56 % 2 ^ 8
        let now : Prop := gone &&& (x.lanes &&& x.peerLanes) ≠ 0
        ∃ t, exec (.laneRetire p pkt) s = .next t ∧ (t.dev.port p).state = .retraining
          ∧ (t.dev.port p).peerLanes = x.peerLanes &&& (255 - gone)
          ∧ (∀ l, l < 8 → (t.dev.port p).lanes.testBit l = (x.lanes.testBit l && !(gone.testBit l && x.peerLanes.testBit l)))
          ∧ (now → Tbl.get t.dev.fl.ports p 0 = 3 ∧ (t.dev.port p).laneDone = true) ∧ (¬ now → t.dev.fl = s.dev.fl)
          ∧ (∀ k, k ≠ p.val → t.dev.port k = s.dev.port k) ∧ t.dev.gr = s.dev.gr ∧ t.dev.mm = s.dev.mm ∧ t.dev.regs = s.dev.regs)
    ∧ (∀ bit, flags.testBit bit = false → (bit = 0 → exec (.ack p pkt) s = .next s) ∧ (bit = 1 → exec (.nak p pkt) s = .next s)
        ∧ (bit = 2 → exec (.quiesce p pkt) s = .next s) ∧ (bit = 3 → exec (.rejoin p pkt) s = .next s)
        ∧ (bit = 4 → exec (.laneRetire p pkt) s = .next s))

end Sys2Proof

/-- Flits, link timers and link records of a port. -/
def Obligations.Links : Prop := FlitsReceived ∧ LinkTimers ∧ LinkRecords

namespace Sys2Proof

/-- The router. A packet goes in dimension order X, Y, Z, then the yoke: + where its distance is at most half way round, − else, in dateline class 1 from
the hop over the link between S − 1 and 0; the yoke hop from p to p' leaves by port k with k + 1 = p XOR p'. A transit packet leaves by that port, whatever its
PART; where there is no way, a request is answered UNREACHABLE and any other packet is dropped and counted. A broken packet is discarded and counted (R311,
R316, R317, R318, R324). -/
def Routing : Prop :=
  (∀ (d : Dev) (src : Option Nat) (pkt : Packet),
    let cur (k : Nat) : Nat := coordOf d.addr k
    let dst (k : Nat) : Nat := coordOf pkt.dst k
    let goes (role : Nat) (dl : Bool) : Prop :=
      (doubleOf role = none → d.route src pkt false = if d.usable (d.portFor role) then .out (d.portFor role) dl else .dead)
      ∧ (∀ r2, doubleOf role = some r2 →
          (d.usable (d.portFor role) = true → d.usable (d.portFor r2) = false → d.route src pkt false = .out (d.portFor role) dl)
          ∧ (d.usable (d.portFor role) = false → d.usable (d.portFor r2) = true → d.route src pkt false = .out (d.portFor r2) dl)
          ∧ (d.usable (d.portFor role) = false → d.usable (d.portFor r2) = false → d.route src pkt false = .dead)
          ∧ (d.usable (d.portFor role) = true → d.usable (d.portFor r2) = true → pkt.f 13 13 = 0 → d.route src pkt false = .out (d.portFor role) dl)
          ∧ (d.usable (d.portFor role) = true → d.usable (d.portFor r2) = true → pkt.f 13 13 = 1 →
              let q := 2 * pkt.vc + b2n dl
              d.route src pkt false = .out (if (d.port (d.portFor role)).credit q < (d.port (d.portFor r2)).credit q then d.portFor r2
                else d.portFor role) dl))
    let ring (k up : Nat) : Prop :=
      let size := d.dimSize k
      let dist := (dst k + size - cur k) % size
      let was : Bool := (match src with | some r => decide (dimOfRole r = k) | none => false) && pkt.f 14 14 = 1
      (dist ≤ size - dist → goes up (was || decide (cur k + 1 = size))) ∧ (size - dist < dist → goes (up + 1) (was || decide (cur k = 0)))
    (dst 1 ≠ cur 1 → ring 1 7)
    ∧ (dst 1 = cur 1 → dst 2 ≠ cur 2 → ring 2 9)
    ∧ (dst 1 = cur 1 → dst 2 = cur 2 → dst 3 ≠ cur 3 → ring 3 11)
    ∧ (dst 1 = cur 1 → dst 2 = cur 2 → dst 3 = cur 3 →
        (cur 0 = dst 0 → d.route src pkt false = .here)
        ∧ ∀ k, k + 1 = cur 0 ^^^ dst 0 → goes k false))
  ∧ ∀ (p : PortId) (pkt : Packet) (s : State), FabClear s.dev → s.dev.receives p = true →
    (∀ k, ∀ y ∈ (s.dev.port k).tx, y.type < 6 ∨ y.src ≠ s.dev.addr) →
    let e := s.dev.takeRx p pkt
    let hop := s.dev.route (some (s.dev.roleOf p)) pkt false
    (pkt.broken = false → 2 ≤ pkt.type → pkt.dst ≠ s.dev.addr →
      (∀ q dl, hop = .out q dl → pkt.type < 6 ∨ pkt.src ≠ s.dev.addr → exec (.packetForward p pkt) s = .next { s with dev := e.sendPkt q (pkt.put 14 14 (b2n dl)) })
      ∧ (hop = .dead → pkt.src ≠ s.dev.addr → pkt.type = 2 ∨ pkt.type = 3 →
          exec (.packetForward p pkt) s
            = .next { s with dev := if e.inDomain pkt.src then Dev.forward 1 e none (e.mark (answerTo pkt 3 [] 0)) false none else e })
      ∧ (hop = .dead → pkt.src ≠ s.dev.addr → pkt.type ≠ 2 → pkt.type ≠ 3 → Quiet s.dev 0x80054 32 →
          exec (.packetForward p pkt) s = .next { s with dev := counted e 0x80054 32 }))
    ∧ (pkt.broken = true → Quiet s.dev (portBase p + 0x70) 32 → exec (.badPacket p pkt) s = .next { s with dev := counted e (portBase p + 0x70) 32 })
    ∧ (pkt.broken = false → exec (.badPacket p pkt) s = .next s)
    ∧ (∀ k, k ≠ p.val → e.port k = s.dev.port k) ∧ (e.port p).rx = (s.dev.port p).rx.erase pkt

end Sys2Proof

namespace Sys2Proof

/-- Transactions. An endpoint packet is originated only to an address in the domain that shares the device's partition; it carries the device's SRC, PART and
throttle indicator and the next FLOW_SEQ of its flow. A READ_RESP or RESP frees its tag and hands its status to the work that waits; one that nothing awaits is
late and counted; TARGET_RESET re-issues with the same tag at most RETRY times; a tag times out after FAB_RESP_TIMEOUT with UNREACHABLE. A packet of another
partition is discarded, counted and reported (R301, R313, R319 to R321, R330, R460). -/
def Transactions : Prop :=
  (∀ (d : Dev) (c : CtxId) (pkt : Packet),
    let inside : Prop := ∀ k, 1 ≤ k → k ≤ 3 → coordOf pkt.dst k < d.dimSize k
    let sent := ((pkt.put 81 64 d.addr).put 89 82 d.part).put 6 6 (b2n d.pw.throttle)
    let key := flowKey pkt.dst pkt.vc pkt.flow
    let seq := Tbl.get d.fab.txFlow key 0
    let out := sent.put 127 96 seq.toNat
    (¬ inside → d.originate c pkt = (d, false))
    ∧ (inside → d.inPart pkt.dst = false →
        d.originate c pkt = ((d.postCtx c 0x6006 (packB [(0, d.addr), (4, pkt.dst), (8, d.part)])).bump fabSet 0 1, false))
    ∧ (inside → d.inPart pkt.dst = true → pkt.type ≠ 6 → ∀ q dl, d.route none pkt false = .out q dl →
        d.originate c pkt = (({ d with fab := { d.fab with txFlow := Tbl.set d.fab.txFlow key (seq + 1) 0 } } : Dev).sendPkt q (out.put 14 14 (b2n dl)), true)))
  ∧ (∀ (p : PortId) (pkt : Packet) (s : State) (rd : Bool), FabClear s.dev → s.dev.receives p = true → pkt.broken = false → pkt.dst = s.dev.addr →
      pkt.type = (if rd then 4 else 5) →
      let o := if rd then exec (.readResp p pkt) s else exec (.resp p pkt) s
      let e := s.dev.takeRx p pkt
      let ours : Prop := pkt.part = s.dev.part ∧ s.dev.inPart pkt.src = true
      let asked (x : Xact) : Prop := Tbl.find s.dev.fab.tags pkt.tag = some x ∧ x.pkt.type = (if rd then 3 else 2)
      (¬ ours → Quiet s.dev 0x80044 32 →
        o = .next { s with dev := (counted e 0x80044 32).post 0x6006 (packB [(0, pkt.src), (4, pkt.dst), (8, pkt.part)]) })
      ∧ (ours → s.dev.rs.run ≠ none → o = .next { s with dev := e })
      ∧ (ours → s.dev.rs.run = none → (Tbl.find s.dev.fab.tags pkt.tag = none ∨ ∃ till, s.dev.fab.quiet = some till ∧ s.dev.lt < till) →
          Quiet s.dev 0x80050 32 → o = .next { s with dev := counted e 0x80050 32 })
      ∧ (ours → s.dev.rs.run = none → (∀ till, s.dev.fab.quiet = some till → till ≤ s.dev.lt) → ∀ x, asked x → pkt.op ≠ 1 → ∀ h : x.work < 16384,
          let freed : Dev := { e with fab := { e.fab with tags := Tbl.erase e.fab.tags pkt.tag } }
          o = .next { s with dev := Dev.settleFab 7 (freed.jobGot ⟨x.work, h⟩ pkt.op pkt) })
      ∧ (ours → s.dev.rs.run = none → (∀ till, s.dev.fab.quiet = some till → till ≤ s.dev.lt) → ∀ x, asked x → pkt.op = 1 → x.tries < (s.dev.reg 0x160028).toNat % 8 →
          s.dev.inDomain x.pkt.dst = true → (∀ k, ∀ y ∈ (s.dev.port k).tx, y.type < 6 ∨ y.src ≠ s.dev.addr) →
          ∀ q dl, s.dev.route none (((x.pkt.put 81 64 s.dev.addr).put 6 6 (b2n s.dev.pw.throttle)).put 89 82 s.dev.part) false = .out q dl →
          ∃ t, o = .next t ∧ Tbl.find t.dev.fab.tags pkt.tag = some { x with lt := s.dev.lt, tries := x.tries + 1 }
            ∧ t.dev.fab.ended = [] ∧ t.dev.gr = s.dev.gr ∧ t.dev.mm = s.dev.mm ∧ t.dev.upd = s.dev.upd ∧ t.dev.regs = s.dev.regs))
  ∧ ∀ (ftag : BitVec 16) (s : State), FabClear s.dev →
      (Tbl.find s.dev.fab.tags ftag.toNat = none → exec (.responseTimeout ftag) s = .next s)
      ∧ ∀ x, Tbl.find s.dev.fab.tags ftag.toNat = some x →
        let due := x.lt + (if x.tries = 0 then 100 * ((s.dev.reg 0x80014).toNat % 2 ^ 24) else 100000 * ((s.dev.reg 0x160028).toNat / 2 ^ 16))
        (s.dev.lt < due → exec (.responseTimeout ftag) s = .next s)
        ∧ (due ≤ s.dev.lt → ∀ h : x.work < 16384,
            let freed : Dev := { s.dev with fab := { s.dev.fab with tags := Tbl.erase s.dev.fab.tags ftag.toNat } }
            exec (.responseTimeout ftag) s = .next { s with dev := Dev.settleFab 7 (freed.jobGot ⟨x.work, h⟩ 3 ⟨0, []⟩) })

end Sys2Proof

/-- Routing of packets, and transactions. -/
def Obligations.PacketsAndTransactions : Prop := Routing ∧ Transactions

/-! ## Collectives (11) -/

namespace Sys2Proof

/-- The commands by which a collective, Winnow or journal packet reaches its endpoint, with the OP each takes. -/
def collCommands (p : PortId) (pkt : Packet) : List (Instr × Nat) :=
  [(.reduce p pkt, 0), (.copy p pkt, 1), (.abort p pkt, 2), (.winUp p pkt, 0x80), (.winDown p pkt, 0x81), (.jrnUp p pkt, 0x82), (.jrnDown p pkt, 0x83)]

/-- An endpoint packet that the device accepts: it lies at a working port, is sound, is for this device and this partition, and no reset drains. -/
def Accepted (s : State) (p : PortId) (pkt : Packet) : Prop :=
  s.dev.receives p = true ∧ pkt.broken = false ∧ pkt.dst = s.dev.addr ∧ pkt.part = s.dev.part ∧ s.dev.inPart pkt.src = true ∧ s.dev.rs.run = none

/-- Work of an opcode that is dispatched, whose context runs and that has no retired channel or absent unit behind it. -/
def Runs (s : State) (tag : Tag) (v : Work) (op : Nat) : Prop :=
  s.dev.running tag op = some v ∧ s.dev.work tag = some v ∧ v.marked = false ∧ v.unreachable = false ∧ v.phase = .dispatched

end Sys2Proof

/-- Chunks. The N chunks of a range follow each other from its base, cover it, and every inner edge lies a whole number of ALIGN from the base (R338). -/
def Obligations.ChunksTile : Prop :=
  ∀ (base len n align : Nat), 0 < n → 0 < align →
    (chunk base len n 0 align).1 = base
    ∧ (∀ j, (chunk base len n (j + 1) align).1 = (chunk base len n j align).1 + (chunk base len n j align).2)
    ∧ (chunk base len n n align).1 = base + len
    ∧ ((List.range n).map (fun j => (chunk base len n j align).2)).sum = len
    ∧ ∀ j, (chunk base len n j align).1 = base + len ∨ align ∣ (chunk base len n j align).1 - base

namespace Sys2Proof

/-- Collective packets at their member. A duplicate of its flow is discarded and counted; without an armed slot a packet is held early while its COLL_ID is
newer than every one armed for its JOB and the store has room, an ABORT as a marker, and is else stale and counted; a packet of a later phase waits in its
slot; one of the phase that runs is consumed, and an ABORT of an armed slot aborts the collective with PEER_ABORT (R320, R343, R347). -/
def CollectivePackets : Prop :=
  ∀ (p : PortId) (pkt : Packet) (s : State) (c : Instr) (op : Nat), (c, op) ∈ collCommands p pkt → FabClear s.dev → Accepted s p pkt →
    pkt.type = 6 → pkt.op = op →
    let d := s.dev
    let e := d.takeRx p pkt
    let key := flowKey pkt.src pkt.vc pkt.flow
    let want := Tbl.get d.fab.rxFlow key 0
    let job := pkt.flow / 2
    let stepped (x : Dev) : Dev := { x with fab := { x.fab with rxFlow := Tbl.set x.fab.rxFlow key (pkt.seq + 1) 0 } }
    let early : Prop := Tbl.find d.col.armed job = none ∨ ∃ a, Tbl.find d.col.armed job = some a ∧ newer16 pkt.collId a = true
    (pkt.seq ≠ want → newer pkt.seq want = false → Quiet d 0x80048 32 → exec c s = .next { s with dev := counted e 0x80048 32 })
    ∧ (pkt.seq = want → d.slotFor pkt = none → ¬ early → Quiet d 0x140048 32 → exec c s = .next { s with dev := counted (stepped e) 0x140048 32 })
    ∧ (pkt.seq = want → d.slotFor pkt = none → early → op ≠ 2 → (d.col.early.map (·.len)).sum + pkt.len ≤ 16384 → Quiet d 0x14004C 32 →
        exec c s = .next { s with dev := { counted (stepped e) 0x14004C 32 with col := { d.col with early := d.col.early ++ [pkt] } } })
    ∧ (pkt.seq = want → d.slotFor pkt = none → early → op = 2 → d.col.markers.length < 64 → Quiet d 0x14004C 32 →
        exec c s = .next { s with dev := { counted (stepped e) 0x14004C 32 with
          col := { d.col with markers := d.col.markers ++ [(job, pkt.collId, pkt.src, pkt.addr % 256)] } } })
    ∧ (pkt.seq = want → d.slotFor pkt = none → early → op ≠ 2 → 16384 < (d.col.early.map (·.len)).sum + pkt.len → d.col.earlyTold = true →
        ∃ t, exec c s = .next t ∧ OnlyPort s t p ∧ pkt ∈ (t.dev.port p).rx)
    ∧ (∀ n sl v, pkt.seq = want → d.slotFor pkt = some (n, sl) → d.work sl.tag = some v → op ≠ 2 →
        ∀ i ph, (d.phases v.desc)[i]? = some ph → ph.code = pkt.step / 8192 → (∀ k q, k < i → (d.phases v.desc)[k]? = some q → q.code ≠ ph.code) →
        (sl.k < i + 1 → dOp v.desc ≠ 0x701 ∨ d.hopHeld sl.id = false →
          exec c s = .next { s with dev := stepped ((d.modSlot n (fun x => { x with later := x.later ++ [pkt], act := d.lt })).takeRx p pkt) })
        ∧ (i + 1 < sl.k → Quiet d 0x140048 32 → exec c s = .next { s with dev := stepped (counted e 0x140048 32) })
        ∧ (∀ g, sl.k = i + 1 → dOp v.desc ≠ 0x701 →
            Dev.colResolve sl.tag ((d.consumePkt n sl.tag v.desc ph pkt).bind (fun d _ => Dev.advanceSlot sl.tag v.desc n 12 d)) = some g →
            exec c s = .next { s with dev := Dev.settleFab 8 ((g.flowStep pkt).takeRx p pkt) }))
    ∧ (∀ n sl, pkt.seq = want → d.slotFor pkt = some (n, sl) → op = 2 →
        exec c s = .next { s with dev := Dev.settleFab 8 (((d.abortColl sl.tag 3 pkt.src 0 true).flowStep pkt).takeRx p pkt) })

end Sys2Proof

/-- What a consumed packet of a reduce phase does to the sums: on a ring its running values come left of the own contribution; on a direct route the
contributions are added in ring order from the next member round to the own one; on a tree the own value comes first, then the children by level (R179, R180,
R340). And COPY bits are placed as they came (R339). Here the run waits for nothing else. -/
def Obligations.ReductionOrder : Prop :=
  ∀ (d : Dev) (n : Nat) (tag : Tag) (x : Rec64) (ph : Ph) (pkt : Packet) (own : List Word × List Bool) (e : Dev),
    let cnt := ph.count x pkt
    let got := (unitWords pkt cnt, unitBad pkt (ceilDiv cnt 16))
    let i := d.dimIndex ph.dim d.addr
    let who := d.dimIndex ph.dim pkt.src
    pkt.type ≠ 7 →
    (ph.kind = .reduce → cTree x = false → ph.dim.dim ≠ 0 → (d.mine (d.colAcc tag) x ph pkt.addr cnt).co = .ok e own →
      d.takePkt n tag x ph pkt = e.deliver n tag x ph (pkt.step % 8192 + 1) pkt.addr
        ((got.1.zip own.1).map (fun v => add32 v.1 v.2), (List.range got.2.length).map (fun u => got.2.getD u false || own.2.getD u false)))
    ∧ (ph.kind = .reduce → cTree x = false → ph.dim.dim = 0 → ph.dim.n = 3 → ∀ sl q, Tbl.find d.col.slots n = some sl → sl.parts = [q] →
        q.addr = pkt.addr → q.who = (i + 1) % 3 → who = (i + 2) % 3 → i < 3 →
        let f := d.modSlot n (fun s => { s with parts := s.parts ++ [⟨who, pkt.addr, got.1, got.2⟩] })
        (f.mine (f.colAcc tag) x ph pkt.addr cnt).co = .ok e own →
        d.takePkt n tag x ph pkt = (e.modSlot n (fun s => { s with parts := s.parts.filter (fun r => r.addr != pkt.addr) })).deliver n tag x ph 0 pkt.addr
          (addRuns (addRuns (q.vals, q.bad) got) own))
    ∧ (ph.kind = .reduce → cTree x = true → who = 0 → d.takePkt n tag x ph pkt = d.output tag x ph pkt.addr got)
    ∧ (ph.kind = .reduce → cTree x = true → ph.dim.n = 4 → i = 0 → who = 2 → ∀ sl q, Tbl.find d.col.slots n = some sl → sl.parts = [q] →
        q.addr = pkt.addr → q.who = 1 →
        let f := d.modSlot n (fun s => { s with parts := s.parts ++ [⟨2, pkt.addr, got.1, got.2⟩] })
        (f.mine (f.colAcc tag) x ph pkt.addr cnt).co = .ok e own →
        d.takePkt n tag x ph pkt = (e.modSlot n (fun s => { s with parts := s.parts.filter (fun r => r.addr != pkt.addr) })).deliver n tag x ph 0 pkt.addr
          (addRuns (addRuns own (q.vals, q.bad)) got))
    ∧ (ph.kind = .permute → ∀ sl, Tbl.find d.col.slots n = some sl → (∀ r ∈ sl.placed, r.1 + r.2 ≤ pkt.addr ∨ pkt.addr + pkt.payload.length ≤ r.1) →
        ({ d with fresh := d.fresh + 1 } : Dev).colWrite (d.colAcc tag) (fieldB x 24 8 + pkt.addr) pkt.payload (fun k => pkt.bad (k / 64)) = .ok e () →
        d.takePkt n tag x ph pkt = .ok (e.modSlot n (fun s => { s with placed := s.placed ++ [(pkt.addr, pkt.payload.length)] })) ())

namespace Sys2Proof

/-- The collective opcodes. A dispatched collective begins its phases, or goes on where it stopped short. Alone in its group it sends nothing: REDUCE_SCATTER
and ALL_REDUCE convert the one contribution into DST and report the owned range's first element, ALL_GATHER with SRC equal to DST has nothing to move, PERMUTE
copies its segment; each then ends OK. COL_PEER_TIMEOUT aborts. COL_CTX_JOB is refused while another context holds the JOB (R339, R342, R344, R345, R347). -/
def CollectiveDescriptors : Prop :=
  (∀ (tag : Tag) (s : State) (v : Work) (n : Nat) (sl : Slot) (c : Instr) (op : Nat),
    (c, op) ∈ [(.allReduce tag, 0x600), (.reduceScatter tag, 0x601), (.allGather tag, 0x602), (.permute tag, 0x603), (.rsUpdate tag, 0x701),
      (.winnow tag, 0x703), (.journalAdvance tag, 0x70A)] →
    Runs s tag v op → s.dev.slotOf tag = some (n, sl) →
    (sl.isOver = true → exec c s = .next s)
    ∧ (sl.isOver = false → sl.k = 0 → exec c s = .next { s with dev := (Dev.colResolve tag (s.dev.colStart n tag v)).getD s.dev })
    ∧ (sl.isOver = false → sl.k ≠ 0 → exec c s = .next { s with dev := (Dev.colResolve tag (Dev.advanceSlot tag v.desc n 12 s.dev)).getD s.dev }))
  ∧ (∀ (tag : Tag) (s : State) (v : Work) (n : Nat) (sl : Slot) (m : Dim),
    s.dev.slotOf tag = some (n, sl) → Tbl.find s.dev.col.slots n = some sl → sl.isOver = false → sl.k = 0 → sl.later = [] → sl.placed = [] → sl.lastIn = true →
    sl.need = 0 → sl.cause = 0 → (∀ e ∈ s.dev.fab.ports, e.2.tx = []) →
    let x := v.desc
    let d := s.dev
    let ac := d.colAcc tag
    let count := fieldB x 32 4
    let begun (e : Dev) (y : Dev) : Prop := y.work tag = some v ∧ y.col = e.col ∧ y.regs = d.regs ∧ y.fab = d.fab
    let ends (res : Word) (o : Host.Outcome State Fault Refusal) : Prop := ∃ t, o = .next t ∧ (t.dev.work tag).map (·.phase) = some (.finished 0 res)
      ∧ (∃ sl', Tbl.find t.dev.col.slots n = some sl' ∧ sl'.isOver = true ∧ sl'.cause = 0) ∧ t.pending = s.pending ∧ t.sec = s.sec
    dimsOf x = [m] → m.n = 1 → d.dimIndex m d.addr = 0 → fieldB x 48 1 / 128 = 0 → 0 < count → count ≤ 256 → cScale x = 0 → 3 ≤ cOut x → cOut x ≤ 7 →
    (Runs s tag v 0x602 → fieldB x 16 8 = fieldB x 24 8 → ends 0 (exec (.allGather tag) s))
    ∧ (Runs s tag v 0x601 ∨ Runs s tag v 0x600 → ∀ e1 e2 r,
        let d0 := d.modSlot n (fun s => { s with k := 1 })
        d0.inputVals ac x 0 count = .ok e1 r → begun d0 e1 →
        e1.colWrite ac (fieldB x 24 8) (packElems (fmtBits (cOut x)) (r.1.map (fun w => (convert (cOut x) (cSat x) (f32 w)).code)))
          (fun k => r.2.getD (8 * k / fmtBits (cOut x) / 16) false) = .ok e2 () → begun d0 e2 →
        (Runs s tag v 0x601 → ends 0 (exec (.reduceScatter tag) s)) ∧ (Runs s tag v 0x600 → ends 0 (exec (.allReduce tag) s)))
    ∧ (Runs s tag v 0x603 → count = 1 → fieldB x 52 4 = 0 → ∀ e1 e2 e3 bs r,
        let d0 := d.modSlot n (fun s => { s with k := 1 })
        d0.engRead ac 5 (fieldB x 16 8) 32 = .ok e1 bs → begun d0 e1 →
        let src := leNat (bs.take 8)
        let off := leNat ((bs.drop 8).take 8)
        src % 64 = 0 → off % 64 = 0 → leNat ((bs.drop 16).take 4) = 64 → leNat ((bs.drop 20).take 2) = 0 → leNat ((bs.drop 22).take 10) = 0 →
        e1.colRead (e1.colAcc tag) src 64 = .ok e2 r → begun d0 e2 →
        ({ e2 with fresh := e2.fresh + 1 } : Dev).colWrite (e2.colAcc tag) (fieldB x 24 8 + off) r.1 r.2 = .ok e3 () → begun d0 e3 →
        ends 0 (exec (.permute tag) s)))
  ∧ (∀ (n : Fin 16) (s : State) (sl : Slot) (v : Work), Tbl.find s.dev.col.slots n = some sl →
      let due := sl.act + 100000 * ((s.dev.reg 0x140004).toNat % 2 ^ 16)
      (sl.isOver = true ∨ sl.lastIn = true ∨ s.dev.lt < due → exec (.peerTimeout n) s = .next s)
      ∧ (sl.isOver = false → sl.lastIn = false → due ≤ s.dev.lt → s.dev.slotOf sl.tag = some (n.val, sl) → s.dev.work sl.tag = some v →
          ∃ t, exec (.peerTimeout n) s = .next t
            ∧ ∃ sl', Tbl.find t.dev.col.slots n = some sl' ∧ sl'.isOver = true ∧ sl'.cause = 4 ∧ sl'.lastIn = true ∧ sl'.id = sl.id))
  ∧ ∀ (c : CtxId) (val : Word) (s : State), s.dev.reaches .pcie (offColJob c) = true →
      let job := val.toNat % 128
      let taken : Prop := val.toNat / 256 % 2 = 1 ∧ ((∃ e ∈ s.dev.hq.ctxs, e.1 ≠ c.val ∧ e.2.job = some job)
        ∨ ∃ k, k < 256 ∧ k ≠ c.val ∧ (s.dev.reg (offColJob k)).toNat / 256 % 2 = 1 ∧ (s.dev.reg (offColJob k)).toNat % 128 = job)
      (taken → exec (.colCtxJob c val) s = .next { s with dev := { s.dev with col := { s.dev.col with cfgCtx := c.val, cfgResult := 1 } } })
      ∧ (¬ taken → ∃ t, exec (.colCtxJob c val) s = .next t ∧ t = { s with dev := { s.dev with regs := t.dev.regs } }
          ∧ (t.dev.reg (offColJob c)).toNat = job + 256 * (val.toNat / 256 % 2) ∧ ∀ o, o ≠ offColJob c → t.dev.reg o = s.dev.reg o)

end Sys2Proof

/-- Collectives: what their descriptors start and what their packets bring. -/
def Obligations.CollectivesOnTheFabric : Prop := CollectivePackets ∧ CollectiveDescriptors

/-! ## Parameters, updates and checkpoints (12) -/

namespace Sys2Proof

/-- An UPDATE instruction that a stage of the engine's own context issues with the TRAIN licence (R356, R371). -/
def UpdIssue (s : State) (a : At) (w : IWord) (c : CtxId) (i op : Nat) : Prop :=
  Issuing s a w c i ∧ wb w 60 4 = 10 ∧ wb w 56 3 = op ∧ bitOf (s.dev.licOf a.core) 0 = true ∧ s.dev.updCtx = some c

/-- The core counts an operation that is accepted as BUSY (R373). -/
def working (d : Dev) (a : At) : Dev := d.modCore a.core (fun k => { k with busy := k.busy + 1 })

/-- The key of element 0 of the 256 words that TB and ROW4 name (R371). -/
def updWords (w : IWord) : Nat := 1024 * wb w 53 3 + 256 * wb w 51 2

/-- A shard unit's work that runs its descriptor on one record (NSHARD 1), its job as it stands. -/
def OneShard (s : State) (tag : Tag) (v : Work) (op : Nat) (j : Job) : Prop :=
  Runs s tag v op ∧ s.dev.job tag = some j ∧ j.wait = none ∧ j.i = 0 ∧ j.outcome = 0 ∧ j.count = 0 ∧ fieldB v.desc 26 2 = 1

/-- The descriptor ends OK with a RESULT, from the state that its last step left. -/
def UnitEnds (s : State) (tag : Tag) (v : Work) (e : Dev) (res : Word) (o : Host.Outcome State Fault Refusal) : Prop :=
  ∃ t d, o = .next t ∧ (d = e ∨ ∃ j, d = e.setJob tag j) ∧ t = { s with dev := d.finishWork tag 0 res } ∧ (t.dev.work tag).map (·.phase) = some (.finished 0 res)
    ∧ (∀ n, n ≠ tag.val → t.dev.work n = e.work n) ∧ e.work tag = some v

end Sys2Proof

/-- UPDATE instructions. HPOP moves the oldest arrival of the Hopper into the tile buffer, its element index to SD and its shard index to SE; STAGE writes the
buffer's 256 values to the staged slot and adds 256 to STAGED_COUNT, or, where the shard is not OPEN, sets LATE and counts a rejected stage; LOAD_OLD reads the
current values; SLOT_ADDR gives a slot's IOVA. A shard at or beyond UPD_SHARD_COUNT, one that is not OWNED, a bad element index and an ARRAY over NSTATE raise
ILLEGAL_INSTRUCTION, no TRAIN licence UNLICENSED_UNIT (R120, R371, R372). -/
def Obligations.UpdateInstructions : Prop :=
  ∀ (a : At) (w : IWord) (c : CtxId) (i : Nat) (s : State),
    let k := s.dev.core a.core
    let st := k.stage i
    let d := s.dev
    let ac := d.coreAcc a.core i c
    let si := (st.reg (wb w 46 5)).toNat % 65536
    let x := (st.reg (wb w 41 5)).toNat
    let illegal (o : Host.Outcome State Fault Refusal) : Prop := (s.dev.ctx c).state = .active → ∃ t, o = .next t ∧ (t.dev.ctx c).state = .parked
      ∧ (∃ p, (t.dev.ctx c).park = some p ∧ p.cause = 1) ∧ (t.dev.core a.core).stage i = st ∧ (t.dev.core a.core).t = k.t
    (∀ r rest, UpdIssue s a w c i 0 → wb w 41 10 = 0 → wb w 0 31 = 0 → k.hopper = r :: rest → r.data.length = 16 →
        (∀ b ∈ r.data, b.bytes.length = 64 ∧ b.poison = false) →
        ∃ t, exec (.hpop a w) s = .next t
          ∧ t = { s with dev := { s.dev with fresh := s.dev.fresh + 1, gr := { s.dev.gr with cores := t.dev.gr.cores } } }
          ∧ (∀ m, m ≠ a.core.val → t.dev.core m = s.dev.core m) ∧ (∀ j, j ≠ i → (t.dev.core a.core).stage j = k.stage j)
          ∧ t.dev.core a.core = { k with hopper := rest, t := (t.dev.core a.core).t, stages := (t.dev.core a.core).stages, busy := k.busy + 1 }
          ∧ (∀ e, e < 256 → Tbl.get (t.dev.core a.core).t (updWords w + e) 0 = wordAt (r.data.flatMap (·.bytes)) e)
          ∧ (∀ n, (n < updWords w ∨ updWords w + 256 ≤ n) → Tbl.get (t.dev.core a.core).t n 0 = Tbl.get k.t n 0)
          ∧ StageGoes st ((t.dev.core a.core).stage i) (st.pc + 8)
              (fun n => if n = wb w 31 5 then BitVec.ofNat 32 r.shard else if n = wb w 36 5 then BitVec.ofNat 32 r.elem else st.reg n))
    ∧ (UpdIssue s a w c i 0 → wb w 41 10 = 0 → wb w 0 31 = 0 → k.hopper = [] → ∃ t, exec (.hpop a w) s = .next t
        ∧ (t.dev.core a.core).hopper = [] ∧ (t.dev.core a.core).t = k.t ∧ (t.dev.core a.core).busy = k.busy ∧ ((t.dev.core a.core).stage i).pc = st.pc
        ∧ ∀ n, ((t.dev.core a.core).stage i).reg n = st.reg n)
    ∧ (∀ e1 e2 sh, UpdIssue s a w c i 1 → wb w 0 41 = 0 → si < d.shardCount → d.shard ac si = .ok e1 sh → sh.role = 1 →
        let x := (((e1.core a.core).stage i).reg (wb w 41 5)).toNat
        x % 256 = 0 → x < sh.elems →
        (sh.flag 0 = false → e1.putShard ac si (sh.setFlags 32) = .ok e2 () → Quiet e2 0x120110 32 → e2.stopWanted a.core = false →
          AfterAccess s (working (counted e2 0x120110 32) a) a i none (exec (.stage a w) s))
        ∧ (∀ e3 e4, sh.flag 0 = true → Mv.each e1 (fun d r => d.probe ac true (pageStarts r.1 r.2)) ((e1.shardAt si, 128) :: sh.spans (sh.epoch + 1) x) = .ok e2 () →
          e2.putVals ac sh (sh.epoch + 1) x (sh.step + 1) 0 ((List.range 256).map (fun e => Tbl.get (e1.core a.core).t (updWords w + e) 0)) = .ok e3 () →
          e3.putShard ac si (sh.put 88 4 (sh.staged + 256)) = .ok e4 () → e4.stopWanted a.core = false →
          AfterAccess s (working e4 a) a i none (exec (.stage a w) s)))
    ∧ (∀ e1 e2 sh vs, UpdIssue s a w c i 2 → wb w 0 41 = 0 → si < d.shardCount → d.shard ac si = .ok e1 sh → sh.role = 1 →
        let x := (((e1.core a.core).stage i).reg (wb w 41 5)).toNat
        x % 256 = 0 → x < sh.elems →
        e1.slotVals ac sh sh.epoch x = .ok e2 vs → vs.length = 256 → e2.stopWanted a.core = false →
        ∃ t, exec (.loadOld a w) s = .next t ∧ t = { s with dev := { e2 with gr := { e2.gr with cores := t.dev.gr.cores } } }
          ∧ (∀ m, m ≠ a.core.val → t.dev.core m = e2.core m)
          ∧ (∀ e, e < 256 → Tbl.get (t.dev.core a.core).t (updWords w + e) 0 = vs.getD e 0)
          ∧ (∀ n, (n < updWords w ∨ updWords w + 256 ≤ n) → Tbl.get (t.dev.core a.core).t n 0 = Tbl.get (e2.core a.core).t n 0)
          ∧ t.dev.core a.core = { e2.core a.core with t := (t.dev.core a.core).t, stages := (t.dev.core a.core).stages, busy := (e2.core a.core).busy + 1 }
          ∧ StageGoes ((e2.core a.core).stage i) ((t.dev.core a.core).stage i) (((e2.core a.core).stage i).pc + 8) ((e2.core a.core).stage i).reg)
    ∧ (∀ e1 sh, UpdIssue s a w c i 3 → wb w 51 5 = 0 → wb w 41 5 = 0 → wb w 0 27 = 0 → si < d.shardCount → d.shard ac si = .ok e1 sh → sh.role = 1 →
        wb w 28 3 ≤ sh.nstate → e1.stopWanted a.core = false →
        let v := if wb w 28 3 = 0 then sh.wslot (sh.epoch + wb w 27 1) else sh.stateSlot (wb w 28 3 - 1) (sh.epoch + wb w 27 1)
        ∃ t, exec (.slotAddr a w) s = .next t ∧ t = { s with dev := { e1 with gr := { e1.gr with cores := t.dev.gr.cores } } }
          ∧ (∀ m, m ≠ a.core.val → t.dev.core m = e1.core m)
          ∧ t.dev.core a.core = { e1.core a.core with stages := (t.dev.core a.core).stages, busy := (e1.core a.core).busy + 1 }
          ∧ StageGoes ((e1.core a.core).stage i) ((t.dev.core a.core).stage i) (((e1.core a.core).stage i).pc + 8)
              (fun n => if n = wb w 31 5 then BitVec.ofNat 32 (v / 2 ^ 32) else if n = wb w 36 5 then BitVec.ofNat 32 v
                else ((e1.core a.core).stage i).reg n))
    ∧ (d.shardCount ≤ si →
        (UpdIssue s a w c i 1 → wb w 0 41 = 0 → illegal (exec (.stage a w) s)) ∧ (UpdIssue s a w c i 2 → wb w 0 41 = 0 → illegal (exec (.loadOld a w) s))
        ∧ (UpdIssue s a w c i 3 → wb w 51 5 = 0 → wb w 41 5 = 0 → wb w 0 27 = 0 → illegal (exec (.slotAddr a w) s)))
    ∧ (∀ e1 sh, UpdIssue s a w c i 1 → wb w 0 41 = 0 → si < d.shardCount → d.shard ac si = .ok e1 sh → e1.gr = d.gr → e1.hq = d.hq →
        sh.role ≠ 1 ∨ x % 256 ≠ 0 ∨ sh.elems ≤ x → illegal (exec (.stage a w) s))
    ∧ (Issuing s a w c i → wb w 60 4 = 10 → wb w 56 3 = 0 → bitOf (s.dev.licOf a.core) 0 = false → TrapsWith s a c i 6 0 (exec (.hpop a w) s))

/-- The records of a shard over a step. STEP_OPEN leaves STAGED_COUNT 0 and only OPEN set; a skipped step sets STEP and clears the flags; the flip turns EPOCH
over and takes the staged folds, STEP and clear flags; every other byte stays (R364, R365, R380). And the shard fold of the nine ASCII bytes "123456789" is
0x6C40_DF5F_0B49_7347 (R385). -/
def Obligations.ShardRecords : Prop :=
  (∀ (s : Shard) (n f fl : Nat), s.bs.length = 256 → n < 2 ^ 64 → f < 2 ^ 64 → fl < 2 ^ 64 →
    let same (t : Shard) (spans : List (Nat × Nat)) : Prop :=
      t.bs.length = 256 ∧ ∀ k, (∀ r ∈ spans, k < r.1 ∨ r.1 + r.2 ≤ k) → t.bs.getD k 0 = s.bs.getD k 0
    (s.opened.staged = 0 ∧ s.opened.f 17 1 = 1 ∧ same s.opened [(17, 1), (88, 4)])
    ∧ ((s.skipped n).step = n ∧ (s.skipped n).f 17 1 = 0 ∧ same (s.skipped n) [(17, 1), (64, 8)])
    ∧ ((s.flipped n f fl).epoch = 1 - s.epoch ∧ (s.flipped n f fl).fold = f ∧ (s.flipped n f fl).foldLo = fl ∧ (s.flipped n f fl).step = n
        ∧ (s.flipped n f fl).f 17 1 = 0 ∧ (∀ b, b ≠ 3 → bitOf ((s.flipped n f fl).f 8 1) b = bitOf (s.f 8 1) b)
        ∧ same (s.flipped n f fl) [(8, 1), (17, 1), (48, 8), (56, 8), (64, 8)]))
  ∧ fold64 [0x31, 0x32, 0x33, 0x34, 0x35, 0x36, 0x37, 0x38, 0x39] = 0x6C40DF5F0B497347

/-- The Winnow. The flags of a member's range are those of its shards, any set one decides SKIP, and so does a sum that is not finite; otherwise the decision
is COMMIT, or CLIP with c = CLIP_MAX / N below 1 where N exceeds CLIP_MAX (R185, R376). The group evaluated at a decision starts both tallies at 0; its run
advances where 65,536 · STEP_FLUSHED exceeds UF_THRESH · STEP_NONZERO and is else 0 (R383). -/
def Obligations.WinnowDecision : Prop :=
  (∀ (ss : List Shard) (force : Bool),
    (localFlags ss force).testBit 0 = ss.any (fun s => s.flag 2) ∧ (localFlags ss force).testBit 1 = ss.any (fun s => s.flag 3)
      ∧ (localFlags ss force).testBit 2 = ss.any (fun s => !s.flag 1 || s.flag 4 || s.flag 5) ∧ (localFlags ss force).testBit 3 = false
      ∧ (localFlags ss force).testBit 4 = ss.any (fun s => s.corrupt) ∧ (localFlags ss force).testBit 5 = force ∧ localFlags ss force < 64)
  ∧ (∀ (flags : Nat) (sum clip : Word),
    let n := rne32 (Val.sqrt (f32 sum))
    let q := rne32 (Val.div (f32 clip) (f32 n))
    (flags ≠ 0 ∨ (f32 sum).isFin = false → (decide32 flags sum clip).1 = 0 ∧ (decide32 flags sum clip).2.2 = 0x3F800000)
    ∧ ((f32 sum).isFin = false → (decide32 flags sum clip).2.1 = flags ||| 64)
    ∧ ((f32 sum).isFin = true → (decide32 flags sum clip).2.1 = flags)
    ∧ (flags = 0 → (f32 sum).isFin = true → Val.lt (f32 clip) (f32 n) = true → q ≠ 0x3F800000 → decide32 flags sum clip = (2, 0, q))
    ∧ (flags = 0 → (f32 sum).isFin = true → Val.lt (f32 clip) (f32 n) = false → decide32 flags sum clip = (1, 0, 0x3F800000)))
  ∧ ∀ (d : Dev) (g : Nat), g < 4096 → Quiet d (0x130000 + 16 * g) 32 → (d.grp g).flushed + (d.ctrAt (0x130000 + 16 * g)).val < 2 ^ 32 - 1 →
    let p := d.grp g
    let thresh := (d.reg 0x120020).toNat % 2 ^ 16
    let limit := (d.reg 0x120020).toNat / 2 ^ 16
    let run := min 65535 (p.quiet + 1)
    (p.nonzero = 0 → d.evalGroup g = d)
    ∧ (p.nonzero ≠ 0 → 65536 * p.flushed ≤ thresh * p.nonzero → (d.evalGroup g).grp g = ⟨0, 0, 0, false⟩)
    ∧ (p.nonzero ≠ 0 → thresh * p.nonzero < 65536 * p.flushed → run ≠ limit ∨ p.raised = true → (d.evalGroup g).grp g = ⟨0, 0, run, p.raised⟩)
    ∧ (p.nonzero ≠ 0 → thresh * p.nonzero < 65536 * p.flushed → run = limit → d.updCtx = none → (d.evalGroup g).grp g = ⟨0, 0, run, true⟩)
    ∧ (∀ n, n ≠ g → d.updCtx = none → (d.evalGroup g).grp n = d.grp n)

/-- Arrivals. The last sums of a shard's elements enter its Hopper oldest first while one of 16 entries is free and the core's cluster is powered, and HOP_TOKEN
of the core is signalled with COUNT 1; otherwise nothing happens. A HOPPER packet of the running last phase brings 256 sums (R366 to R368, R374). -/
def Obligations.Arrivals : Prop :=
  (∀ (core : CoreId) (s : State) (f : Formed),
    s.dev.upd.formed.find? (fun f => f.core = core.val) = some f →
    let k := s.dev.core core
    let ac := match s.dev.rsSlot f.arr.coll with | some (_, t) => s.dev.colAcc t.tag | none => s.dev.updAcc (s.dev.updCtx.getD 0)
    (16 ≤ k.hopper.length ∨ s.dev.on (clusterOf core) = false → exec (.hopperDelivery core) s = .next s)
    ∧ (∀ e sh g, k.hopper.length < 16 → s.dev.on (clusterOf core) = true → s.dev.shard ac f.arr.shard = .ok e sh →
        let e1 : Dev := { e with upd := { e.upd with formed := e.upd.formed.erase f } }
        (e1.modCore core (fun k => { k with hopper := k.hopper ++ [f.arr] })).signal core false (sh.hopToken % 32) 1 = some g →
        exec (.hopperDelivery core) s = .next { s with dev := g.runSlots }))
  ∧ (∀ (core : CoreId) (s : State), s.dev.upd.formed.find? (fun f => f.core = core.val) = none → exec (.hopperDelivery core) s = .next s)
  ∧ (∀ (p : PortId) (pkt : Packet) (s : State) (n : Nat) (sl : Slot) (v : Work) (ph : Ph), FabClear s.dev → Accepted s p pkt → pkt.type = 7 →
      let key := flowKey pkt.src pkt.vc pkt.flow
      pkt.seq = Tbl.get s.dev.fab.rxFlow key 0 → s.dev.slotFor pkt = some (n, sl) → s.dev.work sl.tag = some v → dOp v.desc = 0x701 →
      s.dev.phaseOf v.desc sl = some ph → ph.code = pkt.step / 8192 → ph.pos + 1 = (dimsOf v.desc).length → s.dev.hopHeld sl.id = false →
      let d1 := (s.dev.modSlot n (fun x => { x with
          need := x.need - 256
          act := s.dev.lt
          thr := if pkt.f 6 6 = 1 then (if x.thr.contains pkt.src then x.thr else x.thr ++ [pkt.src]) else x.thr.filter (fun a => a != pkt.src) })).markLast n sl.tag v.desc
      ∀ e g, d1.formArrival (d1.colAcc sl.tag) (cId v.desc) (cOut v.desc) (cSat v.desc) (pkt.addr / 2 ^ 32 % 2 ^ 16) (pkt.addr % 2 ^ 32)
          (unitWords pkt 256) (unitBad pkt 16) = .ok e () →
        Dev.colResolve sl.tag (Dev.advanceSlot sl.tag v.desc n 12 e) = some g →
        exec (.arrival p pkt) s = .next { s with dev := Dev.settleFab 8 ((g.flowStep pkt).takeRx p pkt) })
  ∧ ∀ (d : Dev) (ac : Acc) (coll fmt si i : Nat) (sat : Bool) (g : List Word) (bad : List Bool) (e e2 e3 : Dev) (sh : Shard),
      d.shard ac si = .ok e sh → g.length = 256 → bad = List.replicate 16 false → sh.role = 1 → sh.flag 0 = true →
      let xs := g.map (fun v => rne32 (decode fmt (convert fmt sat (f32 v)).code))
      let squares := xs.map (fun x => mul32 x x)
      let nan := xs.any (fun x => !(f32 x).isFin)
      let absurd := xs.any (fun x => (f32 x).isFin && Val.lt (f32 (e.reg 0x12001C)) (f32 x).abs)
      let want := (if nan then 4 else 0) + (if absurd then 8 else 0)
      let arr : Arrival := ⟨si, i, coll, (List.range 16).map (fun u => ⟨((xs.drop (16 * u)).take 16).flatMap (bytesOf 4), false⟩)⟩
      let nz := (g.filter (fun v => v.toNat % 2 ^ 31 != 0)).length
      let gone := ((g.zip xs).filter (fun v => v.1.toNat % 2 ^ 31 != 0 && v.2.toNat % 2 ^ 31 = 0)).length
      (e.modGrp sh.group (fun p => { p with nonzero := min 0xFFFFFFFF (p.nonzero + nz), flushed := min 0xFFFFFFFF (p.flushed + gone) })).writeRange ac
        (sh.ssqAddr + 4 * (i / 256)) (bytesOf 4 ((pairAdd (pairAdd (pairAdd (pairAdd (pairAdd (pairAdd (pairAdd (pairAdd squares)))))))).headD 0)) = .ok e2 () →
      (if (sh.setFlags want).f 17 1 = sh.f 17 1 then e3 = e2 else e2.putShard ac si (sh.setFlags want) = .ok e3 ()) →
      Quiet e3 0x120100 64 → (e3.core sh.core).hopOpen = true →
      d.formArrival ac coll fmt sat si i g bad = .ok { counted e3 0x120100 64 with upd := { e3.upd with formed := e3.upd.formed ++ [⟨sh.core, arr⟩] } } ()

namespace Sys2Proof

/-- Descriptors of the shard units on one record. STEP_OPEN opens an OWNED record whose STEP is n − 1, reports BAD_STEP for another STEP and BAD_RECORD for
one that is not OWNED; SEAL seals an OPEN one; COMMIT skips, flips, sweeps a group, does nothing for a STEP already n, reports NOT_SEALED, and BAD_STEP without
a decision; AUDIT re-folds; WINNOW_RECOVER returns the own decision; JOURNAL_RESOLVE of the root keeps DONE or rolls back. RESULT holds OUTCOME and COUNT
(R363 to R365, R375, R379 to R382, R388, R395). -/
def ShardUnits : Prop :=
  ∀ (tag : Tag) (s : State) (v : Work) (j : Job), j.step = 0 → j.pos = 0 → j.got = none →
    let ac : Acc := { v.acc tag .granary with half := j.unit / 2 }
    let n := fieldB v.desc 16 8
    let i := fieldB v.desc 24 2
    let kept (e : Dev) : Prop := e.work tag = some v
    (OneShard s tag v 0x700 j → ∀ e1 r e2 e3 sh, s.dev.stepRec ac n = .ok e1 r →
        (if r.is 1 n then e2 = e1 else e1.putStep ac n (natLe 64 (packB [(0, n), (8, 1)])) = .ok e2 ()) → kept e2 →
        (e2.setJob tag (j.to 1)).shard ac i = .ok e3 sh → kept e3 →
        (sh.role ≠ 1 → UnitEnds s tag v e3 2 (exec (.stepOpen tag) s))
        ∧ (sh.role = 1 → sh.step ≠ (n + 2 ^ 64 - 1) % 2 ^ 64 → UnitEnds s tag v e3 1 (exec (.stepOpen tag) s))
        ∧ (∀ e4, sh.role = 1 → sh.step = (n + 2 ^ 64 - 1) % 2 ^ 64 → e3.putShard ac i sh.opened = .ok e4 () → kept e4 →
            UnitEnds s tag v e4 256 (exec (.stepOpen tag) s)))
    ∧ (OneShard s tag v 0x702 j → ∀ e1 sh, s.dev.shard ac i = .ok e1 sh → kept e1 →
        (sh.role ≠ 1 → UnitEnds s tag v e1 2 (exec (.seal tag) s))
        ∧ (sh.role = 1 → sh.flag 0 = false → UnitEnds s tag v e1 0 (exec (.seal tag) s))
        ∧ (∀ e2 f e3 fl e4 ps e5, sh.role = 1 → sh.flag 0 = true → e1.foldImage ac sh (sh.epoch + 1) = .ok e2 f → e2.foldLow ac sh (sh.epoch + 1) = .ok e3 fl →
            e3.partials ac sh = .ok e4 ps → e4.flushSlots ac sh (sh.epoch + 1) = .ok e5 () → sh.bs.length = 256 → f < 2 ^ 64 →
            ∃ y : Shard, y.flag 0 = false ∧ y.flag 1 = true ∧ (y.flag 4 = true ↔ sh.flag 4 = true ∨ sh.staged ≠ sh.elems) ∧ y.f 72 8 = f
              ∧ y.ssq = sumLeft ps ∧ y.step = sh.step ∧ y.epoch = sh.epoch
              ∧ ∀ e6, e5.putShard ac i y = .ok e6 () → kept e6 → UnitEnds s tag v e6 256 (exec (.seal tag) s)))
    ∧ (OneShard s tag v 0x704 j → ∀ e1 r, s.dev.stepRec ac n = .ok e1 r → kept e1 →
        (r.is 2 n = false → ∃ t, exec (.commit tag) s = .next t ∧ t = { s with dev := e1.finishWork tag 0 1 })
        ∧ (∀ e2 sh, r.is 2 n = true → e1.shard ac i = .ok e2 sh → kept e2 →
            let last (e : Dev) (k : Job) (z : Dev) : Prop := kept e ∧ (e.setJob tag k).stepRec ac n = .ok z r ∧ kept z
            (∀ z, sh.role ≠ 1 → last e2 (j.skip 2) z → UnitEnds s tag v z 2 (exec (.commit tag) s))
            ∧ (∀ z, sh.role = 1 → sh.step = n → last e2 j.next z → UnitEnds s tag v z 0 (exec (.commit tag) s))
            ∧ (∀ e3 z, sh.role = 1 → sh.step ≠ n → (sh.step + 1) % 2 ^ 64 = n → r.f 9 1 = 0 → sh.flag 0 = true ∨ sh.flag 1 = true →
                e2.putShard ac i (sh.skipped n) = .ok e3 () → Quiet e3 0x12011C 32 → last (counted e3 0x12011C 32) j.did z →
                UnitEnds s tag v z 256 (exec (.commit tag) s))
            ∧ (∀ z, sh.role = 1 → sh.step ≠ n → r.f 9 1 ≠ 0 → ¬ ((sh.step + 1) % 2 ^ 64 = n ∧ sh.flag 1 = true) → last e2 (j.skip 13) z →
                UnitEnds s tag v z 13 (exec (.commit tag) s))
            ∧ (∀ e3 z, sh.role = 1 → sh.step ≠ n → (sh.step + 1) % 2 ^ 64 = n → sh.flag 1 = true → r.f 9 1 = 1 →
                e2.putShard ac i (sh.flipped n (sh.f 72 8) (sh.f 80 8)) = .ok e3 () → Quiet e3 0x120118 32 → last (counted e3 0x120118 32) j.did z →
                UnitEnds s tag v z 256 (exec (.commit tag) s))
            ∧ (∀ e3, sh.role = 1 → sh.step ≠ n → (sh.step + 1) % 2 ^ 64 = n → sh.flag 1 = true → r.f 9 1 = 2 → sh.sweepPos < sh.elems →
                e2.sweepGroup ac i sh n (BitVec.ofNat 32 (r.f 20 4)) = .ok e3 () → s.dev.commitStep tag v j = .more (e3.setJob tag j))))
    ∧ (OneShard s tag v 0x707 j → ∀ e1 sh, s.dev.shard ac i = .ok e1 sh → kept e1 →
        (sh.role = 0 ∨ sh.role = 3 → UnitEnds s tag v e1 2 (exec (.audit tag) s))
        ∧ (∀ e2 f e3 fl, sh.role = 1 → e1.foldImage ac sh sh.epoch = .ok e2 f → e2.foldLow ac sh sh.epoch = .ok e3 fl →
            (f = sh.fold → sh.short = true ∨ fl = sh.foldLo → kept e3 → UnitEnds s tag v e3 256 (exec (.audit tag) s))
            ∧ (∀ e4, f ≠ sh.fold → e3.putShard ac i (sh.setBit 4 true) = .ok e4 () → Quiet e4 0x120130 32 →
                let e5 := (counted e4 0x120130 32).postUpd 0x8003 (packB [(0, i), (4, sh.id.toNat), (8, sh.fold), (16, f)])
                kept e5 → UnitEnds s tag v e5 256 (exec (.audit tag) s))))
    ∧ (Runs s tag v 0x705 → s.dev.job tag = some j → j.wait = none → ∀ e1 r, s.dev.stepRec ac n = .ok e1 r → kept e1 →
        (r.is 2 n = true → exec (.winnowRecover tag) s
            = .next { s with dev := e1.finishWork tag 0 (BitVec.ofNat 32 (r.f 9 1 + 2 ^ 8 * (r.f 12 4 % 2 ^ 24))) })
        ∧ (r.is 2 n = false → e1.linear v.desc = 0 → exec (.winnowRecover tag) s = .next { s with dev := e1.finishWork tag 0 11 }))
    ∧ (Runs s tag v 0x70B → s.dev.job tag = some j → j.wait = none → j.outcome = 0 → j.count = 0 → s.dev.linear v.desc = 0 →
        ∀ e1 e2 h, s.dev.engRead ac 6 n 64 = .ok e1 h → e1.engRead ac 6 n 64 = .ok e2 h → kept e2 →
        let done := jField h 12 4
        let back := bitOf (fieldB v.desc 28 1) 0
        (∀ e3, back = false → e2.putSector ac n (patch h 12 (natLe 4 done)) = .ok e3 () →
          exec (.journalResolve tag) s = .next { s with dev := e3.finishWork tag 0 (BitVec.ofNat 32 (2 ^ 8 * min done 0xFFFFFF)) })
        ∧ (∀ e3, back = true → done ≤ jField h 8 4 → e2.putSector ac n (patch (patch h 12 (natLe 4 0)) 16 [1]) = .ok e3 () →
          exec (.journalResolve tag) s = .next { s with dev := e3.finishWork tag 0 0 })
        ∧ (back = true → jField h 8 4 < done → exec (.journalResolve tag) s = .next { s with dev := e2.finishWork tag 0 8 }))

end Sys2Proof

namespace Sys2Proof

/-- Descriptors of the shard units that need a peer, on one record. FETCH asks the owner of a REPLICA for its header, and once the image's fold equals the
owner's FOLD and its STEP has not changed, writes both into the record; STOOK_SAVE asks the partner for its headers, and counts a shard's bytes once the last
write of it is answered; STOOK_RESTORE likewise, restores from data that folds right, and reports NO_CHECKPOINT without a generation; an owner that cannot be
reached gives UNREACHABLE (R363, R387, R391, R392). -/
def ShardUnitsAndPeers : Prop :=
  ∀ (tag : Tag) (s : State) (v : Work) (j : Job),
    let d := s.dev
    let ac : Acc := { v.acc tag .granary with half := j.unit / 2 }
    let i := fieldB v.desc 24 2
    let kept (e : Dev) : Prop := e.work tag = some v
    let asks (e : Dev) (k : Job) (t : Nat) (o : Host.Outcome State Fault Refusal) : Prop :=
      o = .next { s with dev := e.setJob tag { k with wait := some t, got := none, refused := false } }
    (OneShard s tag v 0x706 j → ∀ e1 sh, d.shard ac i = .ok e1 sh → kept e1 →
        (sh.role ≠ 2 → UnitEnds s tag v e1 2 (exec (.fetch tag) s))
        ∧ (sh.role = 2 → j.step = 0 →
            let ask := updPkt 3 0 0x10 1 sh.owner sh.ownerIndex []
            (∀ e2 t, e1.transact v.ctx tag ask = .sent e2 t → asks e2 (j.to 1) t (exec (.fetch tag) s))
            ∧ (∀ e2 e3 sh', e1.transact v.ctx tag ask = .unreachable e2 → kept e2 →
                (e2.setJob tag { j.to 1 with wait := none, got := some (3, []), refused := false }).shard ac i = .ok e3 sh' → sh'.role = 2 → kept e3 →
                UnitEnds s tag v e3 12 (exec (.fetch tag) s)))
        ∧ (∀ bs e2, sh.role = 2 → j.step = 4 → j.got = some (0, bs) → jField bs 16 8 = jField j.hdr 16 8 → j.fold = jField bs 24 8 →
            e1.putShard ac i ((sh.put 64 8 (jField bs 16 8)).put 48 8 (jField bs 24 8)) = .ok e2 () → kept e2 →
            UnitEnds s tag v e2 256 (exec (.fetch tag) s)))
    ∧ (OneShard s tag v 0x708 j →
        (∀ e t, j.step = 0 → d.transact v.ctx tag (updPkt 3 3 0x21 1 d.partner 0 []) = .sent e t → asks e (j.to 1) t (exec (.stookSave tag) s))
        ∧ (∀ bs, j.step = 10 → j.got = some (0, bs) → bitOf (fieldB v.desc 28 1) 1 = false → kept (d.bump updSet 10 j.data.length) →
            UnitEnds s tag v (d.bump updSet 10 j.data.length) 256 (exec (.stookSave tag) s))
        ∧ (∀ st bs, j.step = 4 ∨ j.step = 7 ∨ j.step = 10 → j.got = some (st, bs) → st ≠ 0 →
            exec (.stookSave tag) s = .next { s with dev := d.finishWork tag 0 (if st = 4 then 5 else 12) }))
    ∧ (OneShard s tag v 0x709 j →
        (∀ e t, j.step = 0 → d.transact v.ctx tag (updPkt 3 3 0x21 1 d.partner 0 []) = .sent e t → asks e (j.to 1) t (exec (.stookRestore tag) s))
        ∧ (∀ bs, j.step = 3 → j.got = some (0, bs) → restoreGen (fieldB v.desc 16 8) j.buf bs = none →
            exec (.stookRestore tag) s = .next { s with dev := d.finishWork tag 0 6 })
        ∧ (∀ e1 e2 sh, j.step = 7 → d.shard ac i = .ok e1 sh →
            let e := 32 * (dirFind j.buf (jField j.hdr 16 4) sh.id.toNat).getD 0
            let states := jField j.buf (e + 10) 1 % 2 ^ min 4 sh.nstate
            (partsChunks (sh.stookParts states))[j.pos]? = none → j.bad = false → fold64 j.data = jField j.buf (e + 24) 8 →
            e1.restoreShard ac i sh states (jField j.buf (e + 16) 8) j.data = .ok e2 () → kept (e2.bump updSet 10 j.data.length) →
            UnitEnds s tag v (e2.bump updSet 10 j.data.length) 256 (exec (.stookRestore tag) s)))

end Sys2Proof

/-- The descriptors of the shard units, those that need no peer and those that do. -/
def Obligations.ShardDescriptors : Prop := ShardUnits ∧ ShardUnitsAndPeers

/-- What the engine serves to peers. The owner answers SHARD_HDR with bytes 0 to 9, STEP and FOLD of the record, SHARD_DATA with units of the current slot,
SHARD_VERIFY with whether its own fold matched, and REFUSED for a record beyond the table, not OWNED or CORRUPT or an offset beyond the image; STEP_REC and
JOURNAL_HDR give the record they name; STOOK_READ and STOOK_WRITE act on the buddy region, and are REFUSED from another than the partner or beyond the region; a
write waits in its port while its channel holds writes (R272, R386, R388, R389, R397). -/
def Obligations.ServedToPeers : Prop :=
  ∀ (p : PortId) (pkt : Packet) (s : State), FabClear s.dev → Accepted s p pkt →
    let d := s.dev
    let ans (e : Dev) (st : Nat) (data : List Rec64) (bad : Nat) : Host.Outcome State Fault Refusal :=
      .next { s with dev := Dev.settleFab 8 ((e.answer pkt st data bad).takeRx p pkt) }
    (pkt.type = 3 → d.updCtx = none →
        (pkt.op = 0x10 → exec (.shardHdr p pkt) s = ans d 4 [] 0) ∧ (pkt.op = 0x11 → exec (.shardData p pkt) s = ans d 4 [] 0)
        ∧ (pkt.op = 0x12 → exec (.shardVerify p pkt) s = ans d 4 [] 0) ∧ (pkt.op = 0x13 → exec (.stepRec p pkt) s = ans d 4 [] 0)
        ∧ (pkt.op = 0x14 → exec (.journalHdr p pkt) s = ans d 4 [] 0))
    ∧ (∀ c, pkt.type = 3 → d.updCtx = some c →
        let i := pkt.addr % 65536
        let k := pkt.addr / 2 ^ 32 % 2 ^ 16
        let off := pkt.addr % 2 ^ 32
        let d0 : Dev := { d with upd := { d.upd with ate := none } }
        let ans (e : Dev) (st : Nat) (data : List Rec64) (bad : Nat) : Host.Outcome State Fault Refusal :=
          ans (match e.upd.ate with | some a => ({ e with upd := { e.upd with ate := none } } : Dev).sayPoison c 255 6 a | none => e) st data bad
        (pkt.op = 0x10 → d.shardCount ≤ i → exec (.shardHdr p pkt) s = ans d0 4 [] 0)
        ∧ (∀ e sh, pkt.op = 0x10 → i < d.shardCount → d0.shard (d0.updAcc c) i = .ok e sh →
            (sh.role = 1 → sh.corrupt = false → exec (.shardHdr p pkt) s
              = ans e 0 [BitVec.ofNat 512 (sh.f 0 10 + 2 ^ 128 * sh.step + 2 ^ 192 * sh.fold)] 0)
            ∧ (sh.role ≠ 1 ∨ sh.corrupt = true → exec (.shardHdr p pkt) s = ans e 4 [] 0))
        ∧ (∀ e sh, pkt.op = 0x11 → k < d.shardCount → d0.shard (d0.updAcc c) k = .ok e sh →
            (sh.role ≠ 1 ∨ sh.corrupt = true ∨ sh.imageLen ≤ off → exec (.shardData p pkt) s = ans e 4 [] 0)
            ∧ (∀ e2 bs bad, sh.role = 1 → sh.corrupt = false → off < sh.imageLen → off + 64 * pkt.len ≤ sh.imageLen →
                e.svcRead c (sh.wslot sh.epoch + off) pkt.len = .ok e2 (bs, bad, true) → bs.length = 64 * pkt.len →
                exec (.shardData p pkt) s = ans { e2 with fresh := e2.fresh + 1 } 0 (unitsOf bs) bad))
        ∧ (∀ e sh e2 ok, pkt.op = 0x12 → i < d.shardCount → d0.shard (d0.updAcc c) i = .ok e sh → sh.role = 1 → sh.corrupt = false →
            e.refold (e.updAcc c) i sh = .ok e2 ok → exec (.shardVerify p pkt) s = ans e2 0 [BitVec.ofNat 512 (b2n ok)] 0)
        ∧ (∀ e bs bad, pkt.op = 0x13 → d0.svcRead c (d.wide64 0x120018 + 64 * (pkt.addr % 16)) 1 = .ok e (bs, bad, true) →
            exec (.stepRec p pkt) s = ans e 0 (unitsOf bs) bad)
        ∧ (∀ e bs bad, pkt.op = 0x14 → d0.svcRead c pkt.addr 1 = .ok e (bs, bad, true) → exec (.journalHdr p pkt) s = ans e 0 (unitsOf bs) bad))
    ∧ (let a := d.buddyBase + pkt.addr
       let ours : Prop := d.buddyOn = true ∧ pkt.src = d.partner ∧ pkt.addr + 64 * pkt.len ≤ d.buddyLen
       let held : Prop := ∃ u, u < pkt.len ∧ (d.chan (d.chanOf (a + 64 * u)).1).hold = true
       let serves : Prop := ∀ u, u < pkt.len → d.groupServes (groupOf (a + 64 * u)) = true ∧ d.hole (a + 64 * u) = false
       let once : Prop := pkt ∉ ((d.takeRx p pkt).port p).rx
       (¬ ours → (pkt.type = 3 → pkt.op = 0x21 → exec (.stookRead p pkt) s = ans d 4 [] 0) ∧ (pkt.type = 2 → exec (.stookWrite p pkt) s = ans d 4 [] 0))
       ∧ (ours → ¬ serves → (pkt.type = 3 → pkt.op = 0x21 → exec (.stookRead p pkt) s = ans d 3 [] 0)
          ∧ (pkt.type = 2 → once → exec (.stookWrite p pkt) s = ans d 3 [] 0))
       ∧ (ours → serves →
          (pkt.type = 3 → pkt.op = 0x21 →
            let r := (List.range pkt.len).foldl (fun (r : Dev × List Rec64 × Nat) u =>
              let x := r.1.dpaRead (a + 64 * u) 64
              (x.1, r.2.1 ++ [if x.2.2.isSome then 0 else recOf x.2.1], r.2.2 + (if x.2.2.isSome then 2 ^ u else 0))) (d, [], 0)
            exec (.stookRead p pkt) s = ans r.1 0 r.2.1 r.2.2)
          ∧ (pkt.type = 2 → ¬ held → once → exec (.stookWrite p pkt) s
              = ans ((List.range pkt.len).foldl (fun (e : Dev) u =>
                  if pkt.bad u then (e.granWrite ((a + 64 * u) / 64) Blk.bad).1 else e.dpaWrite (a + 64 * u) (bytesOf 64 (pkt.data.getD u 0))) d) 0 [] 0)
          ∧ (pkt.type = 2 → held → ∃ t, exec (.stookWrite p pkt) s = .next t ∧ pkt ∈ (t.dev.port p).rx ∧ t.dev.mm.gran = d.mm.gran
              ∧ (∀ q, q ≠ p.val → t.dev.port q = d.port q) ∧ t.dev.gr = d.gr ∧ t.dev.upd = d.upd)))

/-- The engine's set-up. UPD_CTX is refused with BUSY while the context it names or named is active. UPD_STOOK_CFG with EN takes another yoke position only and
drops every line of the buddy region without write-back; UPD_BUDDY is taken only while EN is 0, UPD_BUDDY_LEN only when even. A refused write changes nothing
but UPD_CFG_STATUS (R356, R389, R399). -/
def Obligations.UpdateSetUp : Prop :=
  ∀ (val : Word) (s : State), s.dev.reaches .pcie 0x120024 = true → s.dev.reaches .pcie 0x120004 = true →
    let d := s.dev
    let v := val.toNat
    let refused (off res : Nat) (o : Host.Outcome State Fault Refusal) : Prop :=
      o = .next { s with dev := { d with upd := { d.upd with cfgOff := off, cfgResult := res } } }
    let sets (off x : Nat) (o : Host.Outcome State Fault Refusal) : Prop := ∃ t, o = .next t ∧ t = { s with dev := { d with regs := t.dev.regs } }
      ∧ (t.dev.reg off).toNat = x ∧ ∀ k, k ≠ off → t.dev.reg k = d.reg k
    let on := d.buddyOn
    let stook (off : Word) := exec (.updStookCfg off val) s
    let inside (l : Line) : Prop := d.buddyBase ≤ 256 * l.num ∧ 256 * l.num < d.buddyBase + d.buddyLen
    let busy : Prop := (∃ c, d.updCtx = some c ∧ (d.ctx c).state.live = true) ∨ (d.ctx (v % 256)).state.live = true
    (busy → refused 0x04 1 (exec (.updCtx val) s)) ∧ (¬ busy → sets 0x120004 (v % 512) (exec (.updCtx val) s))
    ∧ (v / 256 % 2 = 0 → sets 0x120024 (v % 8) (stook 0x120024))
    ∧ (v / 256 % 2 = 1 → v % 8 = coordOf d.addr 0 → refused 0x24 2 (stook 0x120024))
    ∧ (v / 256 % 2 = 1 → v % 8 ≠ coordOf d.addr 0 → ∃ t, stook 0x120024 = .next t
        ∧ t = { s with dev := { d with regs := t.dev.regs, mm := { d.mm with lines := t.dev.mm.lines } } }
        ∧ (t.dev.reg 0x120024).toNat = v % 8 + 256 ∧ (∀ k, k ≠ 0x120024 → t.dev.reg k = d.reg k)
        ∧ ∀ l, l ∈ t.dev.mm.lines ↔ l ∈ d.mm.lines ∧ ¬ inside l)
    ∧ (on = true → refused 0x28 1 (stook 0x120028) ∧ refused 0x2C 1 (stook 0x12002C))
    ∧ (on = false → sets 0x120028 (v / 2 ^ 21 * 2 ^ 21) (stook 0x120028))
    ∧ (on = false → ∃ t, stook 0x12002C = .next t ∧ t = { s with dev := { d with regs := t.dev.regs, wide := t.dev.wide } }
        ∧ t.dev.buddyBase = (d.reg 0x120028).toNat + 2 ^ 32 * v ∧ (∀ k, k ≠ 0x12002C → t.dev.reg k = d.reg k ∧ t.dev.wide64 k = d.wide64 k))
    ∧ (v % 2 ^ 16 % 2 = 1 → refused 0x30 2 (stook 0x120030)) ∧ (v % 2 ^ 16 % 2 = 0 → sets 0x120030 (v % 2 ^ 16) (stook 0x120030))

/-! ## Power and temperature (13) -/

namespace Sys2Proof

/-- Nothing but the power block, registers, queues, messages, counters, cached translations and free values has changed. -/
def PowerOnly (s t : State) : Prop :=
  let d := t.dev
  t = { s with dev := { s.dev with regs := d.regs, hq := d.hq, env := d.env, ctr := d.ctr, mm := d.mm, mc := d.mc, fresh := d.fresh, pw := d.pw } }

/-- A power command refused: RESULT and FAILED_INDEX, one POWER_CMD_DONE, and the power block otherwise as it was (R403). -/
def PwrRefused (s : State) (kind r i : Nat) (o : Host.Outcome State Fault Refusal) : Prop :=
  o = .next { s with dev := s.dev.pwrDone kind r i } ∧ (s.dev.pwrDone kind r i).pw = { s.dev.pw with result := r, failed := i }
    ∧ ∃ t, o = .next t ∧ ControlOnly s { t with dev := { t.dev with pw := s.dev.pw } }

/-- A part as a power command is accepted: RESULT and FAILED_INDEX read 0, and work under way records cause POWER (R76, R403, R406). -/
def pwrAccepted (d : Dev) (detail : Nat) : Dev := (d.pwrResult 0 0).blameAll (fun _ => true) 2 detail

/-- P_STATE_COMMAND is refused with BUSY, TRIPPED and ENVELOPE, and otherwise starts a transition: the clock stops at most 5 µs after the command, at most 25 µs
for a faster state, is locked again at most 15 µs later, and at most 22 µs after that the transition is over, at most 2 µs for a faster state; the state in force
takes at most 7 µs with the clock running (R402, R403, R405, R407, R429). -/
def PStates : Prop :=
  ∀ (v : Via) (val : Word) (s : State), s.dev.serves v 0x40004 = true →
    let d := s.dev
    let st := val.toNat % 8
    let o := exec (.pStateCommand v val) s
    let go : Prop := d.pw.trans = none ∧ d.pw.th.tripped = false ∧ d.fastest ≤ st
    (d.pw.trans ≠ none → PwrRefused s 1 1 0 o)
    ∧ (d.pw.trans = none → d.pw.th.tripped = true → PwrRefused s 1 8 0 o)
    ∧ (d.pw.trans = none → d.pw.th.tripped = false → st < d.fastest → PwrRefused s 1 3 0 o)
    ∧ (go → ∃ x y z, x ≤ (if st = d.pw.pstate then 700 else if st < d.pw.pstate then 2500 else 500) ∧ y ≤ 1500
        ∧ z ≤ (if st < d.pw.pstate then 200 else 2200)
        ∧ o = .next { s with dev := { d with
            fresh := d.fresh + 3
            hq := (pwrAccepted d 1).hq
            pw := { d.pw with
              cmd := st
              result := 0
              failed := 0
              trans := some (if st = d.pw.pstate then ⟨1, st, [], 0, none, true, d.lt, d.lt + x, d.lt, d.lt, false⟩
                else ⟨1, st, [], 0, none, true, d.lt, d.lt + x + y + z, d.lt + x, d.lt + x + y, false⟩) } } })

/-- The end of a P-state change on a tick: the state is in force, a reset that waited for the transition acts, then POWER_CMD_DONE is posted; a state faster than
FASTEST is left at once, and admission is released otherwise. RESULT and FAILED_INDEX stand (R8, R403, R405, R406, R407). -/
def PStateEnds : Prop :=
  ∀ (d : Dev) (lic : Nat) (t : Trans), d.pw.trans = some t → t.kind = 1 ∨ t.kind = 4 → t.armed = true →
    (d.lt < t.due → d.transTick lic = d)
    ∧ (t.due ≤ d.lt →
        let f : Dev := { d with pw := { d.pw with pstate := t.target, trans := none } }
        let r := match d.rs.wait with
          | none => f
          | some (level, target) => ({ f with rs := { f.rs with wait := none } } : Dev).resetUnits level target
        let e := r.tellDone t.kind 0 0
        (e.pw.pstate < e.fastest → d.transTick lic = e.startPState 4 e.fastest 7)
        ∧ (e.fastest ≤ e.pw.pstate → e.fwUp = true → d.transTick lic = (e.pass lic).reeval lic [4])
        ∧ (e.fastest ≤ e.pw.pstate → e.fwUp = false → d.transTick lic = e)
        ∧ (d.rs.wait = none → e.pw = f.pw))

/-- Domain commands. A COUNT of 0 or above 8 and a domain above 95 are refused before any switch; the first domain listed is passed when it is as commanded,
is refused with DOMAIN_ORDER, SELF_GATE, DOMAIN_BUSY or DOMAIN_PINNED, or begins to switch; a domain that powers off takes nothing new while it drains, and a
layer-half's lines are written back. A domain not drained after 100 µs stays on with DOMAIN_BUSY (R29 to R35, R403, R408). -/
def Domains : Prop :=
  ∀ (v : Via) (val : Word) (s : State),
    let d := s.dev
    let lic := s.sec.lic
    let n := val.toNat % 16
    let m := d.domEntry 0
    let on := exec (.domainPowerOn v val) s
    let off := exec (.domainPowerOff v val) s
    let good : Prop := 0 < n ∧ n ≤ 8 ∧ ∀ i, i < n → d.domEntry i ≤ 95
    let start (kind : Nat) : Trans := ⟨kind, 0, (List.range n).map d.domEntry, 0, none, false, d.lt, d.lt, d.lt, d.lt, decide (v = .mctp)⟩
    let d0 := pwrAccepted d 2
    let ends (kind pos r i : Nat) (o : Host.Outcome State Fault Refusal) : Prop :=
      o = .next { s with dev := (d0.setTrans (some { start kind with pos := pos })).transEnd lic r i }
    let switching (kind max : Nat) (f : Dev → Dev) (o : Host.Outcome State Fault Refusal) : Prop := ∃ due, d.lt ≤ due ∧ due ≤ d.lt + max
      ∧ o = .next { s with dev := f (({ d0 with fresh := d.fresh + 1 } : Dev).setTrans (some { start kind with armed := true, due := due })) }
    let shut (e : Dev) : Prop := e.on m = true ∧ e.admits m = false ∧ ∀ k, k ≠ m → e.admits k = d.admits k
    let met : Prop := ∀ g, g ∈ domNeeds m → ∃ k, k ∈ g ∧ d.on k = true
    (d.serves v 0x40018 = true →
      (d.pw.trans ≠ none → PwrRefused s 2 1 0 on ∧ PwrRefused s 3 1 0 off)
      ∧ (d.pw.trans = none → d.pw.th.tripped = true → PwrRefused s 2 8 0 on)
      ∧ (d.pw.trans = none → n = 0 ∨ 8 < n → (d.pw.th.tripped = false → PwrRefused s 2 2 0 on) ∧ PwrRefused s 3 2 0 off)
      ∧ (∀ i, d.pw.trans = none → 0 < n → n ≤ 8 → i < n → 95 < d.domEntry i → (∀ j, j < i → d.domEntry j ≤ 95) →
          (d.pw.th.tripped = false → PwrRefused s 2 2 i on) ∧ PwrRefused s 3 2 i off)
      ∧ (d.pw.trans = none → d.pw.th.tripped = false → good →
          (n = 1 → d.on m = true → ends 2 1 0 0 on)
          ∧ (d.on m = false → ¬ met → ends 2 0 4 0 on)
          ∧ (d.on m = false → met → switching 2 2000 id on))
      ∧ (d.pw.trans = none → good →
          (n = 1 → d.on m = false → ends 3 1 0 0 off)
          ∧ (d.on m = true →
              (m = 94 → v = .pcie → ends 3 0 7 0 off)
              ∧ ((m = 94 → v = .mctp) → d.domNeeded m = true → ends 3 0 4 0 off)
              ∧ (d.domNeeded m = false → d.domBusy m = true → ends 3 0 5 0 off)
              ∧ (72 ≤ m → m < 80 → d.domNeeded m = false → (∃ l, l ∈ d.linesIn (m - 72) ∧ l.pin = true) → ends 3 0 6 0 off)
              ∧ (¬ (72 ≤ m ∧ m < 80) → (m = 94 → v = .mctp) → d.domNeeded m = false → d.domBusy m = false →
                  switching 3 10000 id off ∧ ∃ t, off = .next t ∧ shut t.dev)
              ∧ (72 ≤ m → m < 80 → d.domNeeded m = false → (∀ l, l ∈ d.linesIn (m - 72) → l.pin = false) →
                  switching 3 10000 (fun e => e.closeLayer (m - 72)) off))))
    ∧ (∀ (k : Nat) (t : Trans),
        let due : Prop := t.kind = 3 ∧ t.armed = true ∧ t.doms[t.pos]? = some k ∧ t.since + 10000 ≤ d.lt ∧ d.domQuiet k = false
        d.pw.trans = some t →
        (due → exec (.domainDrainTimeout k) s = .next { s with dev := d.transEnd lic 5 t.pos })
        ∧ (¬ due → exec (.domainDrainTimeout k) s = .next s))

/-- The settings. PWR_CAP takes 300 to 950 W not below PWR_FLOOR, PWR_RAMP 1 to 2,000 W/ms in both fields, PWR_FLOOR up to PWR_CAP, each within PWR_ENV_MAX;
a value refused changes only RESULT (R403, R407, R413). -/
def Settings : Prop :=
  ∀ (v : Via) (val : Word) (s : State),
    let d := s.dev
    let w := val.toNat % 1024
    let up := val.toNat % 4096
    let down := val.toNat / 2 ^ 16 % 4096
    let refused (r : Nat) (o : Host.Outcome State Fault Refusal) : Prop := o = .next { s with dev := d.pwrResult r 0 }
    let takes (off x : Nat) (o : Host.Outcome State Fault Refusal) : Prop := ∃ t, o = .next t
      ∧ t = { s with dev := { pwrAccepted d 3 with regs := t.dev.regs } } ∧ (t.dev.reg off).toNat = x ∧ ∀ k, k ≠ off → t.dev.reg k = d.reg k
    (d.serves v 0x40030 = true →
      let o := exec (.pwrCap v val) s
      let fits : Prop := 300 ≤ w ∧ w ≤ 950 ∧ d.floorSet ≤ w
      (¬ fits → refused 2 o) ∧ (fits → d.envCap < w → refused 3 o) ∧ (fits → w ≤ d.envCap → takes 0x40030 w o))
    ∧ (d.serves v 0x40034 = true →
      let o := exec (.pwrRamp v val) s
      let fits : Prop := 1 ≤ up ∧ up ≤ 2000 ∧ 1 ≤ down ∧ down ≤ 2000
      (¬ fits → refused 2 o) ∧ (fits → d.envRamp < up ∨ d.envRamp < down → refused 3 o)
      ∧ (fits → up ≤ d.envRamp → down ≤ d.envRamp → takes 0x40034 (up + 2 ^ 16 * down) o))
    ∧ (d.serves v 0x40038 = true →
      let o := exec (.pwrFloor v val) s
      (d.capSet < w → refused 2 o) ∧ (w ≤ d.capSet → takes 0x40038 w o))

/-- The writes that commit or clear. The staged weights become active from the next period; guarded mode ends at the next window; TRIPPED clears only while
every effective temperature is at most 95.0 °C; a bit of PWR_SUSPECT_CLEAR ends SUSPECT and restarts the rounds. The throttle indicator clears 100 µs after
the last throttling period (R410, R414, R418, R423, R429). -/
def PowerClears : Prop :=
  ∀ (v : Via) (val : Word) (s : State),
    let d := s.dev
    let c := d.pw.ctl
    let th := d.pw.th
    let ctl (c' : Ctl) : Host.Outcome State Fault Refusal := .next { s with dev := { d with pw := { d.pw with ctl := c' } } }
    let cool : Prop := ∀ ch, ch < 192 → d.temp ch ≤ 95000000
    let calm : Prop := d.pw.throttle = true ∧ d.pw.thrLt + 10000 ≤ d.lt ∧ c.g = 0 ∧ d.hotNow = false
    (d.serves v 0x40054 = true → val.toNat % 2 = 1 →
      exec (.pwrEstCommit v val) s = ctl { c with
        next := some ((List.range 16).map (fun i => (d.reg (0x40400 + 4 * i)).toNat % 65536))
        committed := true
        leave := if c.leave = 0 then 1 else c.leave })
    ∧ (d.serves v 0x40050 = true → val.toNat % 2 = 1 → c.leave = 0 → exec (.pwrGuardClear v val) s = ctl { c with leave := 2 })
    ∧ (d.serves v 0x40068 = true →
        (val.toNat % 2 = 1 → cool →
          exec (.pwrTripClear v val) s = .next { s with dev := { d with pw := { d.pw with th := { th with tripped := false } } } })
        ∧ (val.toNat % 2 = 0 ∨ ¬ cool → exec (.pwrTripClear v val) s = .next s))
    ∧ (d.serves v 0x40074 = true → ∃ t, exec (.pwrSuspectClear v val) s = .next t
        ∧ t = { s with dev := { d with pw := { d.pw with th := { th with suspect := t.dev.pw.th.suspect, rounds := t.dev.pw.th.rounds } } } }
        ∧ ∀ b, (t.dev.isSuspect b = true ↔ d.isSuspect b = true ∧ ¬ (b < 8 ∧ val.getLsbD b = true))
          ∧ Tbl.get t.dev.pw.th.rounds b 0 = if b < 8 ∧ val.getLsbD b = true then 0 else Tbl.get th.rounds b 0)
    ∧ (calm → exec .throttleClear s = .next { s with dev := { d with pw := { d.pw with throttle := false } } })
    ∧ (¬ calm → exec .throttleClear s = .next s)

end Sys2Proof

/-- The power commands of the host: P-states, domains, settings, and the writes that commit or clear. -/
def Obligations.PowerCommands : Prop := PStates ∧ PStateEnds ∧ Domains ∧ Settings ∧ PowerClears

/-- The arithmetic of a control period is that of R411, over the rationals: the ungated demand U0, D0, the band around REF, REF clamped into it and floored to
a nW (DESIGN CHOICE, log 28), the gating g and the fill f that bring the next period into its band, and the shortfall. -/
def Obligations.ControlArithmetic : Prop :=
  ∀ (e dyn fill fmax cap floor up down ref g : Nat), fill ≤ e → g < 64 →
    let k := control e dyn fill fmax cap floor up down ref g
    let u0 : ℚ := (e : ℚ) - fill + dyn * g / (64 - g)
    let d0 : ℚ := dyn * 64 / (64 - g)
    let hi : ℚ := min (cap : ℚ) (ref + up)
    let lo : ℚ := min hi (max (floor : ℚ) (ref - down))
    let hi' : ℚ := min (cap : ℚ) (k.ref + up)
    let lo' : ℚ := min hi' (max (floor : ℚ) (k.ref - down))
    (k.ref : ℤ) = ⌊min hi (max u0 lo)⌋
    ∧ (0 < dyn → (k.g : ℤ) = min 63 (max ⌈64 * (u0 - hi') / d0⌉ 0)) ∧ (dyn = 0 → k.g = g)
    ∧ (0 < fmax → (k.f : ℤ) = min 64 (max ⌈64 * (lo' - u0) / fmax⌉ 0)) ∧ (fmax = 0 → k.f = 0)
    ∧ (k.short = true ↔ (fmax : ℚ) < lo' - u0)

namespace Sys2Proof

/-- A control period. At an LT multiple of 200 the estimate E is the weighted counts plus the leakage of the powered domains; outside guarded mode R411 gives
REF, g, f and the shortfall of the next; the settings and the staged weights act from then on, lowered to the envelope; periods with g, with f and short count
(R402, R407, R409 to R412, R414, R417). -/
def Periods : Prop :=
  ∀ (counts : List Nat) (idle : Nat) (s : State),
    let d := s.dev
    let c := d.pw.ctl
    let o := exec (.controlPeriod counts idle) s
    let due : Prop := d.hq.mgmtRun = true ∧ d.lt % 200 = 0 ∧ c.lastPeriod ≠ some d.lt
    let part (ws : List Nat) : Nat := (ws.map (fun i => 125 * c.active.getD i 0 * counts.getD i 0)).sum
    let e := part (List.range 16) + (((List.range 97).filter d.on).map d.leak).sum
    let k := control e (part [0, 1, 2, 3, 4, 6, 7, 8, 9]) (part [5]) (125 * c.active.getD 5 0 * idle) (c.cap * 10 ^ 9) (c.floor * 10 ^ 9)
      (c.up * 2000000) (c.down * 2000000) (c.ref.getD e) c.g
    (¬ due → o = .next s)
    ∧ (due → ∃ t, o = .next t ∧ PowerOnly s t ∧
        let c' := t.dev.pw.ctl
        c'.est = e ∧ c'.lastPeriod = some d.lt ∧ c'.winN = c.winN + 1 ∧ c'.winE = c.winE + e
        ∧ (c.guarded = false → c'.ref = some k.ref ∧ c'.g = k.g ∧ c'.f = k.f ∧ c'.short = k.short)
        ∧ (c.guarded = true → c'.ref = c.ref ∧ c'.g = c.g ∧ c'.f = c.f ∧ c'.short = c.short)
        ∧ c'.cap = min d.capSet d.envCap ∧ c'.up = min ((d.reg 0x40034).toNat % 4096) d.envRamp
        ∧ c'.down = min ((d.reg 0x40034).toNat / 2 ^ 16 % 4096) d.envRamp ∧ c'.floor = min d.floorSet c'.cap
        ∧ t.dev.capSet = c'.cap ∧ t.dev.floorSet = c'.floor ∧ c'.active = c.next.getD c.active ∧ c'.next = none ∧ c'.guarded = c.guarded
        ∧ (∀ off, off ≠ 0x40030 → off ≠ 0x40034 → off ≠ 0x40038 → t.dev.reg off = d.reg off)
        ∧ t.dev.ctrAt 0x40108 = (if 0 < c.g then (d.ctrAt 0x40108).add 64 1 else d.ctrAt 0x40108)
        ∧ t.dev.ctrAt 0x40110 = (if 0 < c.f then (d.ctrAt 0x40110).add 64 1 else d.ctrAt 0x40110)
        ∧ t.dev.ctrAt 0x40104 = (if c'.short = true then (d.ctrAt 0x40104).add 32 1 else d.ctrAt 0x40104)
        ∧ t.dev.pw.th = d.pw.th ∧ t.dev.pw.trans = d.pw.trans ∧ t.dev.pw.pstate = d.pw.pstate ∧ t.dev.pw.trim = d.pw.trim
        ∧ (0 < c'.g ∨ d.hotNow = true ∨ (d.pw.throttle = true ∧ 0 < c.g) → t.dev.pw.throttle = true ∧ t.dev.pw.thrLt = d.lt)
        ∧ (c'.g = 0 → d.hotNow = false → d.pw.throttle = false ∨ c.g = 0 → t.dev.pw.throttle = d.pw.throttle ∧ t.dev.pw.thrLt = d.pw.thrLt))

/-- A measurement window. At an LT multiple of 100,000 M is the mean of the samples and Ē of the estimates; a window that differs by more than 12 % of M counts
and advances RUN, or restarts it at 1 with the new direction, any other sets it to 0 with no direction; guarded mode begins when RUN reaches 4 and ends after a commit or a clear;
in guarded mode R411 runs on the window's figures, outside it REF, g and f stay (R415 to R418). -/
def Windows : Prop :=
  ∀ (ivr : List (List Nat)) (input : Nat) (s : State),
    let d := s.dev
    let c := d.pw.ctl
    let o := exec (.measurementWindow ivr input) s
    let due : Prop := d.hq.mgmtRun = true ∧ d.lt % 100000 = 0 ∧ c.lastWin ≠ some d.lt
    let m := (ivr.map List.sum).sum * 10 ^ 9 / (16 * ivr.length)
    let est := c.winE / c.winN
    let gap := if m < est then est - m else m - est
    let dir := if m < est then 1 else 2
    let div : Prop := c.committed = false ∧ 12 * m < 100 * gap
    (¬ due → o = .next s)
    ∧ (due → 0 < c.winN → ∃ t, o = .next t ∧ PowerOnly s t ∧
        let c' := t.dev.pw.ctl
        let run := if c.run ≠ 0 ∧ c.dir = dir then min 7 (c.run + 1) else 1
        let leaving : Prop := c.guarded = true ∧ c.leave ≠ 0
        c'.meas = m ∧ c'.estW = est ∧ c'.input = input ∧ c'.lastWin = some d.lt ∧ c'.winN = 0 ∧ c'.winE = 0 ∧ c'.leave = 0 ∧ c'.committed = false
        ∧ (0 < m → 1024 * est / m < 4096 → c'.ratio = 1024 * est / m)
        ∧ (div → (¬ leaving → c'.dir = dir ∧ c'.run = run) ∧ t.dev.ctrAt 0x40100 = (d.ctrAt 0x40100).add 32 1)
        ∧ (¬ div → c'.dir = 0 ∧ c'.run = 0 ∧ t.dev.ctrAt 0x40100 = d.ctrAt 0x40100)
        ∧ (leaving → c'.run = 0 ∧ c'.dir = 0)
        ∧ (c'.guarded = true ↔ (c.guarded = true ∧ c.leave = 0) ∨ (c.guarded = false ∧ div ∧ run = 4))
        ∧ (c'.guarded = false → c'.ref = c.ref ∧ c'.g = c.g ∧ c'.f = c.f)
        ∧ (c'.guarded = true →
            let e := m * 108 / 100
            let k := control e (e * (c.winD / c.winN) / 10 ^ 12) (e * (c.winF / c.winN) / 10 ^ 12) (c.winFmax / c.winN) (c.cap * 10 ^ 9)
              (c.floor * 10 ^ 9) (c.up * 10 ^ 9) (c.down * 10 ^ 9) (c.ref.getD e) c.g
            c'.ref = some k.ref ∧ c'.g = k.g ∧ c'.f = k.f ∧ c'.short = k.short)
        ∧ c'.cap = c.cap ∧ c'.active = c.active ∧ c'.next = c.next ∧ t.dev.pw.th = d.pw.th ∧ t.dev.pw.trans = d.pw.trans
        ∧ t.dev.pw.pstate = d.pw.pstate ∧ (∀ off, t.dev.reg off = d.reg off))

/-- The voltage trim. Every 10 s a quadrant's trim rises by one unit under a low margin and falls under a high one, inside ±20 units; the trims are saved once
one has moved 4 units since the last save, or 24 h after it, where the record takes writes; the older copy of its service section is written, with what
could not be recorded before (R44, R420, R463, R472, R494). -/
def Trims : Prop :=
  ∀ (ms : List Margin) (s : State),
    let d := s.dev
    let x (q : Nat) : Int := Tbl.get d.pw.trim.now q 0
    let moved (q : Nat) : Int := match ms.getD q .inside with
      | .inside => x q
      | .high => if -20 < x q then x q - 1 else x q
      | .low => if x q < 20 then x q + 1 else x q
    let due : Prop := d.hq.mgmtRun = true ∧ d.pw.trim.lt + 1000000000 ≤ d.lt
    let far : Prop := ∃ q, q < 4 ∧ 4 ≤ (moved q - Tbl.get d.fl.cur.trims q 0).natAbs
    let writes : Prop := d.fl.wpn = true ∧ d.fl.noRecord = false
    let written (now : Tbl Int) : Floor := { d.fl with
      older := d.fl.cur, kept := [], cur := ⟨d.fl.cur.gen + 1, d.fl.cur.list ++ d.fl.kept, now, d.fl.cur.modes⟩ }
    let late : Prop := d.hq.mgmtRun = true ∧ d.pw.trim.saveLt + 8640000000000 ≤ d.lt
    (due → ∃ t, exec (.voltageTrim ms) s = .next t ∧ PowerOnly s { t with dev := { t.dev with fl := d.fl } }
        ∧ t.dev.pw = { d.pw with trim := t.dev.pw.trim } ∧ t.dev.pw.trim.lt = d.lt
        ∧ (∀ q, Tbl.get t.dev.pw.trim.now q 0 = if q < 4 then moved q else x q)
        ∧ (far → writes → t.dev.pw.trim.saveLt = d.lt ∧ t.dev.fl = written t.dev.pw.trim.now)
        ∧ (¬ (far ∧ writes) → t.dev.pw.trim.saveLt = d.pw.trim.saveLt ∧ t.dev.fl = d.fl)
        ∧ (∀ q, q ∈ t.dev.pw.trim.atLimit ↔ q ∈ d.pw.trim.atLimit ∨ (q < 4 ∧ ms.getD q .inside = .low ∧ 20 ≤ x q)))
    ∧ (¬ due → exec (.voltageTrim ms) s = .next s)
    ∧ (late → writes → exec .trimSave s = .next { s with dev := { d with
        pw := { d.pw with trim := { d.pw.trim with saveLt := d.lt } }
        fl := written d.pw.trim.now } })
    ∧ (¬ (late ∧ writes) → exec .trimSave s = .next s)

end Sys2Proof

/-- What the management partition does of itself with power: the control period, the measurement window with guarded mode, and the voltage trim. -/
def Obligations.PowerControl : Prop := Periods ∧ Windows ∧ Trims

/-- The sensor round, at an LT multiple of 100,000, as the round that does not trip leaves it: readings and FAILED channels, the neighbour model and SUSPECT of each
layer-half, effective values, write holds of layer-halves and packages, the thermal fractions, the throttle indicator; and a round in which an effective
temperature exceeds 115.0 °C latches TRIPPED with the hottest channel (R414, R421 to R430). -/
def Obligations.SensorRound : Prop :=
  ∀ (samples : List (Option Int)) (traffic : List (Nat × Nat)) (s : State),
    let d := s.dev
    let o := exec (.sensorRound samples traffic) s
    let due : Prop := d.hq.mgmtRun = true ∧ d.lt % 100000 = 0 ∧ d.pw.th.lastRound ≠ some d.lt
    (¬ due → o = .next s)
    ∧ (due → ∃ t, o = .next t ∧ t.dev.pw.th.lastRound = some d.lt ∧
        let e := t.dev
        let th := e.pw.th
        let bad (ch : Nat) : Prop := ch ∈ th.failed
        let taken (ch : Nat) : Option Int := samples.getD ch none
        (∀ ch, Tbl.get th.read ch 0 = if d.reads ch = true then (taken ch).getD (Tbl.get d.pw.th.read ch 0) else Tbl.get d.pw.th.read ch 0)
        ∧ (∀ ch, bad ch ↔ ch ∈ d.pw.th.failed ∨ (d.reads ch = true ∧ goodSample ch (taken ch) = false))
        ∧ (∀ ch, ch < 96 → ¬ bad ch → e.temp ch = e.reading ch)
        ∧ (∀ ch, ch < 96 → bad ch → (∃ i, i < 24 ∧ ¬ bad (ch / 24 * 24 + i)) →
            (∃ i, i < 24 ∧ ¬ bad (ch / 24 * 24 + i) ∧ e.temp ch = e.reading (ch / 24 * 24 + i))
            ∧ ∀ i, i < 24 → ¬ bad (ch / 24 * 24 + i) → e.reading (ch / 24 * 24 + i) ≤ e.temp ch)
        ∧ (∀ b j, b < 8 → j < 12 →
            let on := d.on (72 + b)
            let model := Tbl.get th.model (12 * b + j) 0
            let below := e.temp (if b < 2 then underPos b j else posChan (b - 2) j)
            let above : Int := if b < 6 then d.temp (posChan (b + 2) j) else (((d.reg 0x4006C).toNat % 1024 : Nat) : Int) * 250000
            model = tModel (b / 2 + 1) below above (if on then d.layerPower b (traffic.getD b (0, 0)) else 0)
            ∧ (on = false ∨ bad (posChan b j) → e.temp (posChan b j) = model)
            ∧ (on = true → ¬ bad (posChan b j) → e.temp (posChan b j) = if e.isSuspect b then max (e.reading (posChan b j)) model else e.reading (posChan b j)))
        ∧ (∀ b, b < 8 →
            let js := (List.range 12).filter (fun j => !th.failed.contains (posChan b j))
            let mean (f : Nat → Int) : Int := (js.map f).sum / (js.length : Int)
            let delta := mean (fun j => Tbl.get th.model (12 * b + j) 0) - mean (fun j => e.reading (posChan b j))
            let was := Tbl.get d.pw.th.rounds b 0
            let run := if d.on (72 + b) = true ∧ js ≠ [] ∧ 6000000 < delta then was + 1 else 0
            Tbl.get th.rounds b 0 = min run 3 ∧ (e.isSuspect b = true ↔ d.isSuspect b = true ∨ (d.on (72 + b) = true ∧ 3 ≤ run))
            ∧ (bitOf e.mm.hold b = true ↔
                if bitOf d.mm.hold b = true then ¬ (maxOf (e.halfTemps b) ≤ 105000000 ∧ 3000000 ≤ minOf (e.halfTemps b))
                else 108000000 < maxOf (e.halfTemps b) ∨ minOf (e.halfTemps b) < 0))
        ∧ (∀ p, p < 12 → bad (192 + p) → (e.chan (2 * p)).hold = (d.chan (2 * p)).hold ∧ (e.chan (2 * p + 1)).hold = (d.chan (2 * p + 1)).hold)
        ∧ (∀ n, n < 24 → ¬ bad (192 + n / 2) →
            let x := e.reading (192 + n / 2)
            (e.chan n).temp = wrapInt 8 (x / 1000000)
            ∧ ((e.chan n).hold = true ↔ if (d.chan n).hold = true then 102000000 < x else 105000000 < x))
        ∧ (∀ ch, ch < 96 → Tbl.get th.frac ch 0
            = nextFrac (Tbl.get d.pw.th.frac ch 0) (e.temp ch) 105000000 102000000 (decide (105000000 < e.temp ch)))
        ∧ (∀ b, b < 8 → Tbl.get th.frac (96 + b) 0
            = nextFrac (Tbl.get d.pw.th.frac (96 + b) 0) (maxOf (e.halfTemps b)) 108000000 105000000
                (bitOf e.mm.hold b && decide (108000000 < maxOf (e.halfTemps b))))
        ∧ (0 < e.pw.ctl.g ∨ e.hotNow = true → e.pw.throttle = true ∧ e.pw.thrLt = d.lt)
        ∧ (d.pw.th.tripped = true ∨ (∀ ch, ch < 192 → e.temp ch ≤ 115000000) →
            t.sec = s.sec ∧ t.pending = s.pending ∧ e.gr = d.gr ∧ e.fab = d.fab ∧ e.col = d.col ∧ e.upd = d.upd ∧ e.rs = d.rs ∧ e.dom = d.dom
            ∧ e.regs = d.regs ∧ e.lt = d.lt ∧ e.pw.ctl = d.pw.ctl ∧ e.pw.trans = d.pw.trans ∧ e.pw.pstate = d.pw.pstate ∧ th.tripped = d.pw.th.tripped)
        ∧ (d.pw.th.tripped = false → (∃ ch, ch < 192 ∧ 115000000 < e.temp ch) →
            th.tripped = true ∧ th.tripCh < 192 ∧ th.tripTemp = e.temp th.tripCh ∧ (∀ ch, ch < 192 → e.temp ch ≤ e.temp th.tripCh)
            ∧ e.pw.trans = none ∧ e.rs.run.isSome = true))

/-! ## Identity, licences, the gate and management messages (16, 17) -/

namespace Sys2Proof

/-- The refusals of R479: the condition under which a request of kind k fails test n. -/
def gateFails (v : Via) (r : List Byte) (c : Sec) (d : Dev) (n : Nat) : Prop :=
  let k := gKind r
  let b := gBody r
  let es := gEntries b
  let s := gSlots r
  let slot := byteField b 0 1
  let free (x : Nat) : Prop := c.key x = none
  match n with
  | 1 => d.rs.run.isSome = true ∨ d.rs.wait.isSome = true ∨ d.hq.load = .updatePaused
  | 2 => c.identity = false
  | 3 => gFormat r = false
  | 4 => byteField r 16 32 ≠ c.nonce.toNat
  | 5 => gSeq r ≠ c.seq
  | 6 => k = 7 ∧ (v = .pcie ∨ 2 ≤ c.keys.length)
  | 7 => k ≠ 7 ∧ c.keys.length < 2
  | 8 => 7 < s.1 ∨ 7 < s.2 ∨ (k ≠ 7 ∧ (free s.1 ∨ free s.2)) ∨ (k = 4 ∧ 7 < slot) ∨ (k = 5 ∧ free slot)
  | 9 => if k = 7 then s ≠ (0, 1) else s.1 = s.2
  | 10 => ¬ (signed (c.signers r).1 (gSigned r) (gSigs r).1 = true ∧ signed (c.signers r).2 (gSigned r) (gSigs r).2 = true)
  | 11 => k = 1 ∧ ∃ e, e ∈ es ∧ gateMask e.1 = 0
  | 12 => k = 1 ∧ ∃ e, e ∈ es ∧ d.gateAllows e = false
  | 13 => k = 1 ∧ d.gateLicensed c.lic es = false
  | 14 => k = 2 ∧ (c.licValid b = false ∨ ∃ e, e ∈ c.slots ∧ licSerial e.2 = licSerial b)
  | 15 => k = 2 ∧ ∀ l, l < 4 → Tbl.find c.slots l ≠ none
  | 16 => k = 5 ∧ c.keys.length < 3
  | 17 => k = 3 ∧ ∀ e, e ∈ c.slots → licSerial e.2 ≠ byteField b 0 8
  | 18 => k ≠ 1 ∧ d.fl.wpn = false
  | _ => False

/-- A gate request served, whatever its path. It is refused with the first test of R479 that fails: GATE_STATUS, GATE_LAST_SEQ, one count and one GATE_REFUSED, and
nothing else but a refusing block's status: FAB_CFG_STATUS, or PWR_CMD_STATUS for PWR_ENV_MAX. -/
def GateRefuses : Prop :=
  ∀ (v : Via) (r : List Byte) (s : State) (n : Nat), gateFails v r s.sec s.dev n → (∀ m, m < n → ¬ gateFails v r s.sec s.dev m) →
    let x := gate v r s.sec s.dev
    let t : State := { s with sec := x.1, dev := x.2.1 }
    x.2.2 = n
    ∧ t.sec = { s.sec with
        status := (if v = .pcie then 1 else 2) * 16 + gKind r % 256 * 256 + n * 65536
        lastSeq := gSeq r }
    ∧ ControlOnly s { t with sec := s.sec, dev := { t.dev with fab := s.dev.fab, pw := s.dev.pw } }
    ∧ (n ≠ 12 → n ≠ 13 → t.dev.fab = s.dev.fab)
    ∧ (n ≠ 12 → t.dev.pw = s.dev.pw)
    ∧ (∀ pre e post, n = 12 → gEntries (gBody r) = pre ++ [e] ++ post → (∀ y, y ∈ pre → s.dev.gateAllows y = true) → s.dev.gateAllows e = false →
        t.dev.fab = (if e.1 = 0x80004 then { s.dev.fab with cfgPort := 0, cfgResult := 2 } else s.dev.fab)
        ∧ t.dev.pw = (if e.1 = 0x4003C then { s.dev.pw with result := 2, failed := 0 } else s.dev.pw))
    ∧ (n ≠ 12 → n ≠ 13 → t.dev = (s.dev.bump gateSet 1 1).post 0xC002 (packB [(0, n), (4, (gSeq r).toNat)]))
    ∧ (n = 13 → t.dev.fab = { s.dev.fab with cfgPort := 0, cfgResult := 1 })
    ∧ t.dev.ctrAt 0x100104 = (s.dev.ctrAt 0x100104).add 32 1 ∧ t.dev.ctrAt 0x100100 = s.dev.ctrAt 0x100100

/-- A gate request applied: GATE_SEQ advances by one, one count and one GATE_APPLIED; WRITE_REGS gives the G2 fields the values and leaves every other bit and
register; a licence goes into the lowest free slot or leaves its slot; a key slot is filled or emptied; CLAIM enrols slots 0 and 1; CLEAR_RETIREMENT clears the lists
it names; kinds 2 to 7 write the service section (R472, R475, R476, R478, R479). -/
def GateApplies : Prop :=
  ∀ (v : Via) (r : List Byte) (s : State), gKind r < 8 → (∀ n, ¬ gateFails v r s.sec s.dev n) →
    let c := s.sec
    let d := s.dev
    let x := gate v r c d
    let b := gBody r
    let k := gKind r
    let slot := byteField b 0 1
    let c' : Sec := { c with
      status := (if v = .pcie then 1 else 2) * 16 + k * 256
      lastSeq := gSeq r
      seq := c.seq + 1 }
    let record : Prop := x.2.1.fl.cur.gen = d.fl.cur.gen + 1 ∧ x.2.1.fl.older = d.fl.cur ∧ x.2.1.fl.noRecord = false ∧ x.2.1.fl.kept = []
    let stored (y : Sec) : Sec := { y with
      flashSlots := y.slots, flashKeys := y.keys, wroteGen := d.fl.cur.gen + 1, olderSlots := c.flashSlots, olderKeys := c.flashKeys }
    x.2.2 = 0
    ∧ x.2.1.ctrAt 0x100100 = (d.ctrAt 0x100100).add 32 1 ∧ x.2.1.ctrAt 0x100104 = d.ctrAt 0x100104
    ∧ x.2.1 = { d with regs := x.2.1.regs, wide := x.2.1.wide, hq := x.2.1.hq, env := x.2.1.env, ctr := x.2.1.ctr, mm := x.2.1.mm, mc := x.2.1.mc,
                       fl := x.2.1.fl, rs := x.2.1.rs, pw := x.2.1.pw, fresh := x.2.1.fresh }
    ∧ (k = 1 → (∀ e, e ∈ gEntries b → e.1 ≠ 0x4003C) →
        x.2.1 = (gEntries b).foldl Dev.gateWrite ((d.bump gateSet 0 1).post 0xC001 (packB [(0, 1), (4, (gSeq r).toNat)])))
    ∧ (k = 1 → x.1 = c' ∧ x.2.1.fl = d.fl ∧ x.2.1.rs = d.rs
        ∧ (∀ pre off val post, gEntries b = pre ++ [(off, val)] ++ post → (∀ e, e ∈ post → e.1 ≠ off) →
            (x.2.1.reg off).toNat = ((d.reg off).toNat &&& (2 ^ 32 - 1 - gateMask off)) + (val &&& gateMask off))
        ∧ (∀ off, (∀ e, e ∈ gEntries b → e.1 ≠ off) → x.2.1.reg off = d.reg off ∧ x.2.1.wide64 off = d.wide64 off))
    ∧ (k ≠ 1 → x.2.1.regs = d.regs ∧ x.2.1.wide = d.wide ∧ record)
    ∧ (k = 2 → ∃ l, l < 4 ∧ Tbl.find c.slots l = none ∧ (∀ j, j < l → Tbl.find c.slots j ≠ none) ∧ x.1 = stored { c' with slots := x.1.slots }
        ∧ ∀ j, Tbl.find x.1.slots j = if j = l then some b else Tbl.find c.slots j)
    ∧ (k = 3 → ∃ l a, (l, a) ∈ c.slots ∧ licSerial a = byteField b 0 8
        ∧ x.1 = stored { c' with slots := x.1.slots }
        ∧ ∀ j, Tbl.find x.1.slots j = if j = l then none else Tbl.find c.slots j)
    ∧ (k = 4 → x.1 = stored { c' with keys := x.1.keys }
        ∧ ∀ j, x.1.key j = if j = slot then some (BitVec.ofNat 256 (byteField b 8 32)) else c.key j)
    ∧ (k = 5 → x.1 = stored { c' with keys := x.1.keys }
        ∧ ∀ j, x.1.key j = if j = slot then none else c.key j)
    ∧ (k = 6 → x.1 = stored c'
        ∧ ∀ e, e ∈ x.2.1.fl.cur.list ↔ ((d.fl.noRecord = false ∧ e ∈ d.fl.cur.list) ∨ e ∈ d.fl.kept)
        ∧ ¬ ((bitOf slot 0 = true ∧ e.1 = 1) ∨ (bitOf slot 1 = true ∧ (e.1 = 2 ∨ e.1 = 3)) ∨ (bitOf slot 2 = true ∧ e.1 = 4)
          ∨ (bitOf slot 3 = true ∧ e.1 = 5)))
    ∧ (k = 7 → x.1 = stored { c' with keys := x.1.keys }
        ∧ ∀ j, x.1.key j = if j = 0 then some (BitVec.ofNat 256 (byteField b 0 32)) else if j = 1 then some (BitVec.ofNat 256 (byteField b 32 32)) else c.key j)

/-- A request reaches the gate by each of its rows, by GATE_REQ_CMD from host memory and by the MCTP message GATE_REQUEST, whose response carries its GATE_SEQ and
REASON (R477, R479, R497). -/
def GatePaths : Prop :=
  ∀ (v : Via) (r : List Byte) (s : State),
    let served (f : Sec × Dev × Nat → Dev) (w : Via) (q : List Byte) (o : Host.Outcome State Fault Refusal) : Prop :=
      let x := gate w q s.sec s.dev
      o = .next { s with sec := x.1, dev := f x }
    let row (k : Nat) (o : Host.Outcome State Fault Refusal) : Prop := gKind r = k → served (fun x => x.2.1) v r o
    (s.dev.gateServed v = true →
      row 1 (exec (.writeRegs v r) s) ∧ row 2 (exec (.installLicence v r) s) ∧ row 3 (exec (.removeLicence v r) s) ∧ row 4 (exec (.enrollKey v r) s)
      ∧ row 5 (exec (.revokeKey v r) s) ∧ row 6 (exec (.clearRetirement v r) s) ∧ row 7 (exec (.claim v r) s))
    ∧ (∀ val : Word, s.dev.gateServed .pcie = true →
        let a := s.dev.wide64 0x100074
        let n := (s.dev.reg 0x100078).toNat % 8192
        (val.toNat % 2 = 0 → exec (.gateReqCmd val) s = .next s)
        ∧ (val.toNat % 2 = 1 → s.dev.hostDead a = false → s.dev.hostDead (a + n) = false →
            served (fun x => x.2.1) .pcie (Mem.read s.dev.env.host a n) (exec (.gateReqCmd val) s)))
    ∧ (∀ m, s.dev.gateServed .mctp = true → mOurs m = true → mCommand m = 3 →
        let q := m.drop 8
        (m.length ≠ 8 + mLength m → exec (.gateRequest m) s = .next { s with dev := s.dev.mctpSend (mAnswer m 2 []) })
        ∧ (m.length = 8 + mLength m →
            served (fun x => x.2.1.mctpSend (mAnswer m 0 (bytesOf 4 (gSeq q) ++ [BitVec.ofNat 8 x.2.2]))) .mctp q (exec (.gateRequest m) s)))

/-- An SPDM exchange: the response a goes out and nothing changes but the responder's own state and free values. -/
def Answers (s : State) (a : List Byte) (o : Host.Outcome State Fault Refusal) : Prop :=
  ∃ t, o = .next t ∧ t.dev.env.spdm = s.dev.env.spdm ++ [a]
    ∧ t = { s with
        sec := { s.sec with
          versioned := t.sec.versioned
          negotiated := t.sec.negotiated
          vca := t.sec.vca
          certs := t.sec.certs
          measured := t.sec.measured }
        dev := { s.dev with
          fresh := t.dev.fresh
          env := { s.dev.env with spdm := s.dev.env.spdm ++ [a] } } }

end Sys2Proof

/-- The two-key gate: how a request reaches it, and which it refuses and which it applies, with what effect. -/
def Obligations.TwoKeyGate : Prop := GateRefuses ∧ GateApplies ∧ GatePaths

/-- The SPDM responder. The seven requests are answered once the connection is in order and with ERROR UnexpectedRequest before; any other request with ERROR
UnsupportedRequest. The capabilities are CERT, CHAL and MEAS with signatures; the algorithms Ed25519 and SHA-512 alone; slot 0 alone holds a chain; CHALLENGE and
signed measurements end in a signature of the device key; GET_MEASUREMENTS reports the four digests (R481, R482). The layout of the messages and what a signature
covers are those of DMTF DSP0274 (PRESUMED, log 33). -/
def Obligations.Attestation : Prop :=
  ∀ (r : List Byte) (s : State), s.dev.spdmServed = true →
    let c := s.sec
    let d := s.dev
    let code := byteField r 1 1
    let p1 := byteField r 2 1
    let p2 := byteField r 3 1
    let unexpected : List Byte := [0x13, 0x7F, 4, 0]
    let ready : Prop := c.negotiated = true ∧ c.identity = true
    let nonce : List Byte := (List.range 32).map (Config.freeByte d.fresh)
    let digest (x : List Byte) : List Byte := bytesOf 64 (Config.sha512 x)
    let sign (context body : List Byte) : List Byte := c.spdmSign context body
    let blocks := if p2 = 0 then [] else if p2 = 255 then [1, 2, 3, 4].flatMap (measureBlock c d) else measureBlock c d p2
    let count := if p2 = 0 then 0 else if p2 = 255 then 4 else 1
    (code = 0x84 → Answers s [0x10, 0x04, 0, 0, 0, 1, 0x00, 0x13] (exec (.getVersion r) s))
    ∧ (code = 0xE1 →
        (c.versioned = false → Answers s unexpected (exec (.getCapabilities r) s))
        ∧ (c.versioned = true → ∃ ct a, a.length = 8 ∧ Answers s ([0x13, 0x61, 0, 0, 0, ct, 0, 0, 0x16, 0, 0, 0] ++ a) (exec (.getCapabilities r) s)))
    ∧ (code = 0xE3 →
        (c.versioned = false → Answers s unexpected (exec (.negotiateAlgorithms r) s))
        ∧ (c.versioned = true → bitOf (byteField r 6 1) 0 = true → bitOf (byteField r 8 4) 10 = true → bitOf (byteField r 12 4) 2 = true →
            Answers s ([0x13, 0x63, 0, 0, 36, 0, 1, 0, 8, 0, 0, 0, 0, 4, 0, 0, 4, 0, 0, 0] ++ List.replicate 16 0) (exec (.negotiateAlgorithms r) s)
            ∧ ∃ t, exec (.negotiateAlgorithms r) s = .next t ∧ t.sec.negotiated = true))
    ∧ (code = 0x81 →
        (c.negotiated = false → Answers s unexpected (exec (.getDigests r) s))
        ∧ (ready → Answers s ([0x13, 0x01, 1, 1] ++ digest c.chain) (exec (.getDigests r) s)))
    ∧ (code = 0x82 →
        let off := byteField r 4 2
        let n := min (byteField r 6 2) (c.chain.length - off)
        (c.negotiated = false → Answers s unexpected (exec (.getCertificate r) s))
        ∧ (ready → p1 % 16 ≠ 0 → Answers s [0x13, 0x7F, 1, 0] (exec (.getCertificate r) s))
        ∧ (ready → p1 % 16 = 0 → off < c.chain.length →
            Answers s ([0x13, 0x02, 0, 0] ++ natLe 2 n ++ natLe 2 (c.chain.length - off - n) ++ (c.chain.drop off).take n) (exec (.getCertificate r) s)))
    ∧ (code = 0x83 →
        (c.negotiated = false → Answers s unexpected (exec (.challenge r) s))
        ∧ (ready → p1 = 0 → p2 = 0 →
            let a : List Byte := [0x13, 0x03, 0, 1] ++ digest c.chain ++ nonce ++ [0, 0] ++ (r.drop 36).take 8
            Answers s (a ++ sign (asciiOf "responder-challenge_auth signing") (c.vca ++ c.certs ++ r ++ a)) (exec (.challenge r) s)))
    ∧ (code = 0xE0 →
        (c.negotiated = false → Answers s unexpected (exec (.getMeasurements r) s))
        ∧ (ready → p2 ≤ 4 ∨ p2 = 255 →
            let a : List Byte := [0x13, 0x60, if p2 = 0 then 4 else 0, 0, BitVec.ofNat 8 count] ++ natLe 3 blocks.length ++ blocks ++ nonce ++ [0, 0]
              ++ (r.drop (if p1 % 2 = 1 then 37 else 4)).take 8
            (p1 % 2 = 0 → Answers s a (exec (.getMeasurements r) s))
            ∧ (p1 % 2 = 1 → Answers s (a ++ sign (asciiOf "responder-measurements signing") (c.vca ++ c.measured ++ r ++ a)) (exec (.getMeasurements r) s))))
    ∧ (spdmKnown code = false → Answers s [0x13, 0x7F, 7, BitVec.ofNat 8 code] (exec (.unsupportedRequest r) s))
    ∧ measurement c d 1 = Config.sha512 Config.bootRom ∧ measurement c d 2 = d.hq.digest
    ∧ measurement c d 3 = Config.sha512 ([0, 1, 2, 3].flatMap (fun l => (Tbl.find c.slots l).getD (List.replicate 160 0)) ++ [BitVec.ofNat 8 c.lic])

/-- Management messages over MCTP. REG_READ returns COUNT words with its own shadows, and DOMAIN_OFF when one lies in a powered-off domain; REG_WRITE is answered and
acts for PWR and RST registers only, any other offset is denied and changes nothing; a wrong length and an unknown command or vendor are answered so; an endpoint
that assigns the ID receives the EVENT messages, and a read of one frees its place (R496, R497, R498). -/
def Obligations.ManagementMessages : Prop :=
  ∀ (m : List Byte) (s : State), 1 ≤ s.dev.rs.stage →
    let d := s.dev
    let cmd := byteField m 3 1
    let len := byteField m 6 2
    let off := byteField m 8 4
    let whole : Prop := m.length = 8 + len
    let reply (st : Nat) (p : List Byte) : List Byte :=
      [0x7E] ++ vendorBytes ++ [BitVec.ofNat 8 (cmd % 128 + 128), m.getD 4 0, BitVec.ofNat 8 st] ++ natLe 2 p.length ++ p
    let only (a : List Byte) : State := { s with dev := { d with env := { d.env with mctp := d.env.mctp ++ [a] } } }
    (mOurs m = true → cmd = 1 →
      let n := byteField m 12 1
      (¬ (whole ∧ len = 5) → exec (.regRead m) s = .next (only (reply 2 [])))
      ∧ (whole → len = 5 → 0 < n → n ≤ 64 → off % 4 = 0 → ∃ t ws, exec (.regRead m) s = .next t ∧ ws.length = 4 * n
          ∧ t = { s with dev := { d with env := t.dev.env, shM := t.dev.shM } } ∧ t.dev.env.host = d.env.host
          ∧ t.dev.env.mctp = d.env.mctp ++ [reply (if ∃ i, i < n ∧ d.on (regDomain (off + 4 * i)) = false then 4 else 0) ws]
          ∧ (n = 1 → ws = bytesOf 4 (readReg .mctp s.sec d off).2)))
    ∧ (mOurs m = true → cmd = 2 →
        let pwr : Prop := (0x40000 ≤ off ∧ off < 0x60000) ∨ (0x160000 ≤ off ∧ off < 0x180000)
        (¬ (whole ∧ len = 8) → exec (.regWrite m) s = .next (only (reply 2 [])))
        ∧ (whole → len = 8 → ¬ pwr → exec (.regWrite m) s = .next (only (reply 3 [])))
        ∧ (whole → len = 8 → pwr →
            exec (.regWrite m) s = writeReg .mctp (BitVec.ofNat 32 off) (BitVec.ofNat 32 (byteField m 12 4)) (only (reply 0 []))))
    ∧ (byteField m 0 1 = 0x7E → 4 ≤ m.length → cmd < 128 → ((m.drop 1).take 2 ≠ vendorBytes ∨ (cmd ≠ 1 ∧ cmd ≠ 2 ∧ cmd ≠ 3)) →
        exec (.badCommand m) s = .next (only (reply 1 [])))
    ∧ (∀ eid, exec (.setEndpointId eid) s = .next { s with dev := { d with mc := { d.mc with owner := some eid } } })
    ∧ (∀ eid x xs, d.mc.owner = some eid → d.mc.unread = x :: xs → exec .eventMessageRead s = .next { s with dev := { d with
        mc := { d.mc with unread := xs }
        env := { d.env with mctp := d.env.mctp ++ [[0x7E] ++ vendorBytes ++ [0x10, 0, 0] ++ natLe 2 64 ++ bytesOf 64 x] } } })
end

