-- ==== Sys2Proof/Laws/Tables.lean ====
section
/-!
SUPPORT. Sys2Proof/Laws/Tables.lean: the laws of sparse tables and byte memories: a read after a write, other keys, the canonical form.
-/
namespace Sys2Proof

/-! ## Sparse tables -/

@[simp] theorem Tbl.find_nil {α : Type} (k : Nat) : Tbl.find ([] : Tbl α) k = none := rfl

theorem Tbl.find_append {α : Type} (s t : Tbl α) (k : Nat) : Tbl.find (s ++ t) k = (Tbl.find s k).or (Tbl.find t k) := by
  induction s with
  | nil => rfl
  | cons e s ih =>
    obtain ⟨j, v⟩ := e
    simp only [List.cons_append, Tbl.find]
    split <;> simp [ih]

theorem Tbl.find_filter {α : Type} (t : Tbl α) (p : Nat → Bool) (k : Nat) :
    Tbl.find (t.filter (fun e => p e.1)) k = if p k then Tbl.find t k else none := by
  induction t with
  | nil => simp
  | cons e t ih =>
    obtain ⟨j, v⟩ := e
    by_cases hj : p j = true
    · simp only [List.filter_cons, hj, if_true, Tbl.find, ih]
      by_cases h : j = k
      · subst h; simp [hj]
      · simp [h]
    · simp only [List.filter_cons, hj, Tbl.find, ih, Bool.false_eq_true, if_false]
      by_cases h : j = k
      · subst h; simp [hj]
      · simp [h]

theorem Tbl.find_below {α : Type} (t : Tbl α) (a k : Nat) : Tbl.find (Tbl.below t a) k = if k < a then Tbl.find t k else none := by
  simpa [Tbl.below] using Tbl.find_filter t (fun j => decide (j < a)) k

theorem Tbl.find_above {α : Type} (t : Tbl α) (a k : Nat) : Tbl.find (Tbl.above t a) k = if a ≤ k then Tbl.find t k else none := by
  simpa [Tbl.above] using Tbl.find_filter t (fun j => decide (a ≤ j)) k

theorem Tbl.find_erase {α : Type} (t : Tbl α) (j k : Nat) : Tbl.find (Tbl.erase t j) k = if k = j then none else Tbl.find t k := by
  rw [Tbl.erase, Tbl.find_append, Tbl.find_below, Tbl.find_above]
  by_cases h : k = j
  · subst h; simp
  · by_cases h1 : k < j
    · simp [h, h1, Nat.not_le.mpr (Nat.lt_succ_of_lt h1)]
    · simp [h, h1, show j + 1 ≤ k by omega]

@[simp] theorem Tbl.find_erase_self {α : Type} (t : Tbl α) (k : Nat) : Tbl.find (Tbl.erase t k) k = none := by simp [Tbl.find_erase]

theorem Tbl.find_put {α : Type} (t : Tbl α) (j : Nat) (v : α) (k : Nat) :
    Tbl.find (Tbl.put t j v) k = if k = j then some v else Tbl.find t k := by
  rw [Tbl.put, Tbl.find_append, Tbl.find_below, Tbl.find, Tbl.find_above]
  by_cases h : k = j
  · subst h; simp
  · have h' : ¬ j = k := fun e => h e.symm
    by_cases h1 : k < j
    · simp [h, h', h1, Nat.not_le.mpr (Nat.lt_succ_of_lt h1)]
    · simp [h, h', h1, show j + 1 ≤ k by omega]

@[simp] theorem Tbl.find_put_self {α : Type} (t : Tbl α) (k : Nat) (v : α) : Tbl.find (Tbl.put t k v) k = some v := by simp [Tbl.find_put]

theorem Tbl.get_put {α : Type} (t : Tbl α) (j k : Nat) (v d : α) : Tbl.get (Tbl.put t j v) k d = if k = j then v else Tbl.get t k d := by
  simp only [Tbl.get, Tbl.find_put]; split <;> rfl

theorem Tbl.get_erase {α : Type} (t : Tbl α) (j k : Nat) (d : α) : Tbl.get (Tbl.erase t j) k d = if k = j then d else Tbl.get t k d := by
  simp only [Tbl.get, Tbl.find_erase]; split <;> rfl

/-- Reading a table after a write: the value written at its key, what was there at any other. -/
theorem Tbl.get_set {α : Type} [DecidableEq α] (t : Tbl α) (j k : Nat) (v d : α) :
    Tbl.get (Tbl.set t j v d) k d = if k = j then v else Tbl.get t k d := by
  unfold Tbl.set
  split
  · next h => subst h; exact Tbl.get_erase t j k v
  · exact Tbl.get_put t j k v d

@[simp] theorem Tbl.get_set_self {α : Type} [DecidableEq α] (t : Tbl α) (k : Nat) (v d : α) : Tbl.get (Tbl.set t k v d) k d = v := by
  simp [Tbl.get_set]

theorem Tbl.get_set_ne {α : Type} [DecidableEq α] (t : Tbl α) {j k : Nat} (v d : α) (h : k ≠ j) :
    Tbl.get (Tbl.set t j v d) k d = Tbl.get t k d := by simp [Tbl.get_set, h]

theorem Tbl.find_cut {α : Type} (t : Tbl α) (a n k : Nat) :
    Tbl.find (Tbl.cut t a n) k = if a ≤ k ∧ k < a + n then none else Tbl.find t k := by
  rw [Tbl.cut, Tbl.find_append, Tbl.find_below, Tbl.find_above]
  by_cases h1 : k < a
  · have : ¬ (a + n ≤ k) := by omega
    have h2 : ¬ (a ≤ k ∧ k < a + n) := by omega
    simp [h1, h2, this]
  · by_cases h2 : a + n ≤ k
    · have h3 : ¬ (a ≤ k ∧ k < a + n) := by omega
      simp [h1, h2, h3]
    · have h3 : a ≤ k ∧ k < a + n := by omega
      simp [h1, h2, h3]

/-! ### Keys strictly rising -/

theorem Tbl.Sorted.filter {α : Type} {t : Tbl α} (h : Tbl.Sorted t) (p : Nat × α → Bool) : Tbl.Sorted (t.filter p) := List.Pairwise.filter p h

theorem Tbl.Sorted.erase {α : Type} {t : Tbl α} (h : Tbl.Sorted t) (k : Nat) : Tbl.Sorted (Tbl.erase t k) := by
  refine List.pairwise_append.mpr ⟨h.filter _, h.filter _, fun a ha b hb => ?_⟩
  have h1 := (List.mem_filter.mp ha).2
  have h2 := (List.mem_filter.mp hb).2
  simp only [decide_eq_true_eq] at h1 h2
  omega

theorem Tbl.Sorted.put {α : Type} {t : Tbl α} (h : Tbl.Sorted t) (k : Nat) (v : α) : Tbl.Sorted (Tbl.put t k v) := by
  refine List.pairwise_append.mpr ⟨h.filter _, List.pairwise_cons.mpr ⟨fun b hb => ?_, h.filter _⟩, fun a ha b hb => ?_⟩
  · have h2 := (List.mem_filter.mp hb).2
    simp only [decide_eq_true_eq] at h2
    show k < b.1
    omega
  · have h1 := (List.mem_filter.mp ha).2
    simp only [decide_eq_true_eq] at h1
    rcases List.mem_cons.mp hb with rfl | hb
    · exact h1
    · have h2 := (List.mem_filter.mp hb).2
      simp only [decide_eq_true_eq] at h2
      omega

/-- Every write of a table keeps its keys rising. -/
theorem Tbl.Sorted.set {α : Type} [DecidableEq α] {t : Tbl α} (h : Tbl.Sorted t) (k : Nat) (v d : α) : Tbl.Sorted (Tbl.set t k v d) := by
  unfold Tbl.set
  split
  · exact h.erase k
  · exact h.put k v

theorem Tbl.mem_erase {α : Type} {t : Tbl α} {k : Nat} {e : Nat × α} : e ∈ Tbl.erase t k ↔ e ∈ t ∧ e.1 ≠ k := by
  simp only [Tbl.erase, Tbl.below, Tbl.above, List.mem_append, List.mem_filter, decide_eq_true_eq]
  constructor
  · rintro (⟨h, h1⟩ | ⟨h, h1⟩) <;> exact ⟨h, by omega⟩
  · rintro ⟨h, h1⟩
    rcases Nat.lt_or_gt_of_ne h1 with h2 | h2
    · exact .inl ⟨h, h2⟩
    · exact .inr ⟨h, h2⟩

theorem Tbl.mem_put {α : Type} {t : Tbl α} {k : Nat} {v : α} {e : Nat × α} : e ∈ Tbl.put t k v ↔ e = (k, v) ∨ (e ∈ t ∧ e.1 ≠ k) := by
  simp only [Tbl.put, Tbl.below, Tbl.above, List.mem_append, List.mem_cons, List.mem_filter, decide_eq_true_eq]
  constructor
  · rintro (⟨h, h1⟩ | h | ⟨h, h1⟩)
    · exact .inr ⟨h, by omega⟩
    · exact .inl h
    · exact .inr ⟨h, by omega⟩
  · rintro (h | ⟨h, h1⟩)
    · exact .inr (.inl h)
    · rcases Nat.lt_or_gt_of_ne h1 with h2 | h2
      · exact .inl ⟨h, h2⟩
      · exact .inr (.inr ⟨h, h2⟩)

/-- In a table whose keys rise, an entry is what its key finds. -/
theorem Tbl.Sorted.find_of_mem {α : Type} {t : Tbl α} (h : Tbl.Sorted t) {k : Nat} {v : α} (hm : (k, v) ∈ t) : Tbl.find t k = some v := by
  induction t with
  | nil => cases hm
  | cons e t ih =>
    obtain ⟨j, w⟩ := e
    have hp := List.pairwise_cons.mp h
    rcases List.mem_cons.mp hm with he | he
    · cases he; simp [Tbl.find]
    · have hlt : j < k := hp.1 _ he
      have hne : ¬ j = k := by omega
      simp only [Tbl.find, hne, if_false]
      exact ih hp.2 he

/-! ## Byte memories -/

/-- The canonical form: addresses strictly rising, no byte 0 listed. -/
theorem Mem.wf_iff (m : Mem) : Mem.wf m = true ↔ Tbl.Sorted m ∧ ∀ e ∈ m, e.2 ≠ 0 := by
  induction m with
  | nil => simp [Mem.wf, Tbl.Sorted]
  | cons e t ih =>
    cases t with
    | nil => simp [Mem.wf, Tbl.Sorted]
    | cons f u =>
      simp only [Mem.wf, Bool.and_eq_true, bne_iff_ne, decide_eq_true_eq, ih]
      constructor
      · rintro ⟨⟨h1, h2⟩, h3, h4⟩
        refine ⟨List.pairwise_cons.mpr ⟨fun b hb => ?_, h3⟩, fun x hx => ?_⟩
        · rcases List.mem_cons.mp hb with rfl | hb
          · exact h2
          · exact Nat.lt_trans h2 ((List.pairwise_cons.mp h3).1 b hb)
        · rcases List.mem_cons.mp hx with rfl | hx
          · exact h1
          · exact h4 x hx
      · rintro ⟨h1, h2⟩
        have hp := List.pairwise_cons.mp h1
        exact ⟨⟨h2 e (List.mem_cons_self ..), hp.1 f (List.mem_cons_self ..)⟩, hp.2, fun x hx => h2 x (List.mem_cons_of_mem _ hx)⟩

theorem Mem.byte_setByte (m : Mem) (a k : Nat) (b : Byte) : Mem.byte (Mem.setByte m a b) k = if k = a then b else Mem.byte m k :=
  Tbl.get_set m a k b 0

/-- A store of a byte keeps the canonical form. -/
theorem Mem.wf_setByte {m : Mem} (h : Mem.wf m = true) (a : Nat) (b : Byte) : Mem.wf (Mem.setByte m a b) = true := by
  obtain ⟨h1, h2⟩ := (Mem.wf_iff m).mp h
  refine (Mem.wf_iff _).mpr ⟨Tbl.Sorted.set h1 a b 0, fun e he => ?_⟩
  unfold Mem.setByte Tbl.set at he
  split at he
  · exact h2 e (Tbl.mem_erase.mp he).1
  · next hb =>
    rcases Tbl.mem_put.mp he with rfl | he
    · exact hb
    · exact h2 e he.1

theorem Mem.mem_ofBytes {bs : List Byte} {a : Nat} {e : Nat × Byte} (h : e ∈ Mem.ofBytes a bs) : a ≤ e.1 ∧ e.1 < a + bs.length ∧ e.2 ≠ 0 := by
  induction bs generalizing a with
  | nil => cases h
  | cons b bs ih =>
    simp only [Mem.ofBytes] at h
    split at h
    · obtain ⟨h1, h2, h3⟩ := ih h
      simp only [List.length_cons]
      exact ⟨by omega, by omega, h3⟩
    · next hb =>
      rcases List.mem_cons.mp h with rfl | h
      · simp only [List.length_cons]; exact ⟨Nat.le_refl _, by omega, hb⟩
      · obtain ⟨h1, h2, h3⟩ := ih h
        simp only [List.length_cons]
        exact ⟨by omega, by omega, h3⟩

theorem Mem.sorted_ofBytes (bs : List Byte) (a : Nat) : Tbl.Sorted (Mem.ofBytes a bs) := by
  induction bs generalizing a with
  | nil => exact List.Pairwise.nil
  | cons b bs ih =>
    simp only [Mem.ofBytes]
    split
    · exact ih (a + 1)
    · exact List.pairwise_cons.mpr ⟨fun e he => by have := (Mem.mem_ofBytes he).1; show a < e.1; omega, ih (a + 1)⟩

theorem Mem.find_ofBytes (bs : List Byte) (a k : Nat) :
    (Tbl.find (Mem.ofBytes a bs) k).getD 0 = if a ≤ k then bs.getD (k - a) 0 else 0 := by
  induction bs generalizing a with
  | nil => simp [Mem.ofBytes]
  | cons b bs ih =>
    have key : (if a + 1 ≤ k then bs.getD (k - (a + 1)) 0 else 0 : Byte) = if a ≤ k ∧ k ≠ a then (b :: bs).getD (k - a) 0 else 0 := by
      by_cases h : a + 1 ≤ k
      · have h2 : a ≤ k ∧ k ≠ a := by omega
        obtain ⟨j, hj⟩ : ∃ j, k - a = j + 1 := ⟨k - a - 1, by omega⟩
        have hj' : k - (a + 1) = j := by omega
        simp [h, h2, hj, hj']
      · have h2 : ¬ (a ≤ k ∧ k ≠ a) := by omega
        simp [h, h2]
    simp only [Mem.ofBytes]
    split
    · next hb =>
      rw [ih, key]
      by_cases h : k = a
      · subst h; simp [hb]
      · simp [h]
    · next hb =>
      by_cases h : a = k
      · subst h; simp [Tbl.find]
      · have h' : ¬ k = a := fun e => h e.symm
        simp only [Tbl.find, h, if_false]
        rw [ih, key]
        simp [h']

/-- Reading a byte after a store of a run of bytes: the byte stored inside the run, what was there outside. -/
theorem Mem.byte_write (m : Mem) (a k : Nat) (bs : List Byte) :
    Mem.byte (Mem.write m a bs) k = if a ≤ k ∧ k < a + bs.length then bs.getD (k - a) 0 else Mem.byte m k := by
  unfold Mem.byte Tbl.get Mem.write
  rw [Tbl.find_append, Tbl.find_append, Tbl.find_below, Tbl.find_above]
  have hout : ¬ (a ≤ k ∧ k < a + bs.length) → Tbl.find (Mem.ofBytes a bs) k = none := by
    intro h
    have : ∀ (t : Mem), (∀ e ∈ t, e.1 ≠ k) → Tbl.find t k = none := by
      intro t
      induction t with
      | nil => intro _; rfl
      | cons e t ih =>
        intro he
        obtain ⟨j, v⟩ := e
        have h1 : ¬ j = k := he (j, v) (List.mem_cons_self ..)
        simp only [Tbl.find, h1, if_false]
        exact ih (fun e he' => he e (List.mem_cons_of_mem _ he'))
    refine this _ (fun e he hk => h ?_)
    have := Mem.mem_ofBytes he
    omega
  by_cases h1 : k < a
  · have h2 : ¬ (a ≤ k ∧ k < a + bs.length) := by omega
    have h3 : ¬ (a + bs.length ≤ k) := by omega
    simp [h1, h2, h3, hout h2]
  · by_cases h3 : a + bs.length ≤ k
    · have h2 : ¬ (a ≤ k ∧ k < a + bs.length) := by omega
      simp [h1, h2, h3, hout h2]
    · have h2 : a ≤ k ∧ k < a + bs.length := by omega
      have := Mem.find_ofBytes bs a k
      simp only [h2.1, if_true] at this
      simpa [h1, h2, h3] using this

/-- A store of a run of bytes keeps the canonical form. -/
theorem Mem.wf_write {m : Mem} (h : Mem.wf m = true) (a : Nat) (bs : List Byte) : Mem.wf (Mem.write m a bs) = true := by
  obtain ⟨h1, h2⟩ := (Mem.wf_iff m).mp h
  refine (Mem.wf_iff _).mpr ⟨?_, fun e he => ?_⟩
  · refine List.pairwise_append.mpr ⟨List.pairwise_append.mpr ⟨h1.filter _, Mem.sorted_ofBytes bs a, fun x hx y hy => ?_⟩, h1.filter _, fun x hx y hy => ?_⟩
    · have hx := (List.mem_filter.mp hx).2
      have hy := (Mem.mem_ofBytes hy).1
      simp only [decide_eq_true_eq] at hx
      omega
    · have hy := (List.mem_filter.mp hy).2
      simp only [decide_eq_true_eq] at hy
      rcases List.mem_append.mp hx with hx | hx
      · have hx := (List.mem_filter.mp hx).2
        simp only [decide_eq_true_eq] at hx
        omega
      · have hx := (Mem.mem_ofBytes hx).2.1
        omega
  · rcases List.mem_append.mp he with he | he
    · rcases List.mem_append.mp he with he | he
      · exact h2 e (List.mem_filter.mp he).1
      · exact (Mem.mem_ofBytes he).2.2
    · exact h2 e (List.mem_filter.mp he).1

/-- Reading back the run of bytes just stored. -/
theorem Mem.read_write (m : Mem) (a : Nat) (bs : List Byte) : Mem.read (Mem.write m a bs) a bs.length = bs := by
  apply List.ext_getElem
  · simp [Mem.read]
  · intro i h1 h2
    have h3 : i < bs.length := h2
    simp [Mem.read, Mem.byte_write, h3]

end Sys2Proof
end

