-- ==== Sys2Proof/Laws/State.lean ====
section
/-!
SUPPORT. Sys2Proof/Laws/State.lean: what each update of the part leaves as it was, one lemma a field, and the entry read back after an update.
-/
namespace Sys2Proof.Machine

/-! ## Fields -/

@[simp] theorem Dev.setReg_fresh (d : Dev) (off : Nat) (v : Word) : (d.setReg off v).fresh = d.fresh := rfl
@[simp] theorem Dev.setReg_lt (d : Dev) (off : Nat) (v : Word) : (d.setReg off v).lt = d.lt := rfl
@[simp] theorem Dev.setReg_wide (d : Dev) (off : Nat) (v : Word) : (d.setReg off v).wide = d.wide := rfl
@[simp] theorem Dev.setReg_ctr (d : Dev) (off : Nat) (v : Word) : (d.setReg off v).ctr = d.ctr := rfl
@[simp] theorem Dev.setReg_shP (d : Dev) (off : Nat) (v : Word) : (d.setReg off v).shP = d.shP := rfl
@[simp] theorem Dev.setReg_shM (d : Dev) (off : Nat) (v : Word) : (d.setReg off v).shM = d.shM := rfl
@[simp] theorem Dev.setReg_dom (d : Dev) (off : Nat) (v : Word) : (d.setReg off v).dom = d.dom := rfl
@[simp] theorem Dev.setReg_env (d : Dev) (off : Nat) (v : Word) : (d.setReg off v).env = d.env := rfl
@[simp] theorem Dev.setReg_hq (d : Dev) (off : Nat) (v : Word) : (d.setReg off v).hq = d.hq := rfl
@[simp] theorem Dev.setReg_mm (d : Dev) (off : Nat) (v : Word) : (d.setReg off v).mm = d.mm := rfl
@[simp] theorem Dev.setReg_fl (d : Dev) (off : Nat) (v : Word) : (d.setReg off v).fl = d.fl := rfl
@[simp] theorem Dev.setReg_mc (d : Dev) (off : Nat) (v : Word) : (d.setReg off v).mc = d.mc := rfl
@[simp] theorem Dev.setReg_pw (d : Dev) (off : Nat) (v : Word) : (d.setReg off v).pw = d.pw := rfl
@[simp] theorem Dev.setReg_rs (d : Dev) (off : Nat) (v : Word) : (d.setReg off v).rs = d.rs := rfl
@[simp] theorem Dev.setReg_gr (d : Dev) (off : Nat) (v : Word) : (d.setReg off v).gr = d.gr := rfl
@[simp] theorem Dev.setReg_fab (d : Dev) (off : Nat) (v : Word) : (d.setReg off v).fab = d.fab := rfl
@[simp] theorem Dev.setReg_col (d : Dev) (off : Nat) (v : Word) : (d.setReg off v).col = d.col := rfl
@[simp] theorem Dev.setReg_upd (d : Dev) (off : Nat) (v : Word) : (d.setReg off v).upd = d.upd := rfl

@[simp] theorem Dev.setWide_fresh (d : Dev) (off v : Nat) : (d.setWide off v).fresh = d.fresh := rfl
@[simp] theorem Dev.setWide_lt (d : Dev) (off v : Nat) : (d.setWide off v).lt = d.lt := rfl
@[simp] theorem Dev.setWide_regs (d : Dev) (off v : Nat) : (d.setWide off v).regs = d.regs := rfl
@[simp] theorem Dev.setWide_ctr (d : Dev) (off v : Nat) : (d.setWide off v).ctr = d.ctr := rfl
@[simp] theorem Dev.setWide_shP (d : Dev) (off v : Nat) : (d.setWide off v).shP = d.shP := rfl
@[simp] theorem Dev.setWide_shM (d : Dev) (off v : Nat) : (d.setWide off v).shM = d.shM := rfl
@[simp] theorem Dev.setWide_dom (d : Dev) (off v : Nat) : (d.setWide off v).dom = d.dom := rfl
@[simp] theorem Dev.setWide_env (d : Dev) (off v : Nat) : (d.setWide off v).env = d.env := rfl
@[simp] theorem Dev.setWide_hq (d : Dev) (off v : Nat) : (d.setWide off v).hq = d.hq := rfl
@[simp] theorem Dev.setWide_mm (d : Dev) (off v : Nat) : (d.setWide off v).mm = d.mm := rfl
@[simp] theorem Dev.setWide_fl (d : Dev) (off v : Nat) : (d.setWide off v).fl = d.fl := rfl
@[simp] theorem Dev.setWide_mc (d : Dev) (off v : Nat) : (d.setWide off v).mc = d.mc := rfl
@[simp] theorem Dev.setWide_pw (d : Dev) (off v : Nat) : (d.setWide off v).pw = d.pw := rfl
@[simp] theorem Dev.setWide_rs (d : Dev) (off v : Nat) : (d.setWide off v).rs = d.rs := rfl
@[simp] theorem Dev.setWide_gr (d : Dev) (off v : Nat) : (d.setWide off v).gr = d.gr := rfl
@[simp] theorem Dev.setWide_fab (d : Dev) (off v : Nat) : (d.setWide off v).fab = d.fab := rfl
@[simp] theorem Dev.setWide_col (d : Dev) (off v : Nat) : (d.setWide off v).col = d.col := rfl
@[simp] theorem Dev.setWide_upd (d : Dev) (off v : Nat) : (d.setWide off v).upd = d.upd := rfl

@[simp] theorem Dev.setQueue_fresh (d : Dev) (q : Nat) (x : Queue) : (d.setQueue q x).fresh = d.fresh := rfl
@[simp] theorem Dev.setQueue_lt (d : Dev) (q : Nat) (x : Queue) : (d.setQueue q x).lt = d.lt := rfl
@[simp] theorem Dev.setQueue_regs (d : Dev) (q : Nat) (x : Queue) : (d.setQueue q x).regs = d.regs := rfl
@[simp] theorem Dev.setQueue_wide (d : Dev) (q : Nat) (x : Queue) : (d.setQueue q x).wide = d.wide := rfl
@[simp] theorem Dev.setQueue_ctr (d : Dev) (q : Nat) (x : Queue) : (d.setQueue q x).ctr = d.ctr := rfl
@[simp] theorem Dev.setQueue_shP (d : Dev) (q : Nat) (x : Queue) : (d.setQueue q x).shP = d.shP := rfl
@[simp] theorem Dev.setQueue_shM (d : Dev) (q : Nat) (x : Queue) : (d.setQueue q x).shM = d.shM := rfl
@[simp] theorem Dev.setQueue_dom (d : Dev) (q : Nat) (x : Queue) : (d.setQueue q x).dom = d.dom := rfl
@[simp] theorem Dev.setQueue_env (d : Dev) (q : Nat) (x : Queue) : (d.setQueue q x).env = d.env := rfl
@[simp] theorem Dev.setQueue_mm (d : Dev) (q : Nat) (x : Queue) : (d.setQueue q x).mm = d.mm := rfl
@[simp] theorem Dev.setQueue_fl (d : Dev) (q : Nat) (x : Queue) : (d.setQueue q x).fl = d.fl := rfl
@[simp] theorem Dev.setQueue_mc (d : Dev) (q : Nat) (x : Queue) : (d.setQueue q x).mc = d.mc := rfl
@[simp] theorem Dev.setQueue_pw (d : Dev) (q : Nat) (x : Queue) : (d.setQueue q x).pw = d.pw := rfl
@[simp] theorem Dev.setQueue_rs (d : Dev) (q : Nat) (x : Queue) : (d.setQueue q x).rs = d.rs := rfl
@[simp] theorem Dev.setQueue_gr (d : Dev) (q : Nat) (x : Queue) : (d.setQueue q x).gr = d.gr := rfl
@[simp] theorem Dev.setQueue_fab (d : Dev) (q : Nat) (x : Queue) : (d.setQueue q x).fab = d.fab := rfl
@[simp] theorem Dev.setQueue_col (d : Dev) (q : Nat) (x : Queue) : (d.setQueue q x).col = d.col := rfl
@[simp] theorem Dev.setQueue_upd (d : Dev) (q : Nat) (x : Queue) : (d.setQueue q x).upd = d.upd := rfl

@[simp] theorem Dev.modQueue_fresh (d : Dev) (q : Nat) (f : Queue → Queue) : (d.modQueue q f).fresh = d.fresh := rfl
@[simp] theorem Dev.modQueue_lt (d : Dev) (q : Nat) (f : Queue → Queue) : (d.modQueue q f).lt = d.lt := rfl
@[simp] theorem Dev.modQueue_regs (d : Dev) (q : Nat) (f : Queue → Queue) : (d.modQueue q f).regs = d.regs := rfl
@[simp] theorem Dev.modQueue_wide (d : Dev) (q : Nat) (f : Queue → Queue) : (d.modQueue q f).wide = d.wide := rfl
@[simp] theorem Dev.modQueue_ctr (d : Dev) (q : Nat) (f : Queue → Queue) : (d.modQueue q f).ctr = d.ctr := rfl
@[simp] theorem Dev.modQueue_shP (d : Dev) (q : Nat) (f : Queue → Queue) : (d.modQueue q f).shP = d.shP := rfl
@[simp] theorem Dev.modQueue_shM (d : Dev) (q : Nat) (f : Queue → Queue) : (d.modQueue q f).shM = d.shM := rfl
@[simp] theorem Dev.modQueue_dom (d : Dev) (q : Nat) (f : Queue → Queue) : (d.modQueue q f).dom = d.dom := rfl
@[simp] theorem Dev.modQueue_env (d : Dev) (q : Nat) (f : Queue → Queue) : (d.modQueue q f).env = d.env := rfl
@[simp] theorem Dev.modQueue_mm (d : Dev) (q : Nat) (f : Queue → Queue) : (d.modQueue q f).mm = d.mm := rfl
@[simp] theorem Dev.modQueue_fl (d : Dev) (q : Nat) (f : Queue → Queue) : (d.modQueue q f).fl = d.fl := rfl
@[simp] theorem Dev.modQueue_mc (d : Dev) (q : Nat) (f : Queue → Queue) : (d.modQueue q f).mc = d.mc := rfl
@[simp] theorem Dev.modQueue_pw (d : Dev) (q : Nat) (f : Queue → Queue) : (d.modQueue q f).pw = d.pw := rfl
@[simp] theorem Dev.modQueue_rs (d : Dev) (q : Nat) (f : Queue → Queue) : (d.modQueue q f).rs = d.rs := rfl
@[simp] theorem Dev.modQueue_gr (d : Dev) (q : Nat) (f : Queue → Queue) : (d.modQueue q f).gr = d.gr := rfl
@[simp] theorem Dev.modQueue_fab (d : Dev) (q : Nat) (f : Queue → Queue) : (d.modQueue q f).fab = d.fab := rfl
@[simp] theorem Dev.modQueue_col (d : Dev) (q : Nat) (f : Queue → Queue) : (d.modQueue q f).col = d.col := rfl
@[simp] theorem Dev.modQueue_upd (d : Dev) (q : Nat) (f : Queue → Queue) : (d.modQueue q f).upd = d.upd := rfl

@[simp] theorem Dev.setCtx_fresh (d : Dev) (c : Nat) (x : Ctx) : (d.setCtx c x).fresh = d.fresh := rfl
@[simp] theorem Dev.setCtx_lt (d : Dev) (c : Nat) (x : Ctx) : (d.setCtx c x).lt = d.lt := rfl
@[simp] theorem Dev.setCtx_regs (d : Dev) (c : Nat) (x : Ctx) : (d.setCtx c x).regs = d.regs := rfl
@[simp] theorem Dev.setCtx_wide (d : Dev) (c : Nat) (x : Ctx) : (d.setCtx c x).wide = d.wide := rfl
@[simp] theorem Dev.setCtx_ctr (d : Dev) (c : Nat) (x : Ctx) : (d.setCtx c x).ctr = d.ctr := rfl
@[simp] theorem Dev.setCtx_shP (d : Dev) (c : Nat) (x : Ctx) : (d.setCtx c x).shP = d.shP := rfl
@[simp] theorem Dev.setCtx_shM (d : Dev) (c : Nat) (x : Ctx) : (d.setCtx c x).shM = d.shM := rfl
@[simp] theorem Dev.setCtx_dom (d : Dev) (c : Nat) (x : Ctx) : (d.setCtx c x).dom = d.dom := rfl
@[simp] theorem Dev.setCtx_env (d : Dev) (c : Nat) (x : Ctx) : (d.setCtx c x).env = d.env := rfl
@[simp] theorem Dev.setCtx_mm (d : Dev) (c : Nat) (x : Ctx) : (d.setCtx c x).mm = d.mm := rfl
@[simp] theorem Dev.setCtx_fl (d : Dev) (c : Nat) (x : Ctx) : (d.setCtx c x).fl = d.fl := rfl
@[simp] theorem Dev.setCtx_mc (d : Dev) (c : Nat) (x : Ctx) : (d.setCtx c x).mc = d.mc := rfl
@[simp] theorem Dev.setCtx_pw (d : Dev) (c : Nat) (x : Ctx) : (d.setCtx c x).pw = d.pw := rfl
@[simp] theorem Dev.setCtx_rs (d : Dev) (c : Nat) (x : Ctx) : (d.setCtx c x).rs = d.rs := rfl
@[simp] theorem Dev.setCtx_gr (d : Dev) (c : Nat) (x : Ctx) : (d.setCtx c x).gr = d.gr := rfl
@[simp] theorem Dev.setCtx_fab (d : Dev) (c : Nat) (x : Ctx) : (d.setCtx c x).fab = d.fab := rfl
@[simp] theorem Dev.setCtx_col (d : Dev) (c : Nat) (x : Ctx) : (d.setCtx c x).col = d.col := rfl
@[simp] theorem Dev.setCtx_upd (d : Dev) (c : Nat) (x : Ctx) : (d.setCtx c x).upd = d.upd := rfl

@[simp] theorem Dev.modCtx_fresh (d : Dev) (c : Nat) (f : Ctx → Ctx) : (d.modCtx c f).fresh = d.fresh := rfl
@[simp] theorem Dev.modCtx_lt (d : Dev) (c : Nat) (f : Ctx → Ctx) : (d.modCtx c f).lt = d.lt := rfl
@[simp] theorem Dev.modCtx_regs (d : Dev) (c : Nat) (f : Ctx → Ctx) : (d.modCtx c f).regs = d.regs := rfl
@[simp] theorem Dev.modCtx_wide (d : Dev) (c : Nat) (f : Ctx → Ctx) : (d.modCtx c f).wide = d.wide := rfl
@[simp] theorem Dev.modCtx_ctr (d : Dev) (c : Nat) (f : Ctx → Ctx) : (d.modCtx c f).ctr = d.ctr := rfl
@[simp] theorem Dev.modCtx_shP (d : Dev) (c : Nat) (f : Ctx → Ctx) : (d.modCtx c f).shP = d.shP := rfl
@[simp] theorem Dev.modCtx_shM (d : Dev) (c : Nat) (f : Ctx → Ctx) : (d.modCtx c f).shM = d.shM := rfl
@[simp] theorem Dev.modCtx_dom (d : Dev) (c : Nat) (f : Ctx → Ctx) : (d.modCtx c f).dom = d.dom := rfl
@[simp] theorem Dev.modCtx_env (d : Dev) (c : Nat) (f : Ctx → Ctx) : (d.modCtx c f).env = d.env := rfl
@[simp] theorem Dev.modCtx_mm (d : Dev) (c : Nat) (f : Ctx → Ctx) : (d.modCtx c f).mm = d.mm := rfl
@[simp] theorem Dev.modCtx_fl (d : Dev) (c : Nat) (f : Ctx → Ctx) : (d.modCtx c f).fl = d.fl := rfl
@[simp] theorem Dev.modCtx_mc (d : Dev) (c : Nat) (f : Ctx → Ctx) : (d.modCtx c f).mc = d.mc := rfl
@[simp] theorem Dev.modCtx_pw (d : Dev) (c : Nat) (f : Ctx → Ctx) : (d.modCtx c f).pw = d.pw := rfl
@[simp] theorem Dev.modCtx_rs (d : Dev) (c : Nat) (f : Ctx → Ctx) : (d.modCtx c f).rs = d.rs := rfl
@[simp] theorem Dev.modCtx_gr (d : Dev) (c : Nat) (f : Ctx → Ctx) : (d.modCtx c f).gr = d.gr := rfl
@[simp] theorem Dev.modCtx_fab (d : Dev) (c : Nat) (f : Ctx → Ctx) : (d.modCtx c f).fab = d.fab := rfl
@[simp] theorem Dev.modCtx_col (d : Dev) (c : Nat) (f : Ctx → Ctx) : (d.modCtx c f).col = d.col := rfl
@[simp] theorem Dev.modCtx_upd (d : Dev) (c : Nat) (f : Ctx → Ctx) : (d.modCtx c f).upd = d.upd := rfl

@[simp] theorem Dev.setWork_fresh (d : Dev) (t : Nat) (w : Work) : (d.setWork t w).fresh = d.fresh := rfl
@[simp] theorem Dev.setWork_lt (d : Dev) (t : Nat) (w : Work) : (d.setWork t w).lt = d.lt := rfl
@[simp] theorem Dev.setWork_regs (d : Dev) (t : Nat) (w : Work) : (d.setWork t w).regs = d.regs := rfl
@[simp] theorem Dev.setWork_wide (d : Dev) (t : Nat) (w : Work) : (d.setWork t w).wide = d.wide := rfl
@[simp] theorem Dev.setWork_ctr (d : Dev) (t : Nat) (w : Work) : (d.setWork t w).ctr = d.ctr := rfl
@[simp] theorem Dev.setWork_shP (d : Dev) (t : Nat) (w : Work) : (d.setWork t w).shP = d.shP := rfl
@[simp] theorem Dev.setWork_shM (d : Dev) (t : Nat) (w : Work) : (d.setWork t w).shM = d.shM := rfl
@[simp] theorem Dev.setWork_dom (d : Dev) (t : Nat) (w : Work) : (d.setWork t w).dom = d.dom := rfl
@[simp] theorem Dev.setWork_env (d : Dev) (t : Nat) (w : Work) : (d.setWork t w).env = d.env := rfl
@[simp] theorem Dev.setWork_mm (d : Dev) (t : Nat) (w : Work) : (d.setWork t w).mm = d.mm := rfl
@[simp] theorem Dev.setWork_fl (d : Dev) (t : Nat) (w : Work) : (d.setWork t w).fl = d.fl := rfl
@[simp] theorem Dev.setWork_mc (d : Dev) (t : Nat) (w : Work) : (d.setWork t w).mc = d.mc := rfl
@[simp] theorem Dev.setWork_pw (d : Dev) (t : Nat) (w : Work) : (d.setWork t w).pw = d.pw := rfl
@[simp] theorem Dev.setWork_rs (d : Dev) (t : Nat) (w : Work) : (d.setWork t w).rs = d.rs := rfl
@[simp] theorem Dev.setWork_gr (d : Dev) (t : Nat) (w : Work) : (d.setWork t w).gr = d.gr := rfl
@[simp] theorem Dev.setWork_fab (d : Dev) (t : Nat) (w : Work) : (d.setWork t w).fab = d.fab := rfl
@[simp] theorem Dev.setWork_col (d : Dev) (t : Nat) (w : Work) : (d.setWork t w).col = d.col := rfl
@[simp] theorem Dev.setWork_upd (d : Dev) (t : Nat) (w : Work) : (d.setWork t w).upd = d.upd := rfl

@[simp] theorem Dev.freeWork_fresh (d : Dev) (t : Nat) : (d.freeWork t).fresh = d.fresh := rfl
@[simp] theorem Dev.freeWork_lt (d : Dev) (t : Nat) : (d.freeWork t).lt = d.lt := rfl
@[simp] theorem Dev.freeWork_regs (d : Dev) (t : Nat) : (d.freeWork t).regs = d.regs := rfl
@[simp] theorem Dev.freeWork_wide (d : Dev) (t : Nat) : (d.freeWork t).wide = d.wide := rfl
@[simp] theorem Dev.freeWork_ctr (d : Dev) (t : Nat) : (d.freeWork t).ctr = d.ctr := rfl
@[simp] theorem Dev.freeWork_shP (d : Dev) (t : Nat) : (d.freeWork t).shP = d.shP := rfl
@[simp] theorem Dev.freeWork_shM (d : Dev) (t : Nat) : (d.freeWork t).shM = d.shM := rfl
@[simp] theorem Dev.freeWork_dom (d : Dev) (t : Nat) : (d.freeWork t).dom = d.dom := rfl
@[simp] theorem Dev.freeWork_env (d : Dev) (t : Nat) : (d.freeWork t).env = d.env := rfl
@[simp] theorem Dev.freeWork_mm (d : Dev) (t : Nat) : (d.freeWork t).mm = d.mm := rfl
@[simp] theorem Dev.freeWork_fl (d : Dev) (t : Nat) : (d.freeWork t).fl = d.fl := rfl
@[simp] theorem Dev.freeWork_mc (d : Dev) (t : Nat) : (d.freeWork t).mc = d.mc := rfl
@[simp] theorem Dev.freeWork_pw (d : Dev) (t : Nat) : (d.freeWork t).pw = d.pw := rfl
@[simp] theorem Dev.freeWork_rs (d : Dev) (t : Nat) : (d.freeWork t).rs = d.rs := rfl
@[simp] theorem Dev.freeWork_gr (d : Dev) (t : Nat) : (d.freeWork t).gr = d.gr := rfl
@[simp] theorem Dev.freeWork_fab (d : Dev) (t : Nat) : (d.freeWork t).fab = d.fab := rfl
@[simp] theorem Dev.freeWork_col (d : Dev) (t : Nat) : (d.freeWork t).col = d.col := rfl
@[simp] theorem Dev.freeWork_upd (d : Dev) (t : Nat) : (d.freeWork t).upd = d.upd := rfl

@[simp] theorem Dev.blameAll_fresh (d : Dev) (p : Work → Bool) (cause detail : Nat) : (d.blameAll p cause detail).fresh = d.fresh := rfl
@[simp] theorem Dev.blameAll_lt (d : Dev) (p : Work → Bool) (cause detail : Nat) : (d.blameAll p cause detail).lt = d.lt := rfl
@[simp] theorem Dev.blameAll_regs (d : Dev) (p : Work → Bool) (cause detail : Nat) : (d.blameAll p cause detail).regs = d.regs := rfl
@[simp] theorem Dev.blameAll_wide (d : Dev) (p : Work → Bool) (cause detail : Nat) : (d.blameAll p cause detail).wide = d.wide := rfl
@[simp] theorem Dev.blameAll_ctr (d : Dev) (p : Work → Bool) (cause detail : Nat) : (d.blameAll p cause detail).ctr = d.ctr := rfl
@[simp] theorem Dev.blameAll_shP (d : Dev) (p : Work → Bool) (cause detail : Nat) : (d.blameAll p cause detail).shP = d.shP := rfl
@[simp] theorem Dev.blameAll_shM (d : Dev) (p : Work → Bool) (cause detail : Nat) : (d.blameAll p cause detail).shM = d.shM := rfl
@[simp] theorem Dev.blameAll_dom (d : Dev) (p : Work → Bool) (cause detail : Nat) : (d.blameAll p cause detail).dom = d.dom := rfl
@[simp] theorem Dev.blameAll_env (d : Dev) (p : Work → Bool) (cause detail : Nat) : (d.blameAll p cause detail).env = d.env := rfl
@[simp] theorem Dev.blameAll_mm (d : Dev) (p : Work → Bool) (cause detail : Nat) : (d.blameAll p cause detail).mm = d.mm := rfl
@[simp] theorem Dev.blameAll_fl (d : Dev) (p : Work → Bool) (cause detail : Nat) : (d.blameAll p cause detail).fl = d.fl := rfl
@[simp] theorem Dev.blameAll_mc (d : Dev) (p : Work → Bool) (cause detail : Nat) : (d.blameAll p cause detail).mc = d.mc := rfl
@[simp] theorem Dev.blameAll_pw (d : Dev) (p : Work → Bool) (cause detail : Nat) : (d.blameAll p cause detail).pw = d.pw := rfl
@[simp] theorem Dev.blameAll_rs (d : Dev) (p : Work → Bool) (cause detail : Nat) : (d.blameAll p cause detail).rs = d.rs := rfl
@[simp] theorem Dev.blameAll_gr (d : Dev) (p : Work → Bool) (cause detail : Nat) : (d.blameAll p cause detail).gr = d.gr := rfl
@[simp] theorem Dev.blameAll_fab (d : Dev) (p : Work → Bool) (cause detail : Nat) : (d.blameAll p cause detail).fab = d.fab := rfl
@[simp] theorem Dev.blameAll_col (d : Dev) (p : Work → Bool) (cause detail : Nat) : (d.blameAll p cause detail).col = d.col := rfl
@[simp] theorem Dev.blameAll_upd (d : Dev) (p : Work → Bool) (cause detail : Nat) : (d.blameAll p cause detail).upd = d.upd := rfl

@[simp] theorem Dev.setDevRing_fresh (d : Dev) (r : Ring) : (d.setDevRing r).fresh = d.fresh := rfl
@[simp] theorem Dev.setDevRing_lt (d : Dev) (r : Ring) : (d.setDevRing r).lt = d.lt := rfl
@[simp] theorem Dev.setDevRing_regs (d : Dev) (r : Ring) : (d.setDevRing r).regs = d.regs := rfl
@[simp] theorem Dev.setDevRing_wide (d : Dev) (r : Ring) : (d.setDevRing r).wide = d.wide := rfl
@[simp] theorem Dev.setDevRing_ctr (d : Dev) (r : Ring) : (d.setDevRing r).ctr = d.ctr := rfl
@[simp] theorem Dev.setDevRing_shP (d : Dev) (r : Ring) : (d.setDevRing r).shP = d.shP := rfl
@[simp] theorem Dev.setDevRing_shM (d : Dev) (r : Ring) : (d.setDevRing r).shM = d.shM := rfl
@[simp] theorem Dev.setDevRing_dom (d : Dev) (r : Ring) : (d.setDevRing r).dom = d.dom := rfl
@[simp] theorem Dev.setDevRing_env (d : Dev) (r : Ring) : (d.setDevRing r).env = d.env := rfl
@[simp] theorem Dev.setDevRing_mm (d : Dev) (r : Ring) : (d.setDevRing r).mm = d.mm := rfl
@[simp] theorem Dev.setDevRing_fl (d : Dev) (r : Ring) : (d.setDevRing r).fl = d.fl := rfl
@[simp] theorem Dev.setDevRing_mc (d : Dev) (r : Ring) : (d.setDevRing r).mc = d.mc := rfl
@[simp] theorem Dev.setDevRing_pw (d : Dev) (r : Ring) : (d.setDevRing r).pw = d.pw := rfl
@[simp] theorem Dev.setDevRing_rs (d : Dev) (r : Ring) : (d.setDevRing r).rs = d.rs := rfl
@[simp] theorem Dev.setDevRing_gr (d : Dev) (r : Ring) : (d.setDevRing r).gr = d.gr := rfl
@[simp] theorem Dev.setDevRing_fab (d : Dev) (r : Ring) : (d.setDevRing r).fab = d.fab := rfl
@[simp] theorem Dev.setDevRing_col (d : Dev) (r : Ring) : (d.setDevRing r).col = d.col := rfl
@[simp] theorem Dev.setDevRing_upd (d : Dev) (r : Ring) : (d.setDevRing r).upd = d.upd := rfl

@[simp] theorem Dev.setLoad_fresh (d : Dev) (l : LoadState) : (d.setLoad l).fresh = d.fresh := rfl
@[simp] theorem Dev.setLoad_lt (d : Dev) (l : LoadState) : (d.setLoad l).lt = d.lt := rfl
@[simp] theorem Dev.setLoad_regs (d : Dev) (l : LoadState) : (d.setLoad l).regs = d.regs := rfl
@[simp] theorem Dev.setLoad_wide (d : Dev) (l : LoadState) : (d.setLoad l).wide = d.wide := rfl
@[simp] theorem Dev.setLoad_ctr (d : Dev) (l : LoadState) : (d.setLoad l).ctr = d.ctr := rfl
@[simp] theorem Dev.setLoad_shP (d : Dev) (l : LoadState) : (d.setLoad l).shP = d.shP := rfl
@[simp] theorem Dev.setLoad_shM (d : Dev) (l : LoadState) : (d.setLoad l).shM = d.shM := rfl
@[simp] theorem Dev.setLoad_dom (d : Dev) (l : LoadState) : (d.setLoad l).dom = d.dom := rfl
@[simp] theorem Dev.setLoad_env (d : Dev) (l : LoadState) : (d.setLoad l).env = d.env := rfl
@[simp] theorem Dev.setLoad_mm (d : Dev) (l : LoadState) : (d.setLoad l).mm = d.mm := rfl
@[simp] theorem Dev.setLoad_fl (d : Dev) (l : LoadState) : (d.setLoad l).fl = d.fl := rfl
@[simp] theorem Dev.setLoad_mc (d : Dev) (l : LoadState) : (d.setLoad l).mc = d.mc := rfl
@[simp] theorem Dev.setLoad_pw (d : Dev) (l : LoadState) : (d.setLoad l).pw = d.pw := rfl
@[simp] theorem Dev.setLoad_rs (d : Dev) (l : LoadState) : (d.setLoad l).rs = d.rs := rfl
@[simp] theorem Dev.setLoad_gr (d : Dev) (l : LoadState) : (d.setLoad l).gr = d.gr := rfl
@[simp] theorem Dev.setLoad_fab (d : Dev) (l : LoadState) : (d.setLoad l).fab = d.fab := rfl
@[simp] theorem Dev.setLoad_col (d : Dev) (l : LoadState) : (d.setLoad l).col = d.col := rfl
@[simp] theorem Dev.setLoad_upd (d : Dev) (l : LoadState) : (d.setLoad l).upd = d.upd := rfl

@[simp] theorem Dev.hostWrite_fresh (d : Dev) (a : Nat) (bs : List Byte) : (d.hostWrite a bs).fresh = d.fresh := rfl
@[simp] theorem Dev.hostWrite_lt (d : Dev) (a : Nat) (bs : List Byte) : (d.hostWrite a bs).lt = d.lt := rfl
@[simp] theorem Dev.hostWrite_regs (d : Dev) (a : Nat) (bs : List Byte) : (d.hostWrite a bs).regs = d.regs := rfl
@[simp] theorem Dev.hostWrite_wide (d : Dev) (a : Nat) (bs : List Byte) : (d.hostWrite a bs).wide = d.wide := rfl
@[simp] theorem Dev.hostWrite_ctr (d : Dev) (a : Nat) (bs : List Byte) : (d.hostWrite a bs).ctr = d.ctr := rfl
@[simp] theorem Dev.hostWrite_shP (d : Dev) (a : Nat) (bs : List Byte) : (d.hostWrite a bs).shP = d.shP := rfl
@[simp] theorem Dev.hostWrite_shM (d : Dev) (a : Nat) (bs : List Byte) : (d.hostWrite a bs).shM = d.shM := rfl
@[simp] theorem Dev.hostWrite_dom (d : Dev) (a : Nat) (bs : List Byte) : (d.hostWrite a bs).dom = d.dom := rfl
@[simp] theorem Dev.hostWrite_hq (d : Dev) (a : Nat) (bs : List Byte) : (d.hostWrite a bs).hq = d.hq := rfl
@[simp] theorem Dev.hostWrite_mm (d : Dev) (a : Nat) (bs : List Byte) : (d.hostWrite a bs).mm = d.mm := rfl
@[simp] theorem Dev.hostWrite_fl (d : Dev) (a : Nat) (bs : List Byte) : (d.hostWrite a bs).fl = d.fl := rfl
@[simp] theorem Dev.hostWrite_mc (d : Dev) (a : Nat) (bs : List Byte) : (d.hostWrite a bs).mc = d.mc := rfl
@[simp] theorem Dev.hostWrite_pw (d : Dev) (a : Nat) (bs : List Byte) : (d.hostWrite a bs).pw = d.pw := rfl
@[simp] theorem Dev.hostWrite_rs (d : Dev) (a : Nat) (bs : List Byte) : (d.hostWrite a bs).rs = d.rs := rfl
@[simp] theorem Dev.hostWrite_gr (d : Dev) (a : Nat) (bs : List Byte) : (d.hostWrite a bs).gr = d.gr := rfl
@[simp] theorem Dev.hostWrite_fab (d : Dev) (a : Nat) (bs : List Byte) : (d.hostWrite a bs).fab = d.fab := rfl
@[simp] theorem Dev.hostWrite_col (d : Dev) (a : Nat) (bs : List Byte) : (d.hostWrite a bs).col = d.col := rfl
@[simp] theorem Dev.hostWrite_upd (d : Dev) (a : Nat) (bs : List Byte) : (d.hostWrite a bs).upd = d.upd := rfl

@[simp] theorem Dev.sendMsix_fresh (d : Dev) (v : Nat) : (d.sendMsix v).fresh = d.fresh := rfl
@[simp] theorem Dev.sendMsix_lt (d : Dev) (v : Nat) : (d.sendMsix v).lt = d.lt := rfl
@[simp] theorem Dev.sendMsix_regs (d : Dev) (v : Nat) : (d.sendMsix v).regs = d.regs := rfl
@[simp] theorem Dev.sendMsix_wide (d : Dev) (v : Nat) : (d.sendMsix v).wide = d.wide := rfl
@[simp] theorem Dev.sendMsix_ctr (d : Dev) (v : Nat) : (d.sendMsix v).ctr = d.ctr := rfl
@[simp] theorem Dev.sendMsix_shP (d : Dev) (v : Nat) : (d.sendMsix v).shP = d.shP := rfl
@[simp] theorem Dev.sendMsix_shM (d : Dev) (v : Nat) : (d.sendMsix v).shM = d.shM := rfl
@[simp] theorem Dev.sendMsix_dom (d : Dev) (v : Nat) : (d.sendMsix v).dom = d.dom := rfl
@[simp] theorem Dev.sendMsix_hq (d : Dev) (v : Nat) : (d.sendMsix v).hq = d.hq := rfl
@[simp] theorem Dev.sendMsix_mm (d : Dev) (v : Nat) : (d.sendMsix v).mm = d.mm := rfl
@[simp] theorem Dev.sendMsix_fl (d : Dev) (v : Nat) : (d.sendMsix v).fl = d.fl := rfl
@[simp] theorem Dev.sendMsix_mc (d : Dev) (v : Nat) : (d.sendMsix v).mc = d.mc := rfl
@[simp] theorem Dev.sendMsix_pw (d : Dev) (v : Nat) : (d.sendMsix v).pw = d.pw := rfl
@[simp] theorem Dev.sendMsix_rs (d : Dev) (v : Nat) : (d.sendMsix v).rs = d.rs := rfl
@[simp] theorem Dev.sendMsix_gr (d : Dev) (v : Nat) : (d.sendMsix v).gr = d.gr := rfl
@[simp] theorem Dev.sendMsix_fab (d : Dev) (v : Nat) : (d.sendMsix v).fab = d.fab := rfl
@[simp] theorem Dev.sendMsix_col (d : Dev) (v : Nat) : (d.sendMsix v).col = d.col := rfl
@[simp] theorem Dev.sendMsix_upd (d : Dev) (v : Nat) : (d.sendMsix v).upd = d.upd := rfl

@[simp] theorem Dev.spdmSend_fresh (d : Dev) (a : List Byte) : (d.spdmSend a).fresh = d.fresh := rfl
@[simp] theorem Dev.spdmSend_lt (d : Dev) (a : List Byte) : (d.spdmSend a).lt = d.lt := rfl
@[simp] theorem Dev.spdmSend_regs (d : Dev) (a : List Byte) : (d.spdmSend a).regs = d.regs := rfl
@[simp] theorem Dev.spdmSend_wide (d : Dev) (a : List Byte) : (d.spdmSend a).wide = d.wide := rfl
@[simp] theorem Dev.spdmSend_ctr (d : Dev) (a : List Byte) : (d.spdmSend a).ctr = d.ctr := rfl
@[simp] theorem Dev.spdmSend_shP (d : Dev) (a : List Byte) : (d.spdmSend a).shP = d.shP := rfl
@[simp] theorem Dev.spdmSend_shM (d : Dev) (a : List Byte) : (d.spdmSend a).shM = d.shM := rfl
@[simp] theorem Dev.spdmSend_dom (d : Dev) (a : List Byte) : (d.spdmSend a).dom = d.dom := rfl
@[simp] theorem Dev.spdmSend_hq (d : Dev) (a : List Byte) : (d.spdmSend a).hq = d.hq := rfl
@[simp] theorem Dev.spdmSend_mm (d : Dev) (a : List Byte) : (d.spdmSend a).mm = d.mm := rfl
@[simp] theorem Dev.spdmSend_fl (d : Dev) (a : List Byte) : (d.spdmSend a).fl = d.fl := rfl
@[simp] theorem Dev.spdmSend_mc (d : Dev) (a : List Byte) : (d.spdmSend a).mc = d.mc := rfl
@[simp] theorem Dev.spdmSend_pw (d : Dev) (a : List Byte) : (d.spdmSend a).pw = d.pw := rfl
@[simp] theorem Dev.spdmSend_rs (d : Dev) (a : List Byte) : (d.spdmSend a).rs = d.rs := rfl
@[simp] theorem Dev.spdmSend_gr (d : Dev) (a : List Byte) : (d.spdmSend a).gr = d.gr := rfl
@[simp] theorem Dev.spdmSend_fab (d : Dev) (a : List Byte) : (d.spdmSend a).fab = d.fab := rfl
@[simp] theorem Dev.spdmSend_col (d : Dev) (a : List Byte) : (d.spdmSend a).col = d.col := rfl
@[simp] theorem Dev.spdmSend_upd (d : Dev) (a : List Byte) : (d.spdmSend a).upd = d.upd := rfl

@[simp] theorem Dev.mctpSend_fresh (d : Dev) (a : List Byte) : (d.mctpSend a).fresh = d.fresh := rfl
@[simp] theorem Dev.mctpSend_lt (d : Dev) (a : List Byte) : (d.mctpSend a).lt = d.lt := rfl
@[simp] theorem Dev.mctpSend_regs (d : Dev) (a : List Byte) : (d.mctpSend a).regs = d.regs := rfl
@[simp] theorem Dev.mctpSend_wide (d : Dev) (a : List Byte) : (d.mctpSend a).wide = d.wide := rfl
@[simp] theorem Dev.mctpSend_ctr (d : Dev) (a : List Byte) : (d.mctpSend a).ctr = d.ctr := rfl
@[simp] theorem Dev.mctpSend_shP (d : Dev) (a : List Byte) : (d.mctpSend a).shP = d.shP := rfl
@[simp] theorem Dev.mctpSend_shM (d : Dev) (a : List Byte) : (d.mctpSend a).shM = d.shM := rfl
@[simp] theorem Dev.mctpSend_dom (d : Dev) (a : List Byte) : (d.mctpSend a).dom = d.dom := rfl
@[simp] theorem Dev.mctpSend_hq (d : Dev) (a : List Byte) : (d.mctpSend a).hq = d.hq := rfl
@[simp] theorem Dev.mctpSend_mm (d : Dev) (a : List Byte) : (d.mctpSend a).mm = d.mm := rfl
@[simp] theorem Dev.mctpSend_fl (d : Dev) (a : List Byte) : (d.mctpSend a).fl = d.fl := rfl
@[simp] theorem Dev.mctpSend_mc (d : Dev) (a : List Byte) : (d.mctpSend a).mc = d.mc := rfl
@[simp] theorem Dev.mctpSend_pw (d : Dev) (a : List Byte) : (d.mctpSend a).pw = d.pw := rfl
@[simp] theorem Dev.mctpSend_rs (d : Dev) (a : List Byte) : (d.mctpSend a).rs = d.rs := rfl
@[simp] theorem Dev.mctpSend_gr (d : Dev) (a : List Byte) : (d.mctpSend a).gr = d.gr := rfl
@[simp] theorem Dev.mctpSend_fab (d : Dev) (a : List Byte) : (d.mctpSend a).fab = d.fab := rfl
@[simp] theorem Dev.mctpSend_col (d : Dev) (a : List Byte) : (d.mctpSend a).col = d.col := rfl
@[simp] theorem Dev.mctpSend_upd (d : Dev) (a : List Byte) : (d.mctpSend a).upd = d.upd := rfl

@[simp] theorem Dev.setGran_fresh (d : Dev) (g : Store) : (d.setGran g).fresh = d.fresh := rfl
@[simp] theorem Dev.setGran_lt (d : Dev) (g : Store) : (d.setGran g).lt = d.lt := rfl
@[simp] theorem Dev.setGran_regs (d : Dev) (g : Store) : (d.setGran g).regs = d.regs := rfl
@[simp] theorem Dev.setGran_wide (d : Dev) (g : Store) : (d.setGran g).wide = d.wide := rfl
@[simp] theorem Dev.setGran_ctr (d : Dev) (g : Store) : (d.setGran g).ctr = d.ctr := rfl
@[simp] theorem Dev.setGran_shP (d : Dev) (g : Store) : (d.setGran g).shP = d.shP := rfl
@[simp] theorem Dev.setGran_shM (d : Dev) (g : Store) : (d.setGran g).shM = d.shM := rfl
@[simp] theorem Dev.setGran_dom (d : Dev) (g : Store) : (d.setGran g).dom = d.dom := rfl
@[simp] theorem Dev.setGran_env (d : Dev) (g : Store) : (d.setGran g).env = d.env := rfl
@[simp] theorem Dev.setGran_hq (d : Dev) (g : Store) : (d.setGran g).hq = d.hq := rfl
@[simp] theorem Dev.setGran_fl (d : Dev) (g : Store) : (d.setGran g).fl = d.fl := rfl
@[simp] theorem Dev.setGran_mc (d : Dev) (g : Store) : (d.setGran g).mc = d.mc := rfl
@[simp] theorem Dev.setGran_pw (d : Dev) (g : Store) : (d.setGran g).pw = d.pw := rfl
@[simp] theorem Dev.setGran_rs (d : Dev) (g : Store) : (d.setGran g).rs = d.rs := rfl
@[simp] theorem Dev.setGran_gr (d : Dev) (g : Store) : (d.setGran g).gr = d.gr := rfl
@[simp] theorem Dev.setGran_fab (d : Dev) (g : Store) : (d.setGran g).fab = d.fab := rfl
@[simp] theorem Dev.setGran_col (d : Dev) (g : Store) : (d.setGran g).col = d.col := rfl
@[simp] theorem Dev.setGran_upd (d : Dev) (g : Store) : (d.setGran g).upd = d.upd := rfl

@[simp] theorem Dev.putLine_fresh (d : Dev) (l : Line) : (d.putLine l).fresh = d.fresh := rfl
@[simp] theorem Dev.putLine_lt (d : Dev) (l : Line) : (d.putLine l).lt = d.lt := rfl
@[simp] theorem Dev.putLine_regs (d : Dev) (l : Line) : (d.putLine l).regs = d.regs := rfl
@[simp] theorem Dev.putLine_wide (d : Dev) (l : Line) : (d.putLine l).wide = d.wide := rfl
@[simp] theorem Dev.putLine_ctr (d : Dev) (l : Line) : (d.putLine l).ctr = d.ctr := rfl
@[simp] theorem Dev.putLine_shP (d : Dev) (l : Line) : (d.putLine l).shP = d.shP := rfl
@[simp] theorem Dev.putLine_shM (d : Dev) (l : Line) : (d.putLine l).shM = d.shM := rfl
@[simp] theorem Dev.putLine_dom (d : Dev) (l : Line) : (d.putLine l).dom = d.dom := rfl
@[simp] theorem Dev.putLine_env (d : Dev) (l : Line) : (d.putLine l).env = d.env := rfl
@[simp] theorem Dev.putLine_hq (d : Dev) (l : Line) : (d.putLine l).hq = d.hq := rfl
@[simp] theorem Dev.putLine_fl (d : Dev) (l : Line) : (d.putLine l).fl = d.fl := rfl
@[simp] theorem Dev.putLine_mc (d : Dev) (l : Line) : (d.putLine l).mc = d.mc := rfl
@[simp] theorem Dev.putLine_pw (d : Dev) (l : Line) : (d.putLine l).pw = d.pw := rfl
@[simp] theorem Dev.putLine_rs (d : Dev) (l : Line) : (d.putLine l).rs = d.rs := rfl
@[simp] theorem Dev.putLine_gr (d : Dev) (l : Line) : (d.putLine l).gr = d.gr := rfl
@[simp] theorem Dev.putLine_fab (d : Dev) (l : Line) : (d.putLine l).fab = d.fab := rfl
@[simp] theorem Dev.putLine_col (d : Dev) (l : Line) : (d.putLine l).col = d.col := rfl
@[simp] theorem Dev.putLine_upd (d : Dev) (l : Line) : (d.putLine l).upd = d.upd := rfl

@[simp] theorem Dev.dropLine_fresh (d : Dev) (l : Line) : (d.dropLine l).fresh = d.fresh := rfl
@[simp] theorem Dev.dropLine_lt (d : Dev) (l : Line) : (d.dropLine l).lt = d.lt := rfl
@[simp] theorem Dev.dropLine_regs (d : Dev) (l : Line) : (d.dropLine l).regs = d.regs := rfl
@[simp] theorem Dev.dropLine_wide (d : Dev) (l : Line) : (d.dropLine l).wide = d.wide := rfl
@[simp] theorem Dev.dropLine_ctr (d : Dev) (l : Line) : (d.dropLine l).ctr = d.ctr := rfl
@[simp] theorem Dev.dropLine_shP (d : Dev) (l : Line) : (d.dropLine l).shP = d.shP := rfl
@[simp] theorem Dev.dropLine_shM (d : Dev) (l : Line) : (d.dropLine l).shM = d.shM := rfl
@[simp] theorem Dev.dropLine_dom (d : Dev) (l : Line) : (d.dropLine l).dom = d.dom := rfl
@[simp] theorem Dev.dropLine_env (d : Dev) (l : Line) : (d.dropLine l).env = d.env := rfl
@[simp] theorem Dev.dropLine_hq (d : Dev) (l : Line) : (d.dropLine l).hq = d.hq := rfl
@[simp] theorem Dev.dropLine_fl (d : Dev) (l : Line) : (d.dropLine l).fl = d.fl := rfl
@[simp] theorem Dev.dropLine_mc (d : Dev) (l : Line) : (d.dropLine l).mc = d.mc := rfl
@[simp] theorem Dev.dropLine_pw (d : Dev) (l : Line) : (d.dropLine l).pw = d.pw := rfl
@[simp] theorem Dev.dropLine_rs (d : Dev) (l : Line) : (d.dropLine l).rs = d.rs := rfl
@[simp] theorem Dev.dropLine_gr (d : Dev) (l : Line) : (d.dropLine l).gr = d.gr := rfl
@[simp] theorem Dev.dropLine_fab (d : Dev) (l : Line) : (d.dropLine l).fab = d.fab := rfl
@[simp] theorem Dev.dropLine_col (d : Dev) (l : Line) : (d.dropLine l).col = d.col := rfl
@[simp] theorem Dev.dropLine_upd (d : Dev) (l : Line) : (d.dropLine l).upd = d.upd := rfl

@[simp] theorem Dev.modHalf_fresh (d : Dev) (h : Nat) (f : LlcHalf → LlcHalf) : (d.modHalf h f).fresh = d.fresh := rfl
@[simp] theorem Dev.modHalf_lt (d : Dev) (h : Nat) (f : LlcHalf → LlcHalf) : (d.modHalf h f).lt = d.lt := rfl
@[simp] theorem Dev.modHalf_regs (d : Dev) (h : Nat) (f : LlcHalf → LlcHalf) : (d.modHalf h f).regs = d.regs := rfl
@[simp] theorem Dev.modHalf_wide (d : Dev) (h : Nat) (f : LlcHalf → LlcHalf) : (d.modHalf h f).wide = d.wide := rfl
@[simp] theorem Dev.modHalf_ctr (d : Dev) (h : Nat) (f : LlcHalf → LlcHalf) : (d.modHalf h f).ctr = d.ctr := rfl
@[simp] theorem Dev.modHalf_shP (d : Dev) (h : Nat) (f : LlcHalf → LlcHalf) : (d.modHalf h f).shP = d.shP := rfl
@[simp] theorem Dev.modHalf_shM (d : Dev) (h : Nat) (f : LlcHalf → LlcHalf) : (d.modHalf h f).shM = d.shM := rfl
@[simp] theorem Dev.modHalf_dom (d : Dev) (h : Nat) (f : LlcHalf → LlcHalf) : (d.modHalf h f).dom = d.dom := rfl
@[simp] theorem Dev.modHalf_env (d : Dev) (h : Nat) (f : LlcHalf → LlcHalf) : (d.modHalf h f).env = d.env := rfl
@[simp] theorem Dev.modHalf_hq (d : Dev) (h : Nat) (f : LlcHalf → LlcHalf) : (d.modHalf h f).hq = d.hq := rfl
@[simp] theorem Dev.modHalf_fl (d : Dev) (h : Nat) (f : LlcHalf → LlcHalf) : (d.modHalf h f).fl = d.fl := rfl
@[simp] theorem Dev.modHalf_mc (d : Dev) (h : Nat) (f : LlcHalf → LlcHalf) : (d.modHalf h f).mc = d.mc := rfl
@[simp] theorem Dev.modHalf_pw (d : Dev) (h : Nat) (f : LlcHalf → LlcHalf) : (d.modHalf h f).pw = d.pw := rfl
@[simp] theorem Dev.modHalf_rs (d : Dev) (h : Nat) (f : LlcHalf → LlcHalf) : (d.modHalf h f).rs = d.rs := rfl
@[simp] theorem Dev.modHalf_gr (d : Dev) (h : Nat) (f : LlcHalf → LlcHalf) : (d.modHalf h f).gr = d.gr := rfl
@[simp] theorem Dev.modHalf_fab (d : Dev) (h : Nat) (f : LlcHalf → LlcHalf) : (d.modHalf h f).fab = d.fab := rfl
@[simp] theorem Dev.modHalf_col (d : Dev) (h : Nat) (f : LlcHalf → LlcHalf) : (d.modHalf h f).col = d.col := rfl
@[simp] theorem Dev.modHalf_upd (d : Dev) (h : Nat) (f : LlcHalf → LlcHalf) : (d.modHalf h f).upd = d.upd := rfl

@[simp] theorem Dev.modGroup_fresh (d : Dev) (g : Nat) (f : Group → Group) : (d.modGroup g f).fresh = d.fresh := rfl
@[simp] theorem Dev.modGroup_lt (d : Dev) (g : Nat) (f : Group → Group) : (d.modGroup g f).lt = d.lt := rfl
@[simp] theorem Dev.modGroup_regs (d : Dev) (g : Nat) (f : Group → Group) : (d.modGroup g f).regs = d.regs := rfl
@[simp] theorem Dev.modGroup_wide (d : Dev) (g : Nat) (f : Group → Group) : (d.modGroup g f).wide = d.wide := rfl
@[simp] theorem Dev.modGroup_ctr (d : Dev) (g : Nat) (f : Group → Group) : (d.modGroup g f).ctr = d.ctr := rfl
@[simp] theorem Dev.modGroup_shP (d : Dev) (g : Nat) (f : Group → Group) : (d.modGroup g f).shP = d.shP := rfl
@[simp] theorem Dev.modGroup_shM (d : Dev) (g : Nat) (f : Group → Group) : (d.modGroup g f).shM = d.shM := rfl
@[simp] theorem Dev.modGroup_dom (d : Dev) (g : Nat) (f : Group → Group) : (d.modGroup g f).dom = d.dom := rfl
@[simp] theorem Dev.modGroup_env (d : Dev) (g : Nat) (f : Group → Group) : (d.modGroup g f).env = d.env := rfl
@[simp] theorem Dev.modGroup_hq (d : Dev) (g : Nat) (f : Group → Group) : (d.modGroup g f).hq = d.hq := rfl
@[simp] theorem Dev.modGroup_fl (d : Dev) (g : Nat) (f : Group → Group) : (d.modGroup g f).fl = d.fl := rfl
@[simp] theorem Dev.modGroup_mc (d : Dev) (g : Nat) (f : Group → Group) : (d.modGroup g f).mc = d.mc := rfl
@[simp] theorem Dev.modGroup_pw (d : Dev) (g : Nat) (f : Group → Group) : (d.modGroup g f).pw = d.pw := rfl
@[simp] theorem Dev.modGroup_rs (d : Dev) (g : Nat) (f : Group → Group) : (d.modGroup g f).rs = d.rs := rfl
@[simp] theorem Dev.modGroup_gr (d : Dev) (g : Nat) (f : Group → Group) : (d.modGroup g f).gr = d.gr := rfl
@[simp] theorem Dev.modGroup_fab (d : Dev) (g : Nat) (f : Group → Group) : (d.modGroup g f).fab = d.fab := rfl
@[simp] theorem Dev.modGroup_col (d : Dev) (g : Nat) (f : Group → Group) : (d.modGroup g f).col = d.col := rfl
@[simp] theorem Dev.modGroup_upd (d : Dev) (g : Nat) (f : Group → Group) : (d.modGroup g f).upd = d.upd := rfl

@[simp] theorem Dev.modChan_fresh (d : Dev) (n : Nat) (f : Chan → Chan) : (d.modChan n f).fresh = d.fresh := rfl
@[simp] theorem Dev.modChan_lt (d : Dev) (n : Nat) (f : Chan → Chan) : (d.modChan n f).lt = d.lt := rfl
@[simp] theorem Dev.modChan_regs (d : Dev) (n : Nat) (f : Chan → Chan) : (d.modChan n f).regs = d.regs := rfl
@[simp] theorem Dev.modChan_wide (d : Dev) (n : Nat) (f : Chan → Chan) : (d.modChan n f).wide = d.wide := rfl
@[simp] theorem Dev.modChan_ctr (d : Dev) (n : Nat) (f : Chan → Chan) : (d.modChan n f).ctr = d.ctr := rfl
@[simp] theorem Dev.modChan_shP (d : Dev) (n : Nat) (f : Chan → Chan) : (d.modChan n f).shP = d.shP := rfl
@[simp] theorem Dev.modChan_shM (d : Dev) (n : Nat) (f : Chan → Chan) : (d.modChan n f).shM = d.shM := rfl
@[simp] theorem Dev.modChan_dom (d : Dev) (n : Nat) (f : Chan → Chan) : (d.modChan n f).dom = d.dom := rfl
@[simp] theorem Dev.modChan_env (d : Dev) (n : Nat) (f : Chan → Chan) : (d.modChan n f).env = d.env := rfl
@[simp] theorem Dev.modChan_hq (d : Dev) (n : Nat) (f : Chan → Chan) : (d.modChan n f).hq = d.hq := rfl
@[simp] theorem Dev.modChan_fl (d : Dev) (n : Nat) (f : Chan → Chan) : (d.modChan n f).fl = d.fl := rfl
@[simp] theorem Dev.modChan_mc (d : Dev) (n : Nat) (f : Chan → Chan) : (d.modChan n f).mc = d.mc := rfl
@[simp] theorem Dev.modChan_pw (d : Dev) (n : Nat) (f : Chan → Chan) : (d.modChan n f).pw = d.pw := rfl
@[simp] theorem Dev.modChan_rs (d : Dev) (n : Nat) (f : Chan → Chan) : (d.modChan n f).rs = d.rs := rfl
@[simp] theorem Dev.modChan_gr (d : Dev) (n : Nat) (f : Chan → Chan) : (d.modChan n f).gr = d.gr := rfl
@[simp] theorem Dev.modChan_fab (d : Dev) (n : Nat) (f : Chan → Chan) : (d.modChan n f).fab = d.fab := rfl
@[simp] theorem Dev.modChan_col (d : Dev) (n : Nat) (f : Chan → Chan) : (d.modChan n f).col = d.col := rfl
@[simp] theorem Dev.modChan_upd (d : Dev) (n : Nat) (f : Chan → Chan) : (d.modChan n f).upd = d.upd := rfl

@[simp] theorem Dev.modGlean_fresh (d : Dev) (e : Nat) (f : Glean → Glean) : (d.modGlean e f).fresh = d.fresh := rfl
@[simp] theorem Dev.modGlean_lt (d : Dev) (e : Nat) (f : Glean → Glean) : (d.modGlean e f).lt = d.lt := rfl
@[simp] theorem Dev.modGlean_regs (d : Dev) (e : Nat) (f : Glean → Glean) : (d.modGlean e f).regs = d.regs := rfl
@[simp] theorem Dev.modGlean_wide (d : Dev) (e : Nat) (f : Glean → Glean) : (d.modGlean e f).wide = d.wide := rfl
@[simp] theorem Dev.modGlean_ctr (d : Dev) (e : Nat) (f : Glean → Glean) : (d.modGlean e f).ctr = d.ctr := rfl
@[simp] theorem Dev.modGlean_shP (d : Dev) (e : Nat) (f : Glean → Glean) : (d.modGlean e f).shP = d.shP := rfl
@[simp] theorem Dev.modGlean_shM (d : Dev) (e : Nat) (f : Glean → Glean) : (d.modGlean e f).shM = d.shM := rfl
@[simp] theorem Dev.modGlean_dom (d : Dev) (e : Nat) (f : Glean → Glean) : (d.modGlean e f).dom = d.dom := rfl
@[simp] theorem Dev.modGlean_env (d : Dev) (e : Nat) (f : Glean → Glean) : (d.modGlean e f).env = d.env := rfl
@[simp] theorem Dev.modGlean_hq (d : Dev) (e : Nat) (f : Glean → Glean) : (d.modGlean e f).hq = d.hq := rfl
@[simp] theorem Dev.modGlean_fl (d : Dev) (e : Nat) (f : Glean → Glean) : (d.modGlean e f).fl = d.fl := rfl
@[simp] theorem Dev.modGlean_mc (d : Dev) (e : Nat) (f : Glean → Glean) : (d.modGlean e f).mc = d.mc := rfl
@[simp] theorem Dev.modGlean_pw (d : Dev) (e : Nat) (f : Glean → Glean) : (d.modGlean e f).pw = d.pw := rfl
@[simp] theorem Dev.modGlean_rs (d : Dev) (e : Nat) (f : Glean → Glean) : (d.modGlean e f).rs = d.rs := rfl
@[simp] theorem Dev.modGlean_gr (d : Dev) (e : Nat) (f : Glean → Glean) : (d.modGlean e f).gr = d.gr := rfl
@[simp] theorem Dev.modGlean_fab (d : Dev) (e : Nat) (f : Glean → Glean) : (d.modGlean e f).fab = d.fab := rfl
@[simp] theorem Dev.modGlean_col (d : Dev) (e : Nat) (f : Glean → Glean) : (d.modGlean e f).col = d.col := rfl
@[simp] theorem Dev.modGlean_upd (d : Dev) (e : Nat) (f : Glean → Glean) : (d.modGlean e f).upd = d.upd := rfl

@[simp] theorem Dev.setCore_fresh (d : Dev) (n : Nat) (c : Core) : (d.setCore n c).fresh = d.fresh := rfl
@[simp] theorem Dev.setCore_lt (d : Dev) (n : Nat) (c : Core) : (d.setCore n c).lt = d.lt := rfl
@[simp] theorem Dev.setCore_regs (d : Dev) (n : Nat) (c : Core) : (d.setCore n c).regs = d.regs := rfl
@[simp] theorem Dev.setCore_wide (d : Dev) (n : Nat) (c : Core) : (d.setCore n c).wide = d.wide := rfl
@[simp] theorem Dev.setCore_ctr (d : Dev) (n : Nat) (c : Core) : (d.setCore n c).ctr = d.ctr := rfl
@[simp] theorem Dev.setCore_shP (d : Dev) (n : Nat) (c : Core) : (d.setCore n c).shP = d.shP := rfl
@[simp] theorem Dev.setCore_shM (d : Dev) (n : Nat) (c : Core) : (d.setCore n c).shM = d.shM := rfl
@[simp] theorem Dev.setCore_dom (d : Dev) (n : Nat) (c : Core) : (d.setCore n c).dom = d.dom := rfl
@[simp] theorem Dev.setCore_env (d : Dev) (n : Nat) (c : Core) : (d.setCore n c).env = d.env := rfl
@[simp] theorem Dev.setCore_hq (d : Dev) (n : Nat) (c : Core) : (d.setCore n c).hq = d.hq := rfl
@[simp] theorem Dev.setCore_mm (d : Dev) (n : Nat) (c : Core) : (d.setCore n c).mm = d.mm := rfl
@[simp] theorem Dev.setCore_fl (d : Dev) (n : Nat) (c : Core) : (d.setCore n c).fl = d.fl := rfl
@[simp] theorem Dev.setCore_mc (d : Dev) (n : Nat) (c : Core) : (d.setCore n c).mc = d.mc := rfl
@[simp] theorem Dev.setCore_pw (d : Dev) (n : Nat) (c : Core) : (d.setCore n c).pw = d.pw := rfl
@[simp] theorem Dev.setCore_rs (d : Dev) (n : Nat) (c : Core) : (d.setCore n c).rs = d.rs := rfl
@[simp] theorem Dev.setCore_fab (d : Dev) (n : Nat) (c : Core) : (d.setCore n c).fab = d.fab := rfl
@[simp] theorem Dev.setCore_col (d : Dev) (n : Nat) (c : Core) : (d.setCore n c).col = d.col := rfl
@[simp] theorem Dev.setCore_upd (d : Dev) (n : Nat) (c : Core) : (d.setCore n c).upd = d.upd := rfl

@[simp] theorem Dev.modCore_fresh (d : Dev) (n : Nat) (f : Core → Core) : (d.modCore n f).fresh = d.fresh := rfl
@[simp] theorem Dev.modCore_lt (d : Dev) (n : Nat) (f : Core → Core) : (d.modCore n f).lt = d.lt := rfl
@[simp] theorem Dev.modCore_regs (d : Dev) (n : Nat) (f : Core → Core) : (d.modCore n f).regs = d.regs := rfl
@[simp] theorem Dev.modCore_wide (d : Dev) (n : Nat) (f : Core → Core) : (d.modCore n f).wide = d.wide := rfl
@[simp] theorem Dev.modCore_ctr (d : Dev) (n : Nat) (f : Core → Core) : (d.modCore n f).ctr = d.ctr := rfl
@[simp] theorem Dev.modCore_shP (d : Dev) (n : Nat) (f : Core → Core) : (d.modCore n f).shP = d.shP := rfl
@[simp] theorem Dev.modCore_shM (d : Dev) (n : Nat) (f : Core → Core) : (d.modCore n f).shM = d.shM := rfl
@[simp] theorem Dev.modCore_dom (d : Dev) (n : Nat) (f : Core → Core) : (d.modCore n f).dom = d.dom := rfl
@[simp] theorem Dev.modCore_env (d : Dev) (n : Nat) (f : Core → Core) : (d.modCore n f).env = d.env := rfl
@[simp] theorem Dev.modCore_hq (d : Dev) (n : Nat) (f : Core → Core) : (d.modCore n f).hq = d.hq := rfl
@[simp] theorem Dev.modCore_mm (d : Dev) (n : Nat) (f : Core → Core) : (d.modCore n f).mm = d.mm := rfl
@[simp] theorem Dev.modCore_fl (d : Dev) (n : Nat) (f : Core → Core) : (d.modCore n f).fl = d.fl := rfl
@[simp] theorem Dev.modCore_mc (d : Dev) (n : Nat) (f : Core → Core) : (d.modCore n f).mc = d.mc := rfl
@[simp] theorem Dev.modCore_pw (d : Dev) (n : Nat) (f : Core → Core) : (d.modCore n f).pw = d.pw := rfl
@[simp] theorem Dev.modCore_rs (d : Dev) (n : Nat) (f : Core → Core) : (d.modCore n f).rs = d.rs := rfl
@[simp] theorem Dev.modCore_fab (d : Dev) (n : Nat) (f : Core → Core) : (d.modCore n f).fab = d.fab := rfl
@[simp] theorem Dev.modCore_col (d : Dev) (n : Nat) (f : Core → Core) : (d.modCore n f).col = d.col := rfl
@[simp] theorem Dev.modCore_upd (d : Dev) (n : Nat) (f : Core → Core) : (d.modCore n f).upd = d.upd := rfl

@[simp] theorem Dev.setCluster_fresh (d : Dev) (n : Nat) (c : Cluster) : (d.setCluster n c).fresh = d.fresh := rfl
@[simp] theorem Dev.setCluster_lt (d : Dev) (n : Nat) (c : Cluster) : (d.setCluster n c).lt = d.lt := rfl
@[simp] theorem Dev.setCluster_regs (d : Dev) (n : Nat) (c : Cluster) : (d.setCluster n c).regs = d.regs := rfl
@[simp] theorem Dev.setCluster_wide (d : Dev) (n : Nat) (c : Cluster) : (d.setCluster n c).wide = d.wide := rfl
@[simp] theorem Dev.setCluster_ctr (d : Dev) (n : Nat) (c : Cluster) : (d.setCluster n c).ctr = d.ctr := rfl
@[simp] theorem Dev.setCluster_shP (d : Dev) (n : Nat) (c : Cluster) : (d.setCluster n c).shP = d.shP := rfl
@[simp] theorem Dev.setCluster_shM (d : Dev) (n : Nat) (c : Cluster) : (d.setCluster n c).shM = d.shM := rfl
@[simp] theorem Dev.setCluster_dom (d : Dev) (n : Nat) (c : Cluster) : (d.setCluster n c).dom = d.dom := rfl
@[simp] theorem Dev.setCluster_env (d : Dev) (n : Nat) (c : Cluster) : (d.setCluster n c).env = d.env := rfl
@[simp] theorem Dev.setCluster_hq (d : Dev) (n : Nat) (c : Cluster) : (d.setCluster n c).hq = d.hq := rfl
@[simp] theorem Dev.setCluster_mm (d : Dev) (n : Nat) (c : Cluster) : (d.setCluster n c).mm = d.mm := rfl
@[simp] theorem Dev.setCluster_fl (d : Dev) (n : Nat) (c : Cluster) : (d.setCluster n c).fl = d.fl := rfl
@[simp] theorem Dev.setCluster_mc (d : Dev) (n : Nat) (c : Cluster) : (d.setCluster n c).mc = d.mc := rfl
@[simp] theorem Dev.setCluster_pw (d : Dev) (n : Nat) (c : Cluster) : (d.setCluster n c).pw = d.pw := rfl
@[simp] theorem Dev.setCluster_rs (d : Dev) (n : Nat) (c : Cluster) : (d.setCluster n c).rs = d.rs := rfl
@[simp] theorem Dev.setCluster_fab (d : Dev) (n : Nat) (c : Cluster) : (d.setCluster n c).fab = d.fab := rfl
@[simp] theorem Dev.setCluster_col (d : Dev) (n : Nat) (c : Cluster) : (d.setCluster n c).col = d.col := rfl
@[simp] theorem Dev.setCluster_upd (d : Dev) (n : Nat) (c : Cluster) : (d.setCluster n c).upd = d.upd := rfl

@[simp] theorem Dev.modCluster_fresh (d : Dev) (n : Nat) (f : Cluster → Cluster) : (d.modCluster n f).fresh = d.fresh := rfl
@[simp] theorem Dev.modCluster_lt (d : Dev) (n : Nat) (f : Cluster → Cluster) : (d.modCluster n f).lt = d.lt := rfl
@[simp] theorem Dev.modCluster_regs (d : Dev) (n : Nat) (f : Cluster → Cluster) : (d.modCluster n f).regs = d.regs := rfl
@[simp] theorem Dev.modCluster_wide (d : Dev) (n : Nat) (f : Cluster → Cluster) : (d.modCluster n f).wide = d.wide := rfl
@[simp] theorem Dev.modCluster_ctr (d : Dev) (n : Nat) (f : Cluster → Cluster) : (d.modCluster n f).ctr = d.ctr := rfl
@[simp] theorem Dev.modCluster_shP (d : Dev) (n : Nat) (f : Cluster → Cluster) : (d.modCluster n f).shP = d.shP := rfl
@[simp] theorem Dev.modCluster_shM (d : Dev) (n : Nat) (f : Cluster → Cluster) : (d.modCluster n f).shM = d.shM := rfl
@[simp] theorem Dev.modCluster_dom (d : Dev) (n : Nat) (f : Cluster → Cluster) : (d.modCluster n f).dom = d.dom := rfl
@[simp] theorem Dev.modCluster_env (d : Dev) (n : Nat) (f : Cluster → Cluster) : (d.modCluster n f).env = d.env := rfl
@[simp] theorem Dev.modCluster_hq (d : Dev) (n : Nat) (f : Cluster → Cluster) : (d.modCluster n f).hq = d.hq := rfl
@[simp] theorem Dev.modCluster_mm (d : Dev) (n : Nat) (f : Cluster → Cluster) : (d.modCluster n f).mm = d.mm := rfl
@[simp] theorem Dev.modCluster_fl (d : Dev) (n : Nat) (f : Cluster → Cluster) : (d.modCluster n f).fl = d.fl := rfl
@[simp] theorem Dev.modCluster_mc (d : Dev) (n : Nat) (f : Cluster → Cluster) : (d.modCluster n f).mc = d.mc := rfl
@[simp] theorem Dev.modCluster_pw (d : Dev) (n : Nat) (f : Cluster → Cluster) : (d.modCluster n f).pw = d.pw := rfl
@[simp] theorem Dev.modCluster_rs (d : Dev) (n : Nat) (f : Cluster → Cluster) : (d.modCluster n f).rs = d.rs := rfl
@[simp] theorem Dev.modCluster_fab (d : Dev) (n : Nat) (f : Cluster → Cluster) : (d.modCluster n f).fab = d.fab := rfl
@[simp] theorem Dev.modCluster_col (d : Dev) (n : Nat) (f : Cluster → Cluster) : (d.modCluster n f).col = d.col := rfl
@[simp] theorem Dev.modCluster_upd (d : Dev) (n : Nat) (f : Cluster → Cluster) : (d.modCluster n f).upd = d.upd := rfl

@[simp] theorem Dev.setPort_fresh (d : Dev) (p : Nat) (x : Port) : (d.setPort p x).fresh = d.fresh := rfl
@[simp] theorem Dev.setPort_lt (d : Dev) (p : Nat) (x : Port) : (d.setPort p x).lt = d.lt := rfl
@[simp] theorem Dev.setPort_regs (d : Dev) (p : Nat) (x : Port) : (d.setPort p x).regs = d.regs := rfl
@[simp] theorem Dev.setPort_wide (d : Dev) (p : Nat) (x : Port) : (d.setPort p x).wide = d.wide := rfl
@[simp] theorem Dev.setPort_ctr (d : Dev) (p : Nat) (x : Port) : (d.setPort p x).ctr = d.ctr := rfl
@[simp] theorem Dev.setPort_shP (d : Dev) (p : Nat) (x : Port) : (d.setPort p x).shP = d.shP := rfl
@[simp] theorem Dev.setPort_shM (d : Dev) (p : Nat) (x : Port) : (d.setPort p x).shM = d.shM := rfl
@[simp] theorem Dev.setPort_dom (d : Dev) (p : Nat) (x : Port) : (d.setPort p x).dom = d.dom := rfl
@[simp] theorem Dev.setPort_env (d : Dev) (p : Nat) (x : Port) : (d.setPort p x).env = d.env := rfl
@[simp] theorem Dev.setPort_hq (d : Dev) (p : Nat) (x : Port) : (d.setPort p x).hq = d.hq := rfl
@[simp] theorem Dev.setPort_mm (d : Dev) (p : Nat) (x : Port) : (d.setPort p x).mm = d.mm := rfl
@[simp] theorem Dev.setPort_fl (d : Dev) (p : Nat) (x : Port) : (d.setPort p x).fl = d.fl := rfl
@[simp] theorem Dev.setPort_mc (d : Dev) (p : Nat) (x : Port) : (d.setPort p x).mc = d.mc := rfl
@[simp] theorem Dev.setPort_pw (d : Dev) (p : Nat) (x : Port) : (d.setPort p x).pw = d.pw := rfl
@[simp] theorem Dev.setPort_rs (d : Dev) (p : Nat) (x : Port) : (d.setPort p x).rs = d.rs := rfl
@[simp] theorem Dev.setPort_gr (d : Dev) (p : Nat) (x : Port) : (d.setPort p x).gr = d.gr := rfl
@[simp] theorem Dev.setPort_col (d : Dev) (p : Nat) (x : Port) : (d.setPort p x).col = d.col := rfl
@[simp] theorem Dev.setPort_upd (d : Dev) (p : Nat) (x : Port) : (d.setPort p x).upd = d.upd := rfl

@[simp] theorem Dev.modPort_fresh (d : Dev) (p : Nat) (f : Port → Port) : (d.modPort p f).fresh = d.fresh := rfl
@[simp] theorem Dev.modPort_lt (d : Dev) (p : Nat) (f : Port → Port) : (d.modPort p f).lt = d.lt := rfl
@[simp] theorem Dev.modPort_regs (d : Dev) (p : Nat) (f : Port → Port) : (d.modPort p f).regs = d.regs := rfl
@[simp] theorem Dev.modPort_wide (d : Dev) (p : Nat) (f : Port → Port) : (d.modPort p f).wide = d.wide := rfl
@[simp] theorem Dev.modPort_ctr (d : Dev) (p : Nat) (f : Port → Port) : (d.modPort p f).ctr = d.ctr := rfl
@[simp] theorem Dev.modPort_shP (d : Dev) (p : Nat) (f : Port → Port) : (d.modPort p f).shP = d.shP := rfl
@[simp] theorem Dev.modPort_shM (d : Dev) (p : Nat) (f : Port → Port) : (d.modPort p f).shM = d.shM := rfl
@[simp] theorem Dev.modPort_dom (d : Dev) (p : Nat) (f : Port → Port) : (d.modPort p f).dom = d.dom := rfl
@[simp] theorem Dev.modPort_env (d : Dev) (p : Nat) (f : Port → Port) : (d.modPort p f).env = d.env := rfl
@[simp] theorem Dev.modPort_hq (d : Dev) (p : Nat) (f : Port → Port) : (d.modPort p f).hq = d.hq := rfl
@[simp] theorem Dev.modPort_mm (d : Dev) (p : Nat) (f : Port → Port) : (d.modPort p f).mm = d.mm := rfl
@[simp] theorem Dev.modPort_fl (d : Dev) (p : Nat) (f : Port → Port) : (d.modPort p f).fl = d.fl := rfl
@[simp] theorem Dev.modPort_mc (d : Dev) (p : Nat) (f : Port → Port) : (d.modPort p f).mc = d.mc := rfl
@[simp] theorem Dev.modPort_pw (d : Dev) (p : Nat) (f : Port → Port) : (d.modPort p f).pw = d.pw := rfl
@[simp] theorem Dev.modPort_rs (d : Dev) (p : Nat) (f : Port → Port) : (d.modPort p f).rs = d.rs := rfl
@[simp] theorem Dev.modPort_gr (d : Dev) (p : Nat) (f : Port → Port) : (d.modPort p f).gr = d.gr := rfl
@[simp] theorem Dev.modPort_col (d : Dev) (p : Nat) (f : Port → Port) : (d.modPort p f).col = d.col := rfl
@[simp] theorem Dev.modPort_upd (d : Dev) (p : Nat) (f : Port → Port) : (d.modPort p f).upd = d.upd := rfl

@[simp] theorem Dev.fabRefuse_fresh (d : Dev) (p result : Nat) : (d.fabRefuse p result).fresh = d.fresh := rfl
@[simp] theorem Dev.fabRefuse_lt (d : Dev) (p result : Nat) : (d.fabRefuse p result).lt = d.lt := rfl
@[simp] theorem Dev.fabRefuse_regs (d : Dev) (p result : Nat) : (d.fabRefuse p result).regs = d.regs := rfl
@[simp] theorem Dev.fabRefuse_wide (d : Dev) (p result : Nat) : (d.fabRefuse p result).wide = d.wide := rfl
@[simp] theorem Dev.fabRefuse_ctr (d : Dev) (p result : Nat) : (d.fabRefuse p result).ctr = d.ctr := rfl
@[simp] theorem Dev.fabRefuse_shP (d : Dev) (p result : Nat) : (d.fabRefuse p result).shP = d.shP := rfl
@[simp] theorem Dev.fabRefuse_shM (d : Dev) (p result : Nat) : (d.fabRefuse p result).shM = d.shM := rfl
@[simp] theorem Dev.fabRefuse_dom (d : Dev) (p result : Nat) : (d.fabRefuse p result).dom = d.dom := rfl
@[simp] theorem Dev.fabRefuse_env (d : Dev) (p result : Nat) : (d.fabRefuse p result).env = d.env := rfl
@[simp] theorem Dev.fabRefuse_hq (d : Dev) (p result : Nat) : (d.fabRefuse p result).hq = d.hq := rfl
@[simp] theorem Dev.fabRefuse_mm (d : Dev) (p result : Nat) : (d.fabRefuse p result).mm = d.mm := rfl
@[simp] theorem Dev.fabRefuse_fl (d : Dev) (p result : Nat) : (d.fabRefuse p result).fl = d.fl := rfl
@[simp] theorem Dev.fabRefuse_mc (d : Dev) (p result : Nat) : (d.fabRefuse p result).mc = d.mc := rfl
@[simp] theorem Dev.fabRefuse_pw (d : Dev) (p result : Nat) : (d.fabRefuse p result).pw = d.pw := rfl
@[simp] theorem Dev.fabRefuse_rs (d : Dev) (p result : Nat) : (d.fabRefuse p result).rs = d.rs := rfl
@[simp] theorem Dev.fabRefuse_gr (d : Dev) (p result : Nat) : (d.fabRefuse p result).gr = d.gr := rfl
@[simp] theorem Dev.fabRefuse_col (d : Dev) (p result : Nat) : (d.fabRefuse p result).col = d.col := rfl
@[simp] theorem Dev.fabRefuse_upd (d : Dev) (p result : Nat) : (d.fabRefuse p result).upd = d.upd := rfl

@[simp] theorem Dev.setSlot_fresh (d : Dev) (n : Nat) (x : Slot) : (d.setSlot n x).fresh = d.fresh := rfl
@[simp] theorem Dev.setSlot_lt (d : Dev) (n : Nat) (x : Slot) : (d.setSlot n x).lt = d.lt := rfl
@[simp] theorem Dev.setSlot_regs (d : Dev) (n : Nat) (x : Slot) : (d.setSlot n x).regs = d.regs := rfl
@[simp] theorem Dev.setSlot_wide (d : Dev) (n : Nat) (x : Slot) : (d.setSlot n x).wide = d.wide := rfl
@[simp] theorem Dev.setSlot_ctr (d : Dev) (n : Nat) (x : Slot) : (d.setSlot n x).ctr = d.ctr := rfl
@[simp] theorem Dev.setSlot_shP (d : Dev) (n : Nat) (x : Slot) : (d.setSlot n x).shP = d.shP := rfl
@[simp] theorem Dev.setSlot_shM (d : Dev) (n : Nat) (x : Slot) : (d.setSlot n x).shM = d.shM := rfl
@[simp] theorem Dev.setSlot_dom (d : Dev) (n : Nat) (x : Slot) : (d.setSlot n x).dom = d.dom := rfl
@[simp] theorem Dev.setSlot_env (d : Dev) (n : Nat) (x : Slot) : (d.setSlot n x).env = d.env := rfl
@[simp] theorem Dev.setSlot_hq (d : Dev) (n : Nat) (x : Slot) : (d.setSlot n x).hq = d.hq := rfl
@[simp] theorem Dev.setSlot_mm (d : Dev) (n : Nat) (x : Slot) : (d.setSlot n x).mm = d.mm := rfl
@[simp] theorem Dev.setSlot_fl (d : Dev) (n : Nat) (x : Slot) : (d.setSlot n x).fl = d.fl := rfl
@[simp] theorem Dev.setSlot_mc (d : Dev) (n : Nat) (x : Slot) : (d.setSlot n x).mc = d.mc := rfl
@[simp] theorem Dev.setSlot_pw (d : Dev) (n : Nat) (x : Slot) : (d.setSlot n x).pw = d.pw := rfl
@[simp] theorem Dev.setSlot_rs (d : Dev) (n : Nat) (x : Slot) : (d.setSlot n x).rs = d.rs := rfl
@[simp] theorem Dev.setSlot_gr (d : Dev) (n : Nat) (x : Slot) : (d.setSlot n x).gr = d.gr := rfl
@[simp] theorem Dev.setSlot_fab (d : Dev) (n : Nat) (x : Slot) : (d.setSlot n x).fab = d.fab := rfl
@[simp] theorem Dev.setSlot_upd (d : Dev) (n : Nat) (x : Slot) : (d.setSlot n x).upd = d.upd := rfl

@[simp] theorem Dev.setJob_fresh (d : Dev) (t : Nat) (j : Job) : (d.setJob t j).fresh = d.fresh := rfl
@[simp] theorem Dev.setJob_lt (d : Dev) (t : Nat) (j : Job) : (d.setJob t j).lt = d.lt := rfl
@[simp] theorem Dev.setJob_regs (d : Dev) (t : Nat) (j : Job) : (d.setJob t j).regs = d.regs := rfl
@[simp] theorem Dev.setJob_wide (d : Dev) (t : Nat) (j : Job) : (d.setJob t j).wide = d.wide := rfl
@[simp] theorem Dev.setJob_ctr (d : Dev) (t : Nat) (j : Job) : (d.setJob t j).ctr = d.ctr := rfl
@[simp] theorem Dev.setJob_shP (d : Dev) (t : Nat) (j : Job) : (d.setJob t j).shP = d.shP := rfl
@[simp] theorem Dev.setJob_shM (d : Dev) (t : Nat) (j : Job) : (d.setJob t j).shM = d.shM := rfl
@[simp] theorem Dev.setJob_dom (d : Dev) (t : Nat) (j : Job) : (d.setJob t j).dom = d.dom := rfl
@[simp] theorem Dev.setJob_env (d : Dev) (t : Nat) (j : Job) : (d.setJob t j).env = d.env := rfl
@[simp] theorem Dev.setJob_hq (d : Dev) (t : Nat) (j : Job) : (d.setJob t j).hq = d.hq := rfl
@[simp] theorem Dev.setJob_mm (d : Dev) (t : Nat) (j : Job) : (d.setJob t j).mm = d.mm := rfl
@[simp] theorem Dev.setJob_fl (d : Dev) (t : Nat) (j : Job) : (d.setJob t j).fl = d.fl := rfl
@[simp] theorem Dev.setJob_mc (d : Dev) (t : Nat) (j : Job) : (d.setJob t j).mc = d.mc := rfl
@[simp] theorem Dev.setJob_pw (d : Dev) (t : Nat) (j : Job) : (d.setJob t j).pw = d.pw := rfl
@[simp] theorem Dev.setJob_rs (d : Dev) (t : Nat) (j : Job) : (d.setJob t j).rs = d.rs := rfl
@[simp] theorem Dev.setJob_gr (d : Dev) (t : Nat) (j : Job) : (d.setJob t j).gr = d.gr := rfl
@[simp] theorem Dev.setJob_fab (d : Dev) (t : Nat) (j : Job) : (d.setJob t j).fab = d.fab := rfl
@[simp] theorem Dev.setJob_col (d : Dev) (t : Nat) (j : Job) : (d.setJob t j).col = d.col := rfl

@[simp] theorem Dev.updRefuse_fresh (d : Dev) (off result : Nat) : (d.updRefuse off result).fresh = d.fresh := rfl
@[simp] theorem Dev.updRefuse_lt (d : Dev) (off result : Nat) : (d.updRefuse off result).lt = d.lt := rfl
@[simp] theorem Dev.updRefuse_regs (d : Dev) (off result : Nat) : (d.updRefuse off result).regs = d.regs := rfl
@[simp] theorem Dev.updRefuse_wide (d : Dev) (off result : Nat) : (d.updRefuse off result).wide = d.wide := rfl
@[simp] theorem Dev.updRefuse_ctr (d : Dev) (off result : Nat) : (d.updRefuse off result).ctr = d.ctr := rfl
@[simp] theorem Dev.updRefuse_shP (d : Dev) (off result : Nat) : (d.updRefuse off result).shP = d.shP := rfl
@[simp] theorem Dev.updRefuse_shM (d : Dev) (off result : Nat) : (d.updRefuse off result).shM = d.shM := rfl
@[simp] theorem Dev.updRefuse_dom (d : Dev) (off result : Nat) : (d.updRefuse off result).dom = d.dom := rfl
@[simp] theorem Dev.updRefuse_env (d : Dev) (off result : Nat) : (d.updRefuse off result).env = d.env := rfl
@[simp] theorem Dev.updRefuse_hq (d : Dev) (off result : Nat) : (d.updRefuse off result).hq = d.hq := rfl
@[simp] theorem Dev.updRefuse_mm (d : Dev) (off result : Nat) : (d.updRefuse off result).mm = d.mm := rfl
@[simp] theorem Dev.updRefuse_fl (d : Dev) (off result : Nat) : (d.updRefuse off result).fl = d.fl := rfl
@[simp] theorem Dev.updRefuse_mc (d : Dev) (off result : Nat) : (d.updRefuse off result).mc = d.mc := rfl
@[simp] theorem Dev.updRefuse_pw (d : Dev) (off result : Nat) : (d.updRefuse off result).pw = d.pw := rfl
@[simp] theorem Dev.updRefuse_rs (d : Dev) (off result : Nat) : (d.updRefuse off result).rs = d.rs := rfl
@[simp] theorem Dev.updRefuse_gr (d : Dev) (off result : Nat) : (d.updRefuse off result).gr = d.gr := rfl
@[simp] theorem Dev.updRefuse_fab (d : Dev) (off result : Nat) : (d.updRefuse off result).fab = d.fab := rfl
@[simp] theorem Dev.updRefuse_col (d : Dev) (off result : Nat) : (d.updRefuse off result).col = d.col := rfl

@[simp] theorem Dev.modGrp_fresh (d : Dev) (g : Nat) (f : Grp → Grp) : (d.modGrp g f).fresh = d.fresh := rfl
@[simp] theorem Dev.modGrp_lt (d : Dev) (g : Nat) (f : Grp → Grp) : (d.modGrp g f).lt = d.lt := rfl
@[simp] theorem Dev.modGrp_regs (d : Dev) (g : Nat) (f : Grp → Grp) : (d.modGrp g f).regs = d.regs := rfl
@[simp] theorem Dev.modGrp_wide (d : Dev) (g : Nat) (f : Grp → Grp) : (d.modGrp g f).wide = d.wide := rfl
@[simp] theorem Dev.modGrp_ctr (d : Dev) (g : Nat) (f : Grp → Grp) : (d.modGrp g f).ctr = d.ctr := rfl
@[simp] theorem Dev.modGrp_shP (d : Dev) (g : Nat) (f : Grp → Grp) : (d.modGrp g f).shP = d.shP := rfl
@[simp] theorem Dev.modGrp_shM (d : Dev) (g : Nat) (f : Grp → Grp) : (d.modGrp g f).shM = d.shM := rfl
@[simp] theorem Dev.modGrp_dom (d : Dev) (g : Nat) (f : Grp → Grp) : (d.modGrp g f).dom = d.dom := rfl
@[simp] theorem Dev.modGrp_env (d : Dev) (g : Nat) (f : Grp → Grp) : (d.modGrp g f).env = d.env := rfl
@[simp] theorem Dev.modGrp_hq (d : Dev) (g : Nat) (f : Grp → Grp) : (d.modGrp g f).hq = d.hq := rfl
@[simp] theorem Dev.modGrp_mm (d : Dev) (g : Nat) (f : Grp → Grp) : (d.modGrp g f).mm = d.mm := rfl
@[simp] theorem Dev.modGrp_fl (d : Dev) (g : Nat) (f : Grp → Grp) : (d.modGrp g f).fl = d.fl := rfl
@[simp] theorem Dev.modGrp_mc (d : Dev) (g : Nat) (f : Grp → Grp) : (d.modGrp g f).mc = d.mc := rfl
@[simp] theorem Dev.modGrp_pw (d : Dev) (g : Nat) (f : Grp → Grp) : (d.modGrp g f).pw = d.pw := rfl
@[simp] theorem Dev.modGrp_rs (d : Dev) (g : Nat) (f : Grp → Grp) : (d.modGrp g f).rs = d.rs := rfl
@[simp] theorem Dev.modGrp_gr (d : Dev) (g : Nat) (f : Grp → Grp) : (d.modGrp g f).gr = d.gr := rfl
@[simp] theorem Dev.modGrp_fab (d : Dev) (g : Nat) (f : Grp → Grp) : (d.modGrp g f).fab = d.fab := rfl
@[simp] theorem Dev.modGrp_col (d : Dev) (g : Nat) (f : Grp → Grp) : (d.modGrp g f).col = d.col := rfl

@[simp] theorem Dev.setTrans_fresh (d : Dev) (t : Option Trans) : (d.setTrans t).fresh = d.fresh := rfl
@[simp] theorem Dev.setTrans_lt (d : Dev) (t : Option Trans) : (d.setTrans t).lt = d.lt := rfl
@[simp] theorem Dev.setTrans_regs (d : Dev) (t : Option Trans) : (d.setTrans t).regs = d.regs := rfl
@[simp] theorem Dev.setTrans_wide (d : Dev) (t : Option Trans) : (d.setTrans t).wide = d.wide := rfl
@[simp] theorem Dev.setTrans_ctr (d : Dev) (t : Option Trans) : (d.setTrans t).ctr = d.ctr := rfl
@[simp] theorem Dev.setTrans_shP (d : Dev) (t : Option Trans) : (d.setTrans t).shP = d.shP := rfl
@[simp] theorem Dev.setTrans_shM (d : Dev) (t : Option Trans) : (d.setTrans t).shM = d.shM := rfl
@[simp] theorem Dev.setTrans_dom (d : Dev) (t : Option Trans) : (d.setTrans t).dom = d.dom := rfl
@[simp] theorem Dev.setTrans_env (d : Dev) (t : Option Trans) : (d.setTrans t).env = d.env := rfl
@[simp] theorem Dev.setTrans_hq (d : Dev) (t : Option Trans) : (d.setTrans t).hq = d.hq := rfl
@[simp] theorem Dev.setTrans_mm (d : Dev) (t : Option Trans) : (d.setTrans t).mm = d.mm := rfl
@[simp] theorem Dev.setTrans_fl (d : Dev) (t : Option Trans) : (d.setTrans t).fl = d.fl := rfl
@[simp] theorem Dev.setTrans_mc (d : Dev) (t : Option Trans) : (d.setTrans t).mc = d.mc := rfl
@[simp] theorem Dev.setTrans_rs (d : Dev) (t : Option Trans) : (d.setTrans t).rs = d.rs := rfl
@[simp] theorem Dev.setTrans_gr (d : Dev) (t : Option Trans) : (d.setTrans t).gr = d.gr := rfl
@[simp] theorem Dev.setTrans_fab (d : Dev) (t : Option Trans) : (d.setTrans t).fab = d.fab := rfl
@[simp] theorem Dev.setTrans_col (d : Dev) (t : Option Trans) : (d.setTrans t).col = d.col := rfl
@[simp] theorem Dev.setTrans_upd (d : Dev) (t : Option Trans) : (d.setTrans t).upd = d.upd := rfl

@[simp] theorem Dev.pwrResult_fresh (d : Dev) (r i : Nat) : (d.pwrResult r i).fresh = d.fresh := rfl
@[simp] theorem Dev.pwrResult_lt (d : Dev) (r i : Nat) : (d.pwrResult r i).lt = d.lt := rfl
@[simp] theorem Dev.pwrResult_regs (d : Dev) (r i : Nat) : (d.pwrResult r i).regs = d.regs := rfl
@[simp] theorem Dev.pwrResult_wide (d : Dev) (r i : Nat) : (d.pwrResult r i).wide = d.wide := rfl
@[simp] theorem Dev.pwrResult_ctr (d : Dev) (r i : Nat) : (d.pwrResult r i).ctr = d.ctr := rfl
@[simp] theorem Dev.pwrResult_shP (d : Dev) (r i : Nat) : (d.pwrResult r i).shP = d.shP := rfl
@[simp] theorem Dev.pwrResult_shM (d : Dev) (r i : Nat) : (d.pwrResult r i).shM = d.shM := rfl
@[simp] theorem Dev.pwrResult_dom (d : Dev) (r i : Nat) : (d.pwrResult r i).dom = d.dom := rfl
@[simp] theorem Dev.pwrResult_env (d : Dev) (r i : Nat) : (d.pwrResult r i).env = d.env := rfl
@[simp] theorem Dev.pwrResult_hq (d : Dev) (r i : Nat) : (d.pwrResult r i).hq = d.hq := rfl
@[simp] theorem Dev.pwrResult_mm (d : Dev) (r i : Nat) : (d.pwrResult r i).mm = d.mm := rfl
@[simp] theorem Dev.pwrResult_fl (d : Dev) (r i : Nat) : (d.pwrResult r i).fl = d.fl := rfl
@[simp] theorem Dev.pwrResult_mc (d : Dev) (r i : Nat) : (d.pwrResult r i).mc = d.mc := rfl
@[simp] theorem Dev.pwrResult_rs (d : Dev) (r i : Nat) : (d.pwrResult r i).rs = d.rs := rfl
@[simp] theorem Dev.pwrResult_gr (d : Dev) (r i : Nat) : (d.pwrResult r i).gr = d.gr := rfl
@[simp] theorem Dev.pwrResult_fab (d : Dev) (r i : Nat) : (d.pwrResult r i).fab = d.fab := rfl
@[simp] theorem Dev.pwrResult_col (d : Dev) (r i : Nat) : (d.pwrResult r i).col = d.col := rfl
@[simp] theorem Dev.pwrResult_upd (d : Dev) (r i : Nat) : (d.pwrResult r i).upd = d.upd := rfl

@[simp] theorem Dev.setCtl_fresh (d : Dev) (c : Ctl) : (d.setCtl c).fresh = d.fresh := rfl
@[simp] theorem Dev.setCtl_lt (d : Dev) (c : Ctl) : (d.setCtl c).lt = d.lt := rfl
@[simp] theorem Dev.setCtl_regs (d : Dev) (c : Ctl) : (d.setCtl c).regs = d.regs := rfl
@[simp] theorem Dev.setCtl_wide (d : Dev) (c : Ctl) : (d.setCtl c).wide = d.wide := rfl
@[simp] theorem Dev.setCtl_ctr (d : Dev) (c : Ctl) : (d.setCtl c).ctr = d.ctr := rfl
@[simp] theorem Dev.setCtl_shP (d : Dev) (c : Ctl) : (d.setCtl c).shP = d.shP := rfl
@[simp] theorem Dev.setCtl_shM (d : Dev) (c : Ctl) : (d.setCtl c).shM = d.shM := rfl
@[simp] theorem Dev.setCtl_dom (d : Dev) (c : Ctl) : (d.setCtl c).dom = d.dom := rfl
@[simp] theorem Dev.setCtl_env (d : Dev) (c : Ctl) : (d.setCtl c).env = d.env := rfl
@[simp] theorem Dev.setCtl_hq (d : Dev) (c : Ctl) : (d.setCtl c).hq = d.hq := rfl
@[simp] theorem Dev.setCtl_mm (d : Dev) (c : Ctl) : (d.setCtl c).mm = d.mm := rfl
@[simp] theorem Dev.setCtl_fl (d : Dev) (c : Ctl) : (d.setCtl c).fl = d.fl := rfl
@[simp] theorem Dev.setCtl_mc (d : Dev) (c : Ctl) : (d.setCtl c).mc = d.mc := rfl
@[simp] theorem Dev.setCtl_rs (d : Dev) (c : Ctl) : (d.setCtl c).rs = d.rs := rfl
@[simp] theorem Dev.setCtl_gr (d : Dev) (c : Ctl) : (d.setCtl c).gr = d.gr := rfl
@[simp] theorem Dev.setCtl_fab (d : Dev) (c : Ctl) : (d.setCtl c).fab = d.fab := rfl
@[simp] theorem Dev.setCtl_col (d : Dev) (c : Ctl) : (d.setCtl c).col = d.col := rfl
@[simp] theorem Dev.setCtl_upd (d : Dev) (c : Ctl) : (d.setCtl c).upd = d.upd := rfl

@[simp] theorem Dev.setTh_fresh (d : Dev) (t : Therm) : (d.setTh t).fresh = d.fresh := rfl
@[simp] theorem Dev.setTh_lt (d : Dev) (t : Therm) : (d.setTh t).lt = d.lt := rfl
@[simp] theorem Dev.setTh_regs (d : Dev) (t : Therm) : (d.setTh t).regs = d.regs := rfl
@[simp] theorem Dev.setTh_wide (d : Dev) (t : Therm) : (d.setTh t).wide = d.wide := rfl
@[simp] theorem Dev.setTh_ctr (d : Dev) (t : Therm) : (d.setTh t).ctr = d.ctr := rfl
@[simp] theorem Dev.setTh_shP (d : Dev) (t : Therm) : (d.setTh t).shP = d.shP := rfl
@[simp] theorem Dev.setTh_shM (d : Dev) (t : Therm) : (d.setTh t).shM = d.shM := rfl
@[simp] theorem Dev.setTh_dom (d : Dev) (t : Therm) : (d.setTh t).dom = d.dom := rfl
@[simp] theorem Dev.setTh_env (d : Dev) (t : Therm) : (d.setTh t).env = d.env := rfl
@[simp] theorem Dev.setTh_hq (d : Dev) (t : Therm) : (d.setTh t).hq = d.hq := rfl
@[simp] theorem Dev.setTh_mm (d : Dev) (t : Therm) : (d.setTh t).mm = d.mm := rfl
@[simp] theorem Dev.setTh_fl (d : Dev) (t : Therm) : (d.setTh t).fl = d.fl := rfl
@[simp] theorem Dev.setTh_mc (d : Dev) (t : Therm) : (d.setTh t).mc = d.mc := rfl
@[simp] theorem Dev.setTh_rs (d : Dev) (t : Therm) : (d.setTh t).rs = d.rs := rfl
@[simp] theorem Dev.setTh_gr (d : Dev) (t : Therm) : (d.setTh t).gr = d.gr := rfl
@[simp] theorem Dev.setTh_fab (d : Dev) (t : Therm) : (d.setTh t).fab = d.fab := rfl
@[simp] theorem Dev.setTh_col (d : Dev) (t : Therm) : (d.setTh t).col = d.col := rfl
@[simp] theorem Dev.setTh_upd (d : Dev) (t : Therm) : (d.setTh t).upd = d.upd := rfl

@[simp] theorem Dev.setDom_fresh (d : Dev) (n : Nat) (on : Bool) : (d.setDom n on).fresh = d.fresh := rfl
@[simp] theorem Dev.setDom_lt (d : Dev) (n : Nat) (on : Bool) : (d.setDom n on).lt = d.lt := rfl
@[simp] theorem Dev.setDom_regs (d : Dev) (n : Nat) (on : Bool) : (d.setDom n on).regs = d.regs := rfl
@[simp] theorem Dev.setDom_wide (d : Dev) (n : Nat) (on : Bool) : (d.setDom n on).wide = d.wide := rfl
@[simp] theorem Dev.setDom_ctr (d : Dev) (n : Nat) (on : Bool) : (d.setDom n on).ctr = d.ctr := rfl
@[simp] theorem Dev.setDom_shP (d : Dev) (n : Nat) (on : Bool) : (d.setDom n on).shP = d.shP := rfl
@[simp] theorem Dev.setDom_shM (d : Dev) (n : Nat) (on : Bool) : (d.setDom n on).shM = d.shM := rfl
@[simp] theorem Dev.setDom_env (d : Dev) (n : Nat) (on : Bool) : (d.setDom n on).env = d.env := rfl
@[simp] theorem Dev.setDom_hq (d : Dev) (n : Nat) (on : Bool) : (d.setDom n on).hq = d.hq := rfl
@[simp] theorem Dev.setDom_mm (d : Dev) (n : Nat) (on : Bool) : (d.setDom n on).mm = d.mm := rfl
@[simp] theorem Dev.setDom_fl (d : Dev) (n : Nat) (on : Bool) : (d.setDom n on).fl = d.fl := rfl
@[simp] theorem Dev.setDom_mc (d : Dev) (n : Nat) (on : Bool) : (d.setDom n on).mc = d.mc := rfl
@[simp] theorem Dev.setDom_pw (d : Dev) (n : Nat) (on : Bool) : (d.setDom n on).pw = d.pw := rfl
@[simp] theorem Dev.setDom_rs (d : Dev) (n : Nat) (on : Bool) : (d.setDom n on).rs = d.rs := rfl
@[simp] theorem Dev.setDom_gr (d : Dev) (n : Nat) (on : Bool) : (d.setDom n on).gr = d.gr := rfl
@[simp] theorem Dev.setDom_fab (d : Dev) (n : Nat) (on : Bool) : (d.setDom n on).fab = d.fab := rfl
@[simp] theorem Dev.setDom_col (d : Dev) (n : Nat) (on : Bool) : (d.setDom n on).col = d.col := rfl
@[simp] theorem Dev.setDom_upd (d : Dev) (n : Nat) (on : Bool) : (d.setDom n on).upd = d.upd := rfl
/-! ## Entries -/

theorem Dev.reg_setReg (d : Dev) (o : Nat) (v : Word) (k : Nat) : (d.setReg o v).reg k = if k = o then v else d.reg k := by
  unfold Dev.reg Dev.setReg
  by_cases h : k = o
  · subst h; simp
  · have : ∀ (r : Word), Tbl.get (Tbl.set d.regs o v (resetVal o)) k r = Tbl.get d.regs k r := by
      intro r
      unfold Tbl.set
      split
      · simp [Tbl.get_erase, h]
      · simp [Tbl.get_put, h]
    simp [h, this]

theorem Dev.wide64_setWide (d : Dev) (o v k : Nat) : (d.setWide o v).wide64 k = if k = o then v else d.wide64 k := Tbl.get_set d.wide o k v 0

theorem Dev.queue_setQueue (d : Dev) (q : Nat) (x : Queue) (k : Nat) : (d.setQueue q x).queue k = if k = q then x else d.queue k :=
  Tbl.get_set d.hq.queues q k x Queue.empty

theorem Dev.queue_modQueue (d : Dev) (q : Nat) (f : Queue → Queue) (k : Nat) :
    (d.modQueue q f).queue k = if k = q then f (d.queue q) else d.queue k := Dev.queue_setQueue d q _ k

theorem Dev.ctx_setCtx (d : Dev) (c : Nat) (x : Ctx) (k : Nat) : (d.setCtx c x).ctx k = if k = c then x else d.ctx k :=
  Tbl.get_set d.hq.ctxs c k x Ctx.empty

theorem Dev.ctx_modCtx (d : Dev) (c : Nat) (f : Ctx → Ctx) (k : Nat) : (d.modCtx c f).ctx k = if k = c then f (d.ctx c) else d.ctx k :=
  Dev.ctx_setCtx d c _ k

theorem Dev.work_setWork (d : Dev) (t : Nat) (w : Work) (k : Nat) : (d.setWork t w).work k = if k = t then some w else d.work k :=
  Tbl.find_put d.hq.infl t w k

theorem Dev.work_freeWork (d : Dev) (t k : Nat) : (d.freeWork t).work k = if k = t then none else d.work k := Tbl.find_erase d.hq.infl t k

theorem Dev.core_setCore (d : Dev) (n : Nat) (c : Core) (k : Nat) : (d.setCore n c).core k = if k = n then c else d.core k :=
  Tbl.get_set d.gr.cores n k c Core.empty

theorem Dev.core_modCore (d : Dev) (n : Nat) (f : Core → Core) (k : Nat) : (d.modCore n f).core k = if k = n then f (d.core n) else d.core k :=
  Dev.core_setCore d n _ k

theorem Dev.cluster_setCluster (d : Dev) (n : Nat) (c : Cluster) (k : Nat) :
    (d.setCluster n c).cluster k = if k = n then c else d.cluster k := Tbl.get_set d.gr.clusters n k c Cluster.empty

@[simp] theorem Dev.cluster_setCore (d : Dev) (n : Nat) (c : Core) (k : Nat) : (d.setCore n c).cluster k = d.cluster k := rfl
@[simp] theorem Dev.core_setCluster (d : Dev) (n : Nat) (c : Cluster) (k : Nat) : (d.setCluster n c).core k = d.core k := rfl

theorem Dev.port_setPort (d : Dev) (p : Nat) (x : Port) (k : Nat) : (d.setPort p x).port k = if k = p then x else d.port k :=
  Tbl.get_set d.fab.ports p k x Port.empty

theorem Dev.port_modPort (d : Dev) (p : Nat) (f : Port → Port) (k : Nat) : (d.modPort p f).port k = if k = p then f (d.port p) else d.port k :=
  Dev.port_setPort d p _ k

theorem Dev.group_modGroup (d : Dev) (g : Nat) (f : Group → Group) (k : Nat) :
    (d.modGroup g f).group k = if k = g then f (d.group g) else d.group k := Tbl.get_set d.mm.groups g k _ Group.empty

theorem Dev.chan_modChan (d : Dev) (n : Nat) (f : Chan → Chan) (k : Nat) : (d.modChan n f).chan k = if k = n then f (d.chan n) else d.chan k :=
  Tbl.get_set d.mm.chans n k _ Chan.empty

theorem Dev.glean_modGlean (d : Dev) (e : Nat) (f : Glean → Glean) (k : Nat) :
    (d.modGlean e f).glean k = if k = e then f (d.glean e) else d.glean k := Tbl.get_set d.mm.glean e k _ Glean.empty

theorem Dev.half_modHalf (d : Dev) (h : Nat) (f : LlcHalf → LlcHalf) (k : Nat) :
    (d.modHalf h f).half k = if k = h then f (d.half h) else d.half k := Tbl.get_set d.mm.halves h k _ LlcHalf.empty

/-- A change of a work entry touches the in-flight table alone. -/
theorem Dev.modWork_frame (d : Dev) (t : Nat) (f : Work → Work) :
    d.modWork t f = { d with hq := { d.hq with infl := (d.modWork t f).hq.infl } } := by
  unfold Dev.modWork; split <;> rfl

theorem Dev.work_modWork (d : Dev) (t : Nat) (f : Work → Work) (k : Nat) :
    (d.modWork t f).work k = if k = t then (d.work t).map f else d.work k := by
  unfold Dev.modWork
  split
  · next h => by_cases e : k = t
              · subst e; simp [h]
              · simp [e]
  · next w h => simp [Dev.work_setWork, h]

/-- A change of a collective slot touches the slots alone. -/
theorem Dev.modSlot_frame (d : Dev) (n : Nat) (f : Slot → Slot) :
    d.modSlot n f = { d with col := { d.col with slots := (d.modSlot n f).col.slots } } := by
  unfold Dev.modSlot; split <;> rfl

end Sys2Proof.Machine
end

