-- ==== Sys2Proof/Laws/Ops.lean ====
section
/-!
SUPPORT. Sys2Proof/Laws/Ops.lean: what the shared operations can do, said once each: posting an event, a counter, a setting, the shape of a meaning, the step,
and the canonical form of the memories.
-/
namespace Sys2Proof.Machine

/-! ## The shape of a meaning -/

@[simp] theorem State.onDev_eq (s : State) (f : Dev → Dev) : s.onDev f = .next { s with dev := f s.dev } := rfl

@[simp] theorem State.onFab_eq (s : State) (f : Dev → Dev) : s.onFab f = .next { s with dev := Dev.settleFab 8 (f s.dev) } := rfl

@[simp] theorem State.onBoth_eq (s : State) (f : Sec → Dev → Sec × Dev) :
    s.onBoth f = .next { s with sec := (f s.sec s.dev).1, dev := (f s.sec s.dev).2 } := rfl

theorem step_cons (s : State) (c : Instr) (rest : List Instr) (h : s.pending = c :: rest) : step s = exec c { s with pending := rest } := by
  simp [step, h]

theorem step_nil (s : State) (h : s.pending = []) : step s = .next { s with dev := s.dev.tick s.sec.lic } := by simp [step, h]

theorem Dev.tick_still (d : Dev) (lic : Nat) (h : d.rs.refclk = false ∨ d.rs.stage = 0) : d.tick lic = d := by
  rcases h with h | h <;> simp [Dev.tick, h]

theorem Dev.atReg_reached (d : Dev) (v : Via) (off : Nat) (f : Dev → Dev) (h : d.reaches v off = true) : d.atReg v off f = f d := by
  simp [Dev.atReg, h]

theorem Dev.atReg_unreached (d : Dev) (v : Via) (off : Nat) (f : Dev → Dev) (h : d.reaches v off = false) : d.atReg v off f = d := by
  simp [Dev.atReg, h]

/-! ## Events -/

/-- The part e is d but for what posting an event can change: the device event ring, host memory, MSI-X messages, counters, the MCTP messages
and their In-Band Interrupts. -/
def Dev.EventOnly (d e : Dev) : Prop :=
  e = { d with hq := { d.hq with devRing := e.hq.devRing }, env := { d.env with host := e.env.host, msix := e.env.msix, ibis := e.env.ibis }, ctr := e.ctr, mc := e.mc }

theorem Dev.EventOnly.refl (d : Dev) : Dev.EventOnly d d := rfl

theorem Dev.EventOnly.trans {a b c : Dev} (h : Dev.EventOnly a b) (k : Dev.EventOnly b c) : Dev.EventOnly a c := by
  unfold Dev.EventOnly at *
  rw [h] at k
  rw [k]

theorem Dev.setDevRing_eventOnly (d : Dev) (r : Ring) : Dev.EventOnly d (d.setDevRing r) := rfl

theorem Dev.hostWrite_eventOnly (d : Dev) (a : Nat) (bs : List Byte) : Dev.EventOnly d (d.hostWrite a bs) := rfl

theorem Dev.sendMsix_eventOnly (d : Dev) (v : Nat) : Dev.EventOnly d (d.sendMsix v) := rfl

theorem Dev.rawBump_eventOnly (d : Dev) (cs : CtrSet) (i n : Nat) : Dev.EventOnly d (d.rawBump cs i n).1 := by
  unfold Dev.rawBump; split <;> rfl

theorem Dev.mctpPost_eventOnly (d : Dev) (code : Nat) (ctx : Option CtxId) (red : Bool) (p : Nat) : Dev.EventOnly d (d.mctpPost code ctx red p) := by
  unfold Dev.mctpPost
  split
  · dsimp only; split <;> rfl
  · rfl

theorem Dev.devWrite_eventOnly (d : Dev) (n : Nat) (rcd : Rec64) : Dev.EventOnly d (d.devWrite n rcd).1 := by
  unfold Dev.devWrite
  dsimp only
  repeat' split
  all_goals rfl

/-- Posting an event changes nothing but the ring, host memory and messages, counters and the MCTP messages. -/
theorem devPost_eventOnly (k code : Nat) (ctx : Option CtxId) (red : Bool) (p : Nat) (d : Dev) : Dev.EventOnly d (devPost k code ctx red p d) := by
  induction k generalizing code ctx red p d with
  | zero => rfl
  | succ k ih =>
    rw [devPost]
    dsimp only
    have h0 : Dev.EventOnly d ((d.mctpPost code ctx red p).rawBump fltSet (code / 4096) 1).1 :=
      (Dev.mctpPost_eventOnly d code ctx red p).trans (Dev.rawBump_eventOnly _ _ _ _)
    generalize ((d.mctpPost code ctx red p).rawBump fltSet (code / 4096) 1) = x at h0 ⊢
    obtain ⟨d1, rose⟩ := x
    dsimp only at h0 ⊢
    have h1 := h0.trans (Dev.setDevRing_eventOnly d1 { d1.hq.devRing with posted := d1.hq.devRing.posted + 1 })
    generalize (d1.setDevRing { d1.hq.devRing with posted := d1.hq.devRing.posted + 1 }) = d2 at h1 ⊢
    have fin : ∀ e : Dev, Dev.EventOnly d e →
        Dev.EventOnly d (if rose && e.satEn fltSet then devPost k 1 none false (satPayload fltSet (code / 4096)) e else e) := by
      intro e he
      split
      · exact he.trans (ih _ _ _ _ _)
      · exact he
    have park : ∀ (e : Dev) (n : Nat) (rcd : Rec64), Dev.EventOnly d e →
        Dev.EventOnly d (if (e.hq.devRing.wait n rcd).2 = true then e.setDevRing (e.hq.devRing.wait n rcd).1
          else if (e.rawBump fltSet 14 1).2 && (e.rawBump fltSet 14 1).1.satEn fltSet then
            devPost k 1 none false (satPayload fltSet 14) (e.rawBump fltSet 14 1).1
          else (e.rawBump fltSet 14 1).1) := by
      intro e n rcd he
      split
      · exact he.trans (Dev.setDevRing_eventOnly _ _)
      · split
        · exact (he.trans (Dev.rawBump_eventOnly _ _ _ _)).trans (ih _ _ _ _ _)
        · exact he.trans (Dev.rawBump_eventOnly _ _ _ _)
    have inner : Dev.EventOnly d
        (if d1.hq.devRing.stopped = true then d2
         else if (!d1.hq.devRing.isSet || !d2.on 94 || !d1.hq.devRing.waiting.isEmpty) = true then
            (if (d2.hq.devRing.wait d1.hq.devRing.posted (evRecord code ctx red d1.hq.devRing.posted d1.lt p)).2 = true then
              d2.setDevRing (d2.hq.devRing.wait d1.hq.devRing.posted (evRecord code ctx red d1.hq.devRing.posted d1.lt p)).1
             else if (d2.rawBump fltSet 14 1).2 && (d2.rawBump fltSet 14 1).1.satEn fltSet then
              devPost k 1 none false (satPayload fltSet 14) (d2.rawBump fltSet 14 1).1
             else (d2.rawBump fltSet 14 1).1)
         else
           match d2.devWrite d1.hq.devRing.posted (evRecord code ctx red d1.hq.devRing.posted d1.lt p) with
           | (d', .done) => d'
           | (d', .full) =>
              (if (d'.hq.devRing.wait d1.hq.devRing.posted (evRecord code ctx red d1.hq.devRing.posted d1.lt p)).2 = true then
                d'.setDevRing (d'.hq.devRing.wait d1.hq.devRing.posted (evRecord code ctx red d1.hq.devRing.posted d1.lt p)).1
               else if (d'.rawBump fltSet 14 1).2 && (d'.rawBump fltSet 14 1).1.satEn fltSet then
                devPost k 1 none false (satPayload fltSet 14) (d'.rawBump fltSet 14 1).1
               else (d'.rawBump fltSet 14 1).1)
           | (d', .fault st kind iova) =>
              devPost k 0x5002 none false (xltFaultPayload 0xFFFF st kind iova) (d'.setDevRing { d'.hq.devRing with stopped := true })) := by
      split
      · exact h1
      · split
        · exact park d2 _ _ h1
        · have hw := h1.trans (Dev.devWrite_eventOnly d2 d1.hq.devRing.posted (evRecord code ctx red d1.hq.devRing.posted d1.lt p))
          generalize d2.devWrite d1.hq.devRing.posted (evRecord code ctx red d1.hq.devRing.posted d1.lt p) = y at hw ⊢
          obtain ⟨d3, r⟩ := y
          cases r with
          | done => exact hw
          | full => exact park d3 _ _ hw
          | fault st kind iova => exact (hw.trans (Dev.setDevRing_eventOnly _ _)).trans (ih _ _ _ _ _)
    exact fin _ inner

theorem Dev.post_eventOnly (d : Dev) (code p : Nat) : Dev.EventOnly d (d.post code p) := devPost_eventOnly _ _ _ _ _ _

/-- Advancing a counter changes nothing but what its event can. -/
theorem Dev.bump_eventOnly (d : Dev) (cs : CtrSet) (i n : Nat) : Dev.EventOnly d (d.bump cs i n) := by
  have h := Dev.rawBump_eventOnly d cs i n
  unfold Dev.bump
  generalize d.rawBump cs i n = x at h ⊢
  obtain ⟨e, rose⟩ := x
  dsimp only at h ⊢
  split
  · exact h.trans (Dev.post_eventOnly _ _ _)
  · exact h

/-! ### What an event leaves, field by field -/

section
variable {d e : Dev} (h : Dev.EventOnly d e)
include h
theorem Dev.EventOnly.fresh_eq : e.fresh = d.fresh := by rw [h]
theorem Dev.EventOnly.lt_eq : e.lt = d.lt := by rw [h]
theorem Dev.EventOnly.regs_eq : e.regs = d.regs := by rw [h]
theorem Dev.EventOnly.reg_eq (o : Nat) : e.reg o = d.reg o := by rw [h]; rfl
theorem Dev.EventOnly.wide_eq : e.wide = d.wide := by rw [h]
theorem Dev.EventOnly.dom_eq : e.dom = d.dom := by rw [h]
theorem Dev.EventOnly.on_eq (n : Nat) : e.on n = d.on n := by rw [h]; rfl
theorem Dev.EventOnly.mm_eq : e.mm = d.mm := by rw [h]
theorem Dev.EventOnly.fl_eq : e.fl = d.fl := by rw [h]
theorem Dev.EventOnly.pw_eq : e.pw = d.pw := by rw [h]
theorem Dev.EventOnly.rs_eq : e.rs = d.rs := by rw [h]
theorem Dev.EventOnly.gr_eq : e.gr = d.gr := by rw [h]
theorem Dev.EventOnly.fab_eq : e.fab = d.fab := by rw [h]
theorem Dev.EventOnly.col_eq : e.col = d.col := by rw [h]
theorem Dev.EventOnly.upd_eq : e.upd = d.upd := by rw [h]
theorem Dev.EventOnly.queues_eq : e.hq.queues = d.hq.queues := by rw [h]
theorem Dev.EventOnly.ctxs_eq : e.hq.ctxs = d.hq.ctxs := by rw [h]
theorem Dev.EventOnly.infl_eq : e.hq.infl = d.hq.infl := by rw [h]
end

/-! ## Issue -/

@[simp] theorem Dev.resolve_done (d e : Dev) (core i : Nat) :
    d.resolve core i (.done e) = e.modCore core (fun k => k.modStage i (fun s => { s with pc := s.pc + 8, stall := none })) := rfl
@[simp] theorem Dev.resolve_jump (d e : Dev) (core i : Nat) (pc : Word) :
    d.resolve core i (.jump e pc) = e.modCore core (fun k => k.modStage i (fun s => { s with pc := pc, stall := none })) := rfl
@[simp] theorem Dev.resolve_trap (d e : Dev) (core i c k : Nat) (x : Option (XFault × Nat)) :
    d.resolve core i (.trap e c k x) = e.trap core i c k x := rfl
@[simp] theorem Dev.resolve_left (d e : Dev) (core i : Nat) : d.resolve core i (.left e) = e := rfl

/-- Where no stop is wanted, no sequencer stops. -/
theorem Dev.haltIdle_still (d : Dev) (core seq : Nat) (h : d.stopWanted core = false) : d.haltIdle core seq = d := by
  simp [Dev.haltIdle, h]

/-- An instruction fetched inside its stream, where no stop is wanted at a tile boundary and no request is one too many, has its meaning. -/
theorem Dev.issue_runs (d e : Dev) (a : At) (w : IWord) (f : Dev → CtxId → Nat → Res) (i : Nat) (c : CtxId) (h1 : d.issuer a = some i)
    (h2 : (d.core a.core).ctx = some c) (h3 : d.ifetch a.core i c = .ok e ()) (h4 : ((e.core a.core).stage i).pc.toNat < ((e.core a.core).stage i).len)
    (h5 : iTb w = false ∨ e.stopWanted a.core = false) (h6 : iClass w ≠ 4 ∨ e.llcFull a.core i = false) :
    d.issue a w true f = (e.resolve a.core i (f e c i)).haltIdle a.core a.seq := by
  have h7 : (iTb w && e.stopWanted a.core) = false := by rcases h5 with h | h <;> simp [h]
  have h8 : (decide (iClass w = 4) && e.llcFull a.core i) = false := by rcases h6 with h | h <;> simp [h]
  simp [Dev.issue, h1, h2, h3, Nat.not_le.mpr h4, h7, h8]

/-- A word that is not the instruction the command is for does nothing, nor does a sequencer with no stage to issue. -/
theorem Dev.issue_idle (d : Dev) (a : At) (w : IWord) (is : Bool) (f : Dev → CtxId → Nat → Res)
    (h : is = false ∨ d.issuer a = none ∨ (d.core a.core).ctx = none) : d.issue a w is f = d := by
  unfold Dev.issue
  rcases h with h | h | h
  · simp [h]
  · simp [h]
  · split
    · rfl
    · simp [h]

/-! ## The fabric's hand-over to the engines -/

theorem Dev.settleFab_clear (n : Nat) (d : Dev) (h : d.fab.returned = [] ∧ d.fab.ended = [] ∧ d.fab.lost = [] ∧ d.fab.handed = false) :
    Dev.settleFab n d = d := by
  cases n with
  | zero => rfl
  | succ n => simp [Dev.settleFab, h.1, h.2.1, h.2.2.1, h.2.2.2]

/-! ## The end of work -/

/-- Finished work changes its own entry of the in-flight table and nothing else. -/
theorem Dev.finishWork_frame (d : Dev) (t : Tag) (st : Nat) (r : Word) :
    d.finishWork t st r = { d with hq := { d.hq with infl := (d.finishWork t st r).hq.infl } } := Dev.modWork_frame d t _

theorem Dev.work_finishWork_ne (d : Dev) (t : Tag) (st : Nat) (r : Word) (k : Nat) (h : k ≠ t) : (d.finishWork t st r).work k = d.work k := by
  unfold Dev.finishWork
  rw [Dev.work_modWork]
  simp [h]

/-! ## The power block -/

@[simp] theorem Dev.post_pw (d : Dev) (code p : Nat) : (d.post code p).pw = d.pw := (Dev.post_eventOnly d code p).pw_eq
@[simp] theorem Dev.bump_pw (d : Dev) (cs : CtrSet) (i n : Nat) : (d.bump cs i n).pw = d.pw := (Dev.bump_eventOnly d cs i n).pw_eq

theorem Dev.pwrDone_pw (d : Dev) (k r i : Nat) : (d.pwrDone k r i).pw = { d.pw with result := r, failed := i } := by
  simp [Dev.pwrDone, Dev.tellDone, Dev.pwrResult]

/-- A setting ends in one of three ways, and otherwise does nothing where the part does not serve it. -/
theorem Dev.setting_cases (d : Dev) (v : Via) (off val bad beyond : Nat) :
    (d.serves v off = false ∧ d.setting v off val bad beyond = d)
    ∨ (d.serves v off = true ∧ bad ≠ 0 ∧ d.setting v off val bad beyond = d.pwrResult 2 0)
    ∨ (d.serves v off = true ∧ bad = 0 ∧ beyond ≠ 0 ∧ d.setting v off val bad beyond = d.pwrResult 3 0)
    ∨ (d.serves v off = true ∧ bad = 0 ∧ beyond = 0
        ∧ d.setting v off val bad beyond = ((d.setReg off (BitVec.ofNat 32 val)).pwrResult 0 0).blameAll (fun _ => true) 2 3) := by
  unfold Dev.setting
  by_cases hs : d.serves v off = true
  · by_cases hb : bad = 0
    · by_cases hy : beyond = 0 <;> simp [hs, hb, hy]
    · simp [hs, hb]
  · simp [hs]

/-! ## The memories' canonical form -/

theorem Dev.hostWrite_wf (d : Dev) (a : Nat) (bs : List Byte) (h : Mem.wf d.env.host = true) : Mem.wf (d.hostWrite a bs).env.host = true :=
  Mem.wf_write h a bs

/-- Every memory is in canonical form at reset. -/
theorem reset_storesOk : State.reset.dev.storesOk = true := by decide

end Sys2Proof.Machine
end

