-- ==== Sys2Proof/Laws/Residue.lean ====
section
/-!
SUPPORT. Sys2Proof/Laws/Residue.lean: the residues of the tile checksum (R143, R144): the residue of a product is that of the residues'
product, so an operation that nothing has upset agrees in every row and column.
-/
namespace Sys2Proof.Machine

theorem tot_succ (n : Nat) (f : Nat → Nat) : tot (n + 1) f = tot n f + f n := by simp [tot, List.range_succ]

theorem tot_cast (n : Nat) (f : Nat → Nat) : ((tot n f : Nat) : ZMod 255) = ∑ i ∈ Finset.range n, ((f i : Nat) : ZMod 255) := by
  induction n with
  | zero => simp [tot]
  | succ n ih => rw [tot_succ, Finset.sum_range_succ, ← ih]; push_cast; rfl

theorem two_pow_mod (n : Nat) : (2 : ZMod 255) ^ n = 2 ^ (n % 8) := by
  have h : (2 : ZMod 255) ^ 8 = 1 := by decide
  conv_lhs => rw [← Nat.div_add_mod n 8, pow_add, pow_mul, h, one_pow, one_mul]

theorem rho_fin (neg : Bool) (m : Nat) (e : Int) :
    ((rho (.fin neg m e) : Nat) : ZMod 255) = (if neg then -1 else 1) * m * 2 ^ (e % 8).toNat := by
  have hr : m * 2 ^ (e % 8).toNat % 255 < 255 := Nat.mod_lt _ (by decide)
  have hc : ((m * 2 ^ (e % 8).toNat % 255 : Nat) : ZMod 255) = m * 2 ^ (e % 8).toNat := by
    rw [ZMod.natCast_mod]; push_cast; rfl
  cases neg with
  | false => simp only [rho, Bool.false_eq_true, if_false, one_mul, hc]
  | true =>
    simp only [rho, if_true, ZMod.natCast_mod, Nat.cast_sub hr.le, hc]
    have h : ((255 : Nat) : ZMod 255) = 0 := by decide
    rw [h]; ring

/-- The residue of a product (R143). -/
theorem rho_mul (a b : Val) : ((rho (Val.mul a b) : Nat) : ZMod 255) = (rho a : ZMod 255) * (rho b : ZMod 255) := by
  have inf : ∀ s, rho (.inf s) = 0 := fun _ => rfl
  have nan : rho .nan = 0 := rfl
  cases a with
  | nan => simp [Val.mul, nan]
  | inf s =>
    cases b with
    | nan => simp [Val.mul, nan]
    | inf t => simp [Val.mul, inf]
    | fin t n f => simp only [Val.mul]; split <;> simp [inf, nan]
  | fin s m e =>
    cases b with
    | nan => simp [Val.mul, nan]
    | inf t => simp only [Val.mul]; split <;> simp [inf, nan]
    | fin t n f =>
      have hp : (2 : ZMod 255) ^ ((e + f) % 8).toNat = 2 ^ (e % 8).toNat * 2 ^ (f % 8).toNat := by
        rw [← pow_add, two_pow_mod ((e % 8).toNat + (f % 8).toNat)]
        congr 1; omega
      simp only [Val.mul, rho_fin, hp]
      cases s <;> cases t <;> push_cast <;> simp <;> ring

theorem Feeds.overK_cast (f : Feeds) (g : Nat → Nat → Nat) :
    ((f.overK g : Nat) : ZMod 255) = ∑ s ∈ Finset.range f.steps, ∑ e ∈ Finset.range f.kg, ((g s e : Nat) : ZMod 255) := by
  simp [overK, tot_cast]

/-- A column's residues sum to its checksum-row cell (R144). -/
theorem Feeds.col_agrees (f : Feeds) (j : Nat) : (tot 16 (fun i => f.rhoC i j)) % 255 = f.rowCell j % 255 := by
  apply (ZMod.natCast_eq_natCast_iff' _ _ 255).1
  simp only [tot_cast, rhoC, rowCell, overK_cast, rho_mul, alpha, Nat.cast_mul, ZMod.natCast_mod, Finset.sum_mul]
  rw [Finset.sum_comm]
  exact Finset.sum_congr rfl (fun _ _ => Finset.sum_comm)

/-- A row's residues sum to its checksum-column cell (R144). -/
theorem Feeds.row_agrees (f : Feeds) (i : Nat) : (tot 16 (fun j => f.rhoC i j)) % 255 = f.colCell i % 255 := by
  apply (ZMod.natCast_eq_natCast_iff' _ _ 255).1
  simp only [tot_cast, rhoC, colCell, overK_cast, rho_mul, beta, Nat.cast_mul, ZMod.natCast_mod, Finset.mul_sum]
  rw [Finset.sum_comm]
  exact Finset.sum_congr rfl (fun _ _ => Finset.sum_comm)

/-- An operation that nothing has upset shows no difference: the verdict of an empty list is the one its sums give (R144). -/
theorem Feeds.verdict_agrees (f : Feeds) : f.verdict [] = ⟨f.badCols [], f.badRows [], treeFail []⟩ := by
  have hz : ∀ n, tot n (fun _ => 0) = 0 := fun n => by induction n with | zero => rfl | succ n ih => rw [tot_succ, ih]
  have hc : f.badCols [] = 0 := by simp [badCols, hits, f.col_agrees, hz]
  have hr : f.badRows [] = 0 := by simp [badRows, hits, f.row_agrees, hz]
  simp [verdict, hc, hr, treeFail]

end Sys2Proof.Machine
end

