-- ==== Sys2Proof/Tests/Slice0.lean ====
section
/-!
SUPPORT. Sys2Proof/Tests/Slice0.lean: the model's own tests: which commands can be sent, a witness that meets the hypotheses of each statement,
and small steps whose results the manual or hand calculation gives.
-/
open Sys2Proof Sys2Proof.Machine

namespace Sys2Proof.Tests

set_option Elab.async false

/-! ## States to test with -/

/-- A part that has booted: every domain on, both partitions running, every core GOOD. -/
def live : State :=
  { State.reset with dev := { State.reset.dev with
      dom := 2 ^ 97 - 1
      rs := { State.reset.dev.rs with refclk := true, stage := 6, perst := true, recordOk := true }
      hq := { State.reset.dev.hq with ctrlRun := true, mgmtRun := true, load := .running } } }

/-- The part of a state changed. -/
def with_ (s : State) (f : Dev → Dev) : State := { s with dev := f s.dev }

/-- The part as the tests find it: a queue 5 of context 3, class 1, ENABLED with a ring of 64 entries. -/
def queued : State :=
  with_ live (fun d => (d.setCtx 3 { Ctx.empty with state := .active }).setQueue 5 { Queue.empty with state := .enabled, ctx := 3, cls := 1 })

/-! ## Which commands can be sent (WellFormed) -/

/-- A packet of a TYPE and OP with a payload. -/
def pkt (kind op : Nat) (data : List Rec64) : Packet := ⟨BitVec.ofNat 256 (kind + 2 ^ 8 * data.length + 2 ^ 176 * op), data⟩
/-- A sequencer. -/
def at0 : At := { core := 0, seq := 0 }

theorem test_wellFormed_refuses_registers :
    [Instr.doorbell 0 0 24 0, .bar0InvalidAccess true 0 32 0, .registerWrite 2 0, .registerWrite 0x1000000 0, .counterClear 1 0, .feWrite 6 0,
      .lowWordRead 3, .updStookCfg 0x120020 0, .updStookCfg 0x120034 0, .domainPowerOn .pcie 1, .domainPowerOff .pcie 0x101,
      .domainDrainTimeout 96].all (fun i => !i.wellFormed) = true := by decide

theorem test_wellFormed_refuses_scalar_words :
    [Instr.scalarAdd at0 (1 <<< 53), .scalarSub at0 0, .scalarAnd at0 0, .scalarOr at0 0, .scalarXor at0 0, .shl at0 0, .shr at0 0, .scalarMul at0 0,
      .addi at0 0, .movi at0 0, .ldArg at0 0, .coreId at0 0, .branchAlways at0 0, .branchIfZero at0 (1 <<< 60), .branchIfNonzero at0 0,
      .branchIfNegative at0 0, .dec at0 0, .wait at0 0, .waitInv at0 0, .signal at0 0, .tokenRead at0 0, .fenceWr at0 0, .fenceInv at0 0,
      .fenceFull at0 0, .trap at0 0, .endStream at0 0, .illegalInstruction at0 0].all (fun i => !i.wellFormed) = true := by decide

theorem test_wellFormed_refuses_array_words :
    [Instr.accessLoad at0 0 [], .store at0 0, .loadS at0 0, .storeS at0 0, .loadNa at0 0, .mma at0 0, .mmaInit at0 (5 <<< 60), .zero at0 0,
      .loadAcc at0 0, .begin at0 0, .block at0 0, .finalAcc at0 0, .partialAcc at0 0, .merge at0 0, .enqueue at0 0, .rangePin at0 0, .rangeUnpin at0 0,
      .rangeFallow at0 0, .rangeResow at0 0, .rangeWriteback at0 0, .rangeInvalidate at0 0, .hpop at0 0, .stage at0 0, .loadOld at0 0,
      .slotAddr at0 0].all (fun i => !i.wellFormed) = true := by decide

theorem test_wellFormed_refuses_vector_words :
    [Instr.harrowAdd at0 0, .harrowSub at0 (6 <<< 60), .harrowMul at0 0, .fma at0 0, .max at0 0, .min at0 0, .abs at0 0, .neg at0 0, .mov at0 0,
      .cmplt at0 0, .cmple at0 0, .cmpeq at0 0, .exp at0 0, .exp2 at0 0, .ln at0 0, .rcp at0 0, .rsqrt at0 0, .scanAdd at0 0, .scanMax at0 0,
      .segscanAdd at0 0, .segscanMax at0 0, .redAdd at0 0, .redMax at0 0, .redMin at0 0, .segredAdd at0 0, .segredMax at0 0, .mand at0 0, .mor at0 0,
      .mxor at0 0, .mnot at0 0, .mset at0 0, .mperiod at0 0, .acc at0 0, .tld at0 0, .tst at0 0, .ld at0 0, .st at0 0, .tfill at0 0, .tspill at0 0,
      .cvt at0 0, .cvtin at0 0].all (fun i => !i.wellFormed) = true := by decide

theorem test_wellFormed_refuses_packets :
    [Instr.ack 0 (pkt 1 0 []), .nak 0 (pkt 1 0 []), .quiesce 0 (pkt 1 0 []), .rejoin 0 (pkt 1 0 []), .laneRetire 0 (pkt 1 0 []),
      .packetForward 0 (pkt 1 0 []), .packetForward 0 (pkt 8 0 []), .readResp 0 (pkt 5 0 []), .resp 0 (pkt 4 0 []), .reduce 0 (pkt 6 1 []),
      .copy 0 (pkt 6 0 []), .abort 0 (pkt 6 0 []), .arrival 0 (pkt 6 0 []), .winUp 0 (pkt 6 0x81 []), .winDown 0 (pkt 6 0x80 []),
      .jrnUp 0 (pkt 6 0x83 []), .jrnDown 0 (pkt 6 0x82 []), .shardHdr 0 (pkt 3 0x11 []), .shardData 0 (pkt 3 0x10 []), .shardVerify 0 (pkt 3 0x10 []),
      .stepRec 0 (pkt 3 0x10 []), .journalHdr 0 (pkt 3 0x10 []), .stookRead 0 (pkt 3 0x10 []), .stookWrite 0 (pkt 3 0 []),
      .reduce 0 ⟨6 + 2 ^ 8, []⟩, .flitReceived 0 ⟨[], []⟩].all (fun i => !i.wellFormed) = true := by decide

theorem test_wellFormed_refuses_the_rest :
    [Instr.tileChecksumCompare 0 0 [(1280, 0)], .groupTrainingDone 0 [], .groupTrainingDone 0 (List.replicate 12 4), .atsInvalidateRequest 0 0 0,
      .atsInvalidateRequest 0 (2 ^ 52) 1, .priResponse 0 (2 ^ 52) 0, .priTimeout 0 (2 ^ 52), .atsCompletion 0 0 (2 ^ 52) true true, .controlPeriod [] 0,
      .measurementWindow [] 0, .measurementWindow [[]] 0, .voltageTrim [], .sensorRound [] [], .coreReset .pcie 1296, .clusterReset .pcie 72,
      .quadrantReset .pcie 4, .functionLevelReset 0, .selfTestEnd [(1296, 1)] [], .writeRegs .pcie [], .installLicence .pcie [],
      .removeLicence .pcie [], .enrollKey .pcie [], .revokeKey .pcie [], .clearRetirement .pcie [], .claim .mctp []].all
      (fun i => !i.wellFormed) = true := by decide

theorem test_wellFormed_refuses_strikes :
    [Instr.block { at0 with runs := [⟨0, 0, 0, 1280, 0⟩] } ((7 <<< 60) + (1 <<< 56)), .block { at0 with hits := [⟨0, 0, 0⟩] } ((7 <<< 60) + (1 <<< 56)),
      .store { at0 with runs := [⟨0, 0, 0, 0, 0⟩] } ((4 <<< 60) + (1 <<< 56)), .accessLoad { at0 with hits := [⟨0, 0, 0⟩] } (4 <<< 60) [],
      .mma { at0 with hits := [⟨0, 0, 0⟩] } (5 <<< 60)].all (fun i => !i.wellFormed) = true
      ∧ (Instr.store { at0 with hits := [⟨0, 0, 0⟩] } ((4 <<< 60) + (1 <<< 56))).wellFormed = true
      ∧ (Instr.block { at0 with runs := [⟨0, 0, 0, 1279, 0⟩] } ((7 <<< 60) + (1 <<< 56))).wellFormed = true := by decide

theorem test_wellFormed_accepts :
    [Instr.doorbell 0 0 32 0, .scalarSub at0 (1 <<< 53), .mma at0 (5 <<< 60), .harrowSub at0 ((6 <<< 60) + (1 <<< 53)), .resp 0 (pkt 5 0 []),
      .ack 0 ⟨1 + 2 ^ 48, []⟩, .shardHdr 0 (pkt 3 0x10 []), .domainPowerOn .mctp 0x101, .coreReset .pcie 1295, .illegalInstruction at0 (0xD <<< 60),
      .writeRegs .pcie (List.replicate 4 0 ++ [1])].all Instr.wellFormed = true := by decide

/-- The table gives its rows no bits, so no word spells a command. -/
theorem test_no_word_spells_a_command : decodeTableWord 64 5 = none ∧ State.reset.withFetchWord 64 5 = State.reset := ⟨rfl, rfl⟩

/-! ## Witnesses: the machine, resets, boot (hypotheses of the statements met by concrete states) -/

theorem witness_IdleCountsLt : live.pending = [] ∧ live.dev.rs.refclk = true ∧ live.dev.rs.stage ≠ 0 ∧ State.reset.pending = []
    ∧ State.reset.dev.rs.stage = 0 := by decide

theorem witness_CountersSaturate : hqsSet.ctrs[3]? = some (0x1002C, 32) ∧ (2 ^ 32 - 1 ≤ (live.dev.ctrAt 0x1002C).val + (2 ^ 32 - 1))
    ∧ (live.dev.ctrAt 0x1002C).sat = false ∧ live.dev.satEn hqsSet = true ∧ ¬ (2 ^ 32 - 1 ≤ (live.dev.ctrAt 0x1002C).val + (2 ^ 32 - 2)) := by decide

theorem witness_IdentityFrame : touchesSec .dispatch = false ∧ ∃ t, exec .dispatch live = .next t := ⟨rfl, _, rfl⟩

theorem witness_SecLegalKept : live.sec.legal = true ∧ ∃ t, step live = .next t := ⟨by decide, _, rfl⟩

theorem witness_ResetRefused : live.dev.serves .pcie 0x160004 = true ∧ live.dev.serves .mctp 0x160004 = true ∧ live.dev.resetting = false
    ∧ (with_ live (fun d => { d with rs := { d.rs with wait := some (1, 0) } })).dev.resetting = true
    ∧ (with_ live (fun d => { d with rs := { d.rs with wait := some (1, 0) } })).dev.serves .pcie 0x160004 = true := by decide

theorem witness_UnitResetWithoutWork : live.dev.serves .pcie 0x160004 = true ∧ live.dev.resetting = false ∧ live.dev.pw.busy = false
    ∧ live.dev.hq.infl = [] ∧ live.dev.col.slots = [] ∧ live.dev.upd.formed = [] ∧ (∀ k, (live.dev.core k).hopper = [])
    ∧ (∀ c, (live.dev.cluster c).drill = []) ∧ FabClear live.dev
    ∧ (9 : Nat) ∈ resetCores 1 9 ∧ live.dev.coreGood 9 = true :=
  ⟨by decide, by decide, by decide, rfl, rfl, rfl, fun _ => rfl, fun _ => rfl, ⟨rfl, rfl, rfl, rfl⟩, by decide, by decide⟩

theorem witness_DeviceResetAccepted : live.dev.resetting = false ∧ live.dev.col.slots = [] ∧ live.dev.serves .mctp 0x160004 = true
    ∧ live.dev.pcieUp = true ∧ FabClear live.dev :=
  ⟨by decide, by decide, by decide, by decide, rfl, rfl, rfl, rfl⟩

/-- A device reset in its drain window, and one past it. -/
def draining (drained : Bool) : State := with_ live (fun d => { d with lt := 100000, rs := { d.rs with run := some ⟨1, drained, 0⟩ } })

theorem witness_DrainWindowEnd : (draining false).dev.rs.run = some ⟨1, false, 0⟩
    ∧ 0 + 100 * bits ((draining false).dev.reg 0x160024).toNat 9 0 ≤ (draining false).dev.lt := by decide

theorem witness_ControlPartitionRestarted : (draining true).dev.rs.run = some ⟨1, true, 0⟩ := rfl

theorem witness_ColdReset : live.dev.serves .mctp 0x160004 = true ∧ live.dev.resetting = false := by decide

/-- A part held in cold reset with PERST_N released. -/
def held : State := with_ State.reset (fun d => { d with rs := { d.rs with perst := true } })

theorem witness_Boot : held.dev.rs.stage = 0 ∧ held.dev.rs.perst = true ∧ held.sec.wroteGen = held.dev.fl.cur.gen
    ∧ ({ held.sec with wroteGen := 3 } : Sec).wroteGen ≠ held.dev.fl.cur.gen := by decide

theorem witness_FunctionLevelReset : (1 : Fin 16) ≠ 0 ∧ live.dev.pcieUp = true ∧ live.dev.rs.run = none ∧ live.dev.col.slots = []
    ∧ live.dev.fab.handed = false ∧ (live.dev.cluster 0).drill = []
    ∧ ((live.dev.setCtx 3 { Ctx.empty with state := .active, vf := 1 }).ctx 3).state ≠ .free
    ∧ ((live.dev.setCtx 3 { Ctx.empty with state := .active, vf := 1 }).ctx 3).vf = 1 := by decide

theorem witness_SelfTest : live.dev.serves .pcie 0x16002C = true ∧ (1 : Word).getLsbD 0 = true ∧ (List.range 96).all live.dev.on = true
    ∧ live.dev.fl.valid = false ∧ live.dev.resetting = false ∧ live.dev.rs.test ≠ 1
    ∧ (with_ live (fun d => { d with dom := 2 ^ 94 })).dev.on 0 = false
    ∧ (with_ live (fun d => { d with dom := 2 ^ 94 })).dev.serves .pcie 0x16002C = true
    ∧ (with_ live (fun d => { d with rs := { d.rs with test := 1 } })).dev.coreGood 1295 = true := by decide

/-! ## Witnesses: the control plane -/

/-- The queue's ring can take 64 descriptors: 1 and 64 beyond DONE_PREFIX are taken, 65 overruns, 0 is not newer. -/
theorem witness_Doorbell : queued.dev.serves .pcie 0x10000 = true ∧ (queued.dev.ctx (queued.dev.queue 5).ctx).state ≠ .free
    ∧ (queued.dev.ctx (queued.dev.queue 5).ctx).vf = 0 ∧ (queued.dev.queue 5).state = .enabled ∧ newer 64 (queued.dev.queue 5).prod = true
    ∧ (64 - (queued.dev.queue 5).done).toNat ≤ 2 ^ (queued.dev.queue 5).log2 ∧ 2 ^ (queued.dev.queue 5).log2 < (65 - (queued.dev.queue 5).done).toNat
    ∧ newer 65 (queued.dev.queue 5).prod = true ∧ (queued.dev.queue 5).held = [] ∧ newer 0 (queued.dev.queue 5).prod = false
    ∧ Quiet queued.dev 0x10028 32 := by
  refine ⟨?_, ?_, ?_, ?_, ?_, ?_, ?_, ?_, ?_, ?_, Or.inl ?_⟩ <;> decide

theorem witness_RegisterInterface : live.dev.serves .pcie 0x10 = true ∧ live.dev.reaches .pcie 0x10038 = true ∧ live.dev.reaches .pcie 0x80018 = true
    ∧ FabClear live.dev := ⟨by decide, by decide, by decide, rfl, rfl, rfl, rfl⟩

/-- The example of R69: class 0 with BOUND 200 and BUDGET 100 and class 1 with 10,000 and 4,000 leave UTIL 922; class 2 with 1,000 and 200 is refused. -/
def classes : State := with_ live (fun d =>
  (((d.setReg 0x10100 200).setReg 0x10104 100).setReg 0x10108 10000).setReg 0x1010C 4000)

theorem witness_ClassAdmission : classes.dev.fwRuns = true ∧ classes.dev.classBound 0 = 200 ∧ classes.dev.classBudget 1 = 4000
    ∧ classes.dev.blockMax = 50 := by decide

theorem witness_BlockMax : classes.dev.reaches .pcie 0x10010 = true ∧ classes.dev.hq.infl = []
    ∧ (∀ c, c < 16 → classes.dev.classBound c ≠ 0 → classes.dev.classBudget c + 100 ≤ classes.dev.classBound c)
    ∧ ¬ (classes.dev.classBudget 0 + 101 ≤ classes.dev.classBound 0) := by decide

theorem witness_Mailbox : live.dev.serves .pcie 0x1101C = true ∧ live.dev.on 94 = true ∧ live.dev.hq.mail.length < 64
    ∧ Quiet live.dev 0x20008 32 ∧ (with_ live (fun d => { d with hq := { d.hq with mail := [⟨0x1101C, 6, 5, 3⟩] } })).dev.fwRuns = true := by
  refine ⟨?_, ?_, ?_, Or.inl ?_, ?_⟩ <;> decide

theorem witness_QueueCommands : classes.dev.fwRuns = true ∧ (classes.dev.queue 5).state = .disabled
    ∧ classes.dev.classBound ((classes.dev.queue 5).reg 0x101C / 2 ^ 13 % 16) ≠ 0 ∧ queued.dev.fwRuns = true ∧ (queued.dev.queue 5).state = .enabled
    ∧ (queued.dev.queue 5).held = [] ∧ (queued.dev.queue 5).nextRead = (queued.dev.queue 5).prod
    ∧ ((live.dev.setQueue 5 { Queue.empty with state := .stopped }).queue 5).state = .stopped := by decide

theorem witness_ContextCommands : live.dev.fwRuns = true ∧ (live.dev.ctx 3).state.live = false ∧ live.dev.mayActivate 3 = false
    ∧ (∀ e ∈ live.dev.hq.queues, e.2.ctx = 3 → e.2.state ≠ .enabled)
    ∧ (queued.dev.ctx 3).state.live = true ∧ (queued.dev.ctx 3).state ≠ .stopping ∧ (queued.dev.ctx 3).park = none
    ∧ (∀ e ∈ queued.dev.gr.clusters, e.2.drill = []) := by
  refine ⟨?_, ?_, ?_, ?_, ?_, ?_, ?_, ?_⟩ <;> decide

theorem witness_Activate : (with_ live (fun d => { d.setReg (offXltCfg 3) 1 with fl := { d.fl with valid := true } })).dev.mayActivate 3 = true
    ∧ ((live.dev.setCtx 3 { Ctx.empty with state := .active }).ctx 3).state.live = true
    ∧ (∀ e ∈ (live.dev.setCtx 3 { Ctx.empty with state := .active }).hq.queues, e.2.ctx ≠ 3)
    ∧ ((live.dev.setCtx 3 { Ctx.empty with state := .stopped }).ctx 3).state = .stopped := by
  refine ⟨?_, ?_, ?_, ?_⟩ <;> decide


/-! ## Witnesses: work in flight -/

/-- A descriptor with an opcode and fields by byte. -/
def desc (op : Nat) (fs : List (Nat × Nat)) : Rec64 := BitVec.ofNat 512 (op + packB fs)

/-- Accepted work of queue 5 in context 3. -/
def job (d : Rec64) : Work :=
  { q := 5, idx := 0, desc := d, ctx := 3, cls := 1, acceptedLt := 0, boundLt := some 0, waitsOn := [], bound := 200, spent := 0, since := none
    phase := .accepted, wasHeld := false, preempted := false, broken := false, noDeadline := false, stopping := false, cause := 0, detail := 0
    causeLt := 0, unreachable := false, marked := false, poison := [], lic := 0, exits := 0, entries := [], args := [], progress := 0 }

/-- The first GiB of context 3 lies in host memory, the second in the granary, the fourth nowhere. -/
def mapped : State := with_ queued (fun d => { d.setReg (offXltCfg 3) 1 with mm := { d.mm with
  walks := [⟨3, 2, 0, 15⟩, ⟨3, 2, 1, 14⟩], groups := [(0, ⟨.active, List.range 8, true, false, false, false, 0⟩)] } })

/-- With work under tag 2. -/
def working (w : Work) : State := with_ mapped (fun d => d.setWork 2 w)

/-- Its context parked by tag 7, with token 5. -/
def parkedBy (w : Work) : State := with_ (working w) (fun d => (d.setWork 7 (job (desc 0x200 []))).setCtx 3 { d.ctx 3 with
  state := .parked, token := 5, park := some ⟨5, some 7, 7, 0, none, none, false⟩ })

/-- What a table gives is its default or one of its entries. -/
theorem get_cases {α : Type} (t : Tbl α) (k : Nat) (d : α) : Tbl.get t k d = d ∨ ∃ e ∈ t, Tbl.get t k d = e.2 := by
  induction t with
  | nil => exact .inl rfl
  | cons e t ih =>
    by_cases h : e.1 = k
    · exact .inr ⟨e, by simp, by simp [Tbl.get, Tbl.find, h]⟩
    · obtain ih | ⟨f, hf, ih⟩ := ih
      · exact .inl (by simpa [Tbl.get, Tbl.find, h] using ih)
      · exact .inr ⟨f, by simp [hf], by simpa [Tbl.get, Tbl.find, h] using ih⟩

/-- No descriptor is held for a reason where no queue holds any. -/
theorem noneHeldFor {d : Dev} (h : ∀ e ∈ d.hq.queues, e.2.held = []) (rs : List Nat) (j : Nat) : (d.queue j).heldFor rs = false := by
  obtain g | ⟨e, he, g⟩ := get_cases d.hq.queues j Queue.empty
  · simp only [Dev.queue, g]; rfl
  · simp [Dev.queue, g, Queue.heldFor, h e he]

theorem witness_GroupZeroCommands : dOp (job (desc 0 [])).desc = 0 ∧ NoneHeld (working (job (desc 1 []))).dev
    ∧ (working (job (desc 1 []))).dev.work 2 = some (job (desc 1 [])) ∧ (working (job (desc 1 []))).dev.fwRuns = true
    ∧ (working (job (desc 1 []))).dev.parkOf (job (desc 1 [])) = none ∧ (working (job (desc 2 []))).dev.parkOf (job (desc 2 [])) = none
    ∧ ((parkedBy (job (desc 1 [(16, 5)]))).dev.parkOf (job (desc 1 [(16, 5)]))).isSome = true
    ∧ ((parkedBy (job (desc 2 [(16, 5)]))).dev.parkOf (job (desc 2 [(16, 5)]))).map (·.tag) = some (some 7)
    ∧ (parkedBy (job (desc 2 [(16, 5)]))).dev.work 7 = some (job (desc 0x200 [])) ∧ dOp (desc 0x200 []) ≠ 0x100
    ∧ Tbl.Sorted (parkedBy (job (desc 2 [(16, 5)]))).dev.hq.infl := by
  refine ⟨?_, ?_, ?_, ?_, ?_, ?_, ?_, ?_, ?_, ?_, ?_⟩ <;> first | decide +kernel | rfl | exact ⟨rfl, noneHeldFor (by decide) _⟩ | (unfold Tbl.Sorted; decide)

/-- A NOP stands at the start of queue 5's ring. -/
def rung (log : Nat) : State := with_ mapped (fun d => d.modQueue 5 (fun x => { x with prod := 1, sq := 4096, log2 := log }))

theorem witness_DescriptorArrives : ((rung 6).dev.queue 5).state = .enabled ∧ ((rung 6).dev.queue 5).held = []
    ∧ ((rung 6).dev.queue 5).nextRead ≠ ((rung 6).dev.queue 5).prod ∧ ((rung 6).dev.queue 5).sqBad = false ∧ (rung 6).dev.fwRuns = true
    ∧ ((match (rung 6).dev.fetchDesc 5 with
        | .ok d r => (d.atOnce 0 5 r, d.holdReason 5 ⟨0, r, false, 0⟩, d.atOnce 0 5 (desc 0x999 []), d.holdReason 5 ⟨0, desc 0x200 [(8, 9)], false, 0⟩)
        | _ => (none, 99, none, 0)) = (none, 0, some 3, 9)) := by
  refine ⟨?_, ?_, ?_, ?_, ?_, ?_⟩ <;> decide +kernel

/-- The NOP is held for its class's budget. -/
def budgeted : State := with_ mapped (fun d => d.modQueue 5 (fun x => { x with prod := 1, nextRead := 1, held := [⟨0, desc 0 [], true, 9⟩], reason := 9 }))

theorem witness_DescriptorAccepted : (rung 6).dev.hq.mail = [] ∧ Acceptable (rung 6).dev 5 0 (desc 0 [])
    ∧ (match (rung 6).dev.xlate 3 none .front (some (.queue 5 1)) 4096 false with
        | (_, .host a) => (a, (rung 6).dev.atOnce 0 5 (recOf ((rung 6).dev.hostRead a 64)))
        | _ => (0, some 99)) = (4096, none)
    ∧ budgeted.dev.fwRuns = true ∧ (5, budgeted.dev.queue 5) ∈ budgeted.dev.hq.queues ∧ (budgeted.dev.queue 5).cls = 1
    ∧ (∀ e ∈ budgeted.dev.hq.queues, e.2.cls = 1 → e.2.reason = 9 → e.1 = 5) ∧ budgeted.dev.atOnce 0 5 (desc 0 []) = none
    ∧ Acceptable budgeted.dev 5 0 (desc 0 []) := by
  refine ⟨rfl, ?_, ?_, ?_, ?_, ?_, ?_, ?_, ?_⟩ <;> first | decide +kernel | (unfold Acceptable; decide +kernel)

/-- A LAUNCH of core 0 with one stage of stream F, checked. -/
def launchJob : Work := { job (desc 0x100 [(8, 9), (16, 4096), (32, 256)]) with phase := .checked, entries := [⟨0, 8, [(4224, 128, [64]), (0, 0, []), (0, 0, [])]⟩] }

theorem witness_Dispatch : FabClear (working launchJob).dev ∧ (working launchJob).dev.nextWork = some (2, launchJob)
    ∧ (working (job (desc 0x200 []))).dev.nextWork = some (2, job (desc 0x200 [])) ∧ (working launchJob).dev.entriesStatus launchJob.entries = 0
    ∧ (launchJob.entries.map (·.core)).Nodup
    ∧ (∃ e ∈ launchJob.entries, ∃ b n pc pcs rest, e.streams = (b, n, pc :: pcs) :: rest) := by
  refine ⟨⟨rfl, rfl, rfl, rfl⟩, ?_, ?_, ?_, ?_, ⟨_, List.mem_singleton.mpr rfl, _, _, _, _, _, rfl⟩⟩ <;> decide +kernel

/-- Work dispatched at 0 with a cost of 9 µs; 10 µs have passed. -/
def costly (ovr : Nat) (bound : Nat) : Work :=
  { job (desc (0x200 + 2 ^ 14 * ovr) [(8, 9)]) with phase := .dispatched, since := some 0, bound := bound }
/-- The time it is judged at. -/
def late (w : Work) : State := with_ (working w) (fun d => { d with lt := 1000 })

/-- The Drill of cluster 0 is at work on a unit of it. -/
def digging (w : Work) : State :=
  with_ (late w) (fun d => d.modCluster 0 (fun k => { k with drill := [⟨w.desc, 0, some 2, 0, 0, 3, 0, false, true, none, none⟩] }))

theorem witness_CompletionCostDeadline : (late (costly 0 20)).dev.work 2 = some (costly 0 20) ∧ (late (costly 0 20)).dev.slotOf 2 = none
    ∧ FabClear (late (costly 0 20)).dev ∧ (late (costly 0 20)).dev.costReached (costly 0 20) = true
    ∧ dOverrun (costly 0 20).desc = false ∧ dOp (costly 0 20).desc ≠ 0x100 ∧ isCollective (dOp (costly 0 20).desc) = false
    ∧ (late (costly 1 20)).dev.costReached (costly 1 20) = true ∧ dOverrun (costly 1 20).desc = true ∧ (costly 1 20).broken = false
    ∧ (costly 1 20).boundLt = some (costly 1 20).acceptedLt ∧ (late (costly 1 20)).dev.lt ≤ (costly 1 20).acceptedLt + 100 * (costly 1 20).bound
    ∧ (costly 1 9).deadline = some 900 ∧ 900 < (late (costly 1 9)).dev.lt ∧ (costly 1 9).noDeadline = false ∧ (late (costly 1 9)).dev.upd.jobs = []
    ∧ (working { job 0 with phase := .finished 3 7 }).dev.recordsOut 3 = true ∧ NoneHeld (working { job 0 with phase := .finished 3 7 }).dev
    ∧ (((working { job 0 with phase := .finished 3 7 }).dev.giveBack 2).recordReady 5 0).2 = true
    ∧ (∃ e ∈ (digging (costly 0 20)).dev.gr.clusters, ∃ x ∈ e.2.drill, x.tag = some 2 ∧ x.moving = true)
    ∧ (digging (costly 0 20)).dev.costReached (costly 0 20) = true ∧ (digging (costly 0 20)).dev.work 2 = some (costly 0 20) := by
  refine ⟨?_, ?_, ⟨rfl, rfl, rfl, rfl⟩, ?_, ?_, ?_, ?_, ?_, ?_, ?_, ?_, ?_, ?_, ?_, ?_, ?_, ?_, ?_, ?_,
    ⟨_, List.mem_singleton.mpr rfl, _, List.mem_singleton.mpr rfl, rfl, rfl⟩, ?_, ?_⟩ <;> first | decide +kernel | exact ⟨rfl, noneHeldFor (by decide) _⟩

/-- In a hand-off pause work that a retirement ended waits for its record. -/
theorem witness_RecordWaitsForPause : (with_ (working { job 0 with phase := .finished 9 0 }) (fun d => { d with hq := { d.hq with load := .updatePaused } })).dev.work 2
      = some { job 0 with phase := .finished 9 0 }
    ∧ (with_ (working { job 0 with phase := .finished 9 0 }) (fun d => { d with hq := { d.hq with load := .updatePaused } })).dev.hq.load = .updatePaused
    ∧ (with_ (working { job 0 with phase := .finished 9 0 }) (fun d => { d with hq := { d.hq with load := .updatePaused } })).dev.slotOf 2 = none := by
  refine ⟨?_, rfl, ?_⟩ <;> decide +kernel

/-- A core of context 3 that runs one stage. -/
def runner (regs : Tbl Word) : Core :=
  { Core.empty with
    ctx := some 3, tag := some 2, ways := 8, ibuf := [(0, [4])]
    stages := [(0, { Stage.empty with state := .active, regs := regs, base := 4096, len := 128 })] }
/-- The grid with that core at 0. -/
def running (regs : Tbl Word) : State :=
  with_ (working { launchJob with phase := .dispatched, since := some 0, args := [1, 2, 3, 4, 5, 6, 7, 8] }) (fun d =>
    { d.setCtx 3 { d.ctx 3 with mask := 1 } with gr := ⟨[(0, runner regs)], []⟩ })
/-- A context whose pre-emption has been asked for. -/
def asked (s : State) (f : Core → Core) : State :=
  with_ s (fun d => { (d.modCore 0 f).setCtx 3 { d.ctx 3 with preemptReq := some 0 } with lt := 5000 })

theorem witness_Preemption : ((live.dev.setCtx 3 { Ctx.empty with exclusive := true }).ctx 3).exclusive = true
    ∧ (running []).dev.fwRuns = true ∧ ((running []).dev.ctx 3).exclusive = false ∧ ((running []).dev.ctx 3).saved = false
    ∧ ((running []).dev.ctx 3).state = .active ∧ ((running []).dev.ctx 3).park = none ∧ (running []).dev.canSave 3 = true
    ∧ (running []).dev.allStopped 3 = false ∧ Tbl.Sorted (running []).dev.gr.cores
    ∧ (asked (running []) (fun k => { k with halted := 7, ways := 1 })).dev.allStopped 3 = true
    ∧ (asked (running []) (fun k => { k with halted := 7, ways := 1 })).dev.streamsStopped 3 = true
    ∧ (asked (running []) (fun k => { k with halted := 7, ways := 1 })).dev.canSave 3 = true
    ∧ (asked (running []) (fun k => { k with halted := 7, ways := 1 })).dev.coresOfCtx 3 = [0]
    ∧ ((asked (running []) (fun k => { k with halted := 7, ways := 1 })).dev.core 0).lsBad 0 (1 * 32768) = false
    ∧ (asked (running []) (fun k => { k with fops := [⟨0, 0, 0, 0, 0, []⟩] })).dev.canSave 3 = true
    ∧ (asked (running []) (fun k => { k with fops := [⟨0, 0, 0, 0, 0, []⟩] })).dev.streamsStopped 3 = false
    ∧ (asked (running []) id).dev.streamsStopped 3 = false
    ∧ (asked (running []) id).dev.allStopped 3 = false
    ∧ (with_ (asked (running []) id) (fun d => d.setCtx 3 { d.ctx 3 with mask := 1, save := 2 ^ 38 })).dev.canSave 3 = false
    ∧ (with_ (asked (running []) id) (fun d => d.setCtx 3 { d.ctx 3 with mask := 1, save := 2 ^ 38 })).dev.allStopped 3 = false
    ∧ 0 + 100 * (asked (running []) id).dev.blockMax ≤ (asked (running []) id).dev.lt
    ∧ ((live.dev.setCtx 3 { Ctx.empty with state := .preempted, saved := true }).mayRestore 3) = true
    ∧ ((live.dev.setCtx 3 { Ctx.empty with state := .stopping, saved := true }).mayRestore 3) = true
    ∧ ((live.dev.setCtx 3 { Ctx.empty with state := .stopping, saved := true }).coresOfCtx 3) = [] := by
  refine ⟨?_, ?_, ?_, ?_, ?_, ?_, ?_, ?_, ?_, ?_, ?_, ?_, ?_, ?_, ?_, ?_, ?_, ?_, ?_, ?_, ?_, ?_, ?_, ?_⟩ <;>
    first | decide +kernel | (unfold Tbl.Sorted; decide +kernel)

/-- A LAUNCH accepted, whose bundle of core 0 stands at 4096. -/
def bundled (magic core : Nat) (good : Bool) : State :=
  with_ (working { job (desc 0x100 [(16, 4096), (32, 256), (38, 7)]) with args := [] }) (fun d =>
    let d := d.hostWrite 4096 (natLe 4 magic ++ natLe 2 1 ++ natLe 2 1 ++ natLe 4 64 ++ natLe 4 128 ++ natLe 4 128)
    let d := d.hostWrite 4160 (natLe 2 core ++ [8, 1] ++ natLe 4 0 ++ natLe 4 0 ++ natLe 4 128)
    let d := d.hostWrite 4224 [64]
    let d := d.setCtx 3 { d.ctx 3 with mask := 1 }
    if good then d else { d with fl := { d.fl with cores := [(core, 1)] } })
/-- What its check came to: 0 good with the status of its entries, 100 bad, 200 a fault. -/
def bundleIs (s : State) : Nat :=
  match s.dev.work 2 with
  | none => 400
  | some w => match s.dev.readBundle 2 w with
    | .ok d (es, _) => if (d.work 2).map (·.unreachable) = some false then d.entriesStatus es else 500
    | .bad _ => 100
    | .fault _ _ _ => 200
    | .wait _ => 300

theorem witness_LaunchIsChecked : bundleIs (bundled 0x31465042 0 true) = 0 ∧ bundleIs (bundled 0x31465042 0 false) = 9
    ∧ bundleIs (with_ (bundled 0x31465042 0 true) (fun d => { d with dom := 2 ^ 97 - 2 })) = 10
    ∧ bundleIs (bundled 0x31465043 0 true) = 100
    ∧ bundleIs (with_ (bundled 0x31465042 0 true) (fun d => { d with mm := { d.mm with walks := [] } })) = 200
    ∧ (bundled 0x31465042 0 true).dev.fwRuns = true ∧ ((bundled 0x31465042 0 true).dev.ctx 3).state = .active := by
  refine ⟨?_, ?_, ?_, ?_, ?_, ?_, ?_⟩ <;> decide +kernel

theorem witness_EventRings : live.dev.reaches .pcie 0x13004 = true ∧ live.dev.hq.devRing.waiting = [] := by
  refine ⟨?_, ?_⟩ <;> decide +kernel

/-- The device ring set up with one record waiting, n records ahead of the head last read and of the head word in memory. -/
def ringed (n : Nat) : State := with_ live (fun d => { d with
  lt := 1000
  hq := { d.hq with devRing := { d.hq.devRing with
    isSet := true, base := 0x10000, headAddr := 0x9000, widx := BitVec.ofNat 32 n, waiting := [(5, 0)], lastMsg := some 800, msgDue := true } } })

theorem witness_RingWaiting : (ringed 63).dev.on 94 = true ∧ (ringed 63).dev.hq.devRing.stopped = false
    ∧ 0 < 2 ^ (ringed 63).dev.hq.devRing.log2 - ((ringed 63).dev.hq.devRing.widx - 0).toNat
    ∧ 2 ^ (ringed 64).dev.hq.devRing.log2 - ((ringed 64).dev.hq.devRing.widx - 0).toNat = 0
    ∧ BitVec.ofNat 32 ((ringed 64).dev.hostNat 0x9000 4) = 0 ∧ (∀ a, (ringed 64).dev.hostDead a = false)
    ∧ 800 + 200 ≤ (ringed 64).dev.lt ∧ (with_ (ringed 64) (fun d => { d with lt := 999 })).dev.lt < 800 + 200 := by
  refine ⟨?_, ?_, ?_, ?_, ?_, fun _ => rfl, ?_, ?_⟩ <;> decide +kernel

/-- A record waits for the ring of context 3. -/
def ctxRinged : State := with_ mapped (fun d => d.setRing 3 { Ring.empty with isSet := true, base := 0x10000, headAddr := 0x9000, waiting := [(5, 0)] })

theorem witness_CtxRingWaiting : (ctxRinged.dev.ctx 3).noRing = false ∧ ctxRinged.dev.on 94 = true
    ∧ (match ctxRinged.dev.ctxWrite 3 5 0 with | (_, .done) => true | _ => false) = true := by
  refine ⟨?_, ?_, ?_⟩ <;> decide +kernel

/-- Queue 5 with two records that wait for an interrupt since LT 0 and a status block last written at LT 0; the time is given. -/
def coalescing (lt : Nat) : State := with_ mapped (fun d => { d.modQueue 5 (fun x => { x with
  coalN := 2, coalStart := some 0, coalUs := 3, stLt := some 0 }) with lt := lt })

theorem witness_QueueTimers : ((coalescing 300).dev.queue 5).coalStart = some 0 ∧ ((coalescing 300).dev.queue 5).coalUs = 3
    ∧ 0 + 100 * 3 ≤ (coalescing 300).dev.lt ∧ (coalescing 99).dev.lt < 0 + 100 ∧ 0 + 100 ≤ (coalescing 100).dev.lt
    ∧ (mapped.dev.queue 5).coalStart = none ∧ (mapped.dev.queue 5).stLt = none ∧ (mapped.dev.queue 5).state ≠ .disabled
    ∧ (mapped.dev.queue 5).state ≠ .stopped ∧ mapped.dev.on 94 = true ∧ (mapped.dev.queue 6).state = .disabled
    ∧ (mapped.dev.queue 5).stBad = false ∧ (match mapped.dev.frontWrite 3 (.queue 5 3) (mapped.dev.queue 5).st ((mapped.dev.queue 5).statusBytes 0) with | .ok _ _ => true | _ => false) = true := by
  refine ⟨?_, ?_, ?_, ?_, ?_, ?_, ?_, ?_, ?_, ?_, ?_, ?_, ?_⟩ <;> decide +kernel

/-- Firmware in a load state, with work of queue 5 waiting. -/
def loading (run : Bool) (l : LoadState) (cost bnd lt : Nat) : State :=
  with_ (working { job (desc 0x200 [(8, cost)]) with bound := bnd }) (fun d => { d with
    lt := lt, hq := { d.hq with ctrlRun := run, load := l, fetchLen := 2 ^ 26, waitLt := 0, pauseLt := 0 } })

theorem witness_FirmwareLoadAndUpdate : (loading true .fetching 0 0 0).dev.reaches .pcie 0x2010C = true
    ∧ (loading false .rejectFetch 0 0 0).dev.hq.ctrlRun = false ∧ (loading false .rejectFetch 0 0 0).dev.hq.load = .rejectFetch
    ∧ (loading true .fetching 0 0 0).dev.hq.fetchLen ≤ 2 ^ 26 ∧ (loading true .fetching 0 0 0).dev.hq.updating = false
    ∧ (∀ e ∈ (loading true .updateWaiting 9 2009 0).dev.hq.infl, e.2.undispatched = true → ∀ due ∈ e.2.deadline,
        (loading true .updateWaiting 9 2009 0).dev.lt + (100 * dCost e.2.desc - e.2.spent) + 200000 ≤ due)
    ∧ (∃ e ∈ (loading true .updateWaiting 9 2008 0).dev.hq.infl, e.2.undispatched = true ∧ ∃ due ∈ e.2.deadline,
        due < (loading true .updateWaiting 9 2008 0).dev.lt + (100 * dCost e.2.desc - e.2.spent) + 200000)
    ∧ (loading true .updateWaiting 9 2009 0).dev.hq.mail = []
    ∧ (∀ e ∈ (loading true .updateWaiting 9 2009 0).dev.hq.queues, e.2.held = [] ∧ e.2.reason = 0)
    ∧ 0 < 0 + 100000 * (((loading true .updateWaiting 0 0 0).dev.reg 0x20114).toNat % 2 ^ 16)
    ∧ 0 + 100000 * (((loading true .updateWaiting 0 0 0).dev.reg 0x20114).toNat % 2 ^ 16) ≤ 100000000
    ∧ (loading true .updatePaused 0 0 150000).dev.lt = 0 + 150000 := by
  refine ⟨?_, ?_, ?_, ?_, ?_, ?_, ⟨(2, _), List.mem_singleton.2 rfl, ?_, 200800, ?_, ?_⟩, ?_, ?_, ?_, ?_, ?_⟩ <;> decide +kernel

/-! ## Witnesses: streams and the matrix arrays -/

/-- An instruction word from its fields by their lowest bits. -/
def iw (fs : List (Nat × Nat)) : IWord := BitVec.ofNat 64 (fs.foldl (fun x f => x + f.2 * 2 ^ f.1) 0)

theorem witness_ScalarOperations : Issuing (running []) at0 (iw [(53, 7)]) 3 0 ∧ wb (iw [(53, 7)]) 60 4 = 0 ∧ wb (iw [(53, 7)]) 53 6 = 7
    ∧ wb (iw [(53, 7)]) 32 6 = 0 ∧ wb (iw [(53, 0), (32, 1)]) 32 6 ≠ 0 ∧ ((running []).dev.launchOf 0).map (·.args.length) = some 8
    ∧ ((iw [(53, 10), (0, 4)]).extractLsb' 0 32).toNat + 4 ≤ 8 ∧ 8 < ((iw [(53, 10), (0, 5)]).extractLsb' 0 32).toNat + 4
    ∧ ((running []).dev.ctx 3).state = .active := by
  refine ⟨?_, ?_, ?_, ?_, ?_, ?_, ?_, ?_, ?_⟩ <;> first | decide +kernel | (unfold Issuing Fetched; decide +kernel)

/-- A pre-emption of the running context is wanted. -/
def wanted : State := with_ (running []) (fun d => d.setCtx 3 { d.ctx 3 with preemptReq := some 0 })

theorem witness_StopsAtTileBoundary : Fetched wanted at0 3 0 ∧ wanted.dev.stopWanted 0 = true ∧ (wanted.dev.core 0).tag.map (·.val) = some 2
    ∧ (wanted.dev.work 2).map (·.stopping) = some false ∧ wb (iw [(53, 9), (59, 1)]) 59 1 = 1 ∧ wb (iw [(53, 9), (59, 1)]) 53 6 = 9
    ∧ wb (iw [(53, 9)]) 59 1 = 0 := by
  refine ⟨?_, ?_, ?_, ?_, ?_, ?_, ?_⟩ <;> first | decide +kernel | (unfold Fetched; decide +kernel)

theorem witness_BranchOperations : Issuing (running []) at0 (iw [(60, 1), (56, 4), (0, 120)]) 3 0 ∧ wb (iw [(60, 1), (56, 4), (0, 120)]) 60 4 = 1
    ∧ wb (iw [(60, 1), (56, 4), (0, 120)]) 32 19 = 0 ∧ 120 % 8 = 0 ∧ 120 < (((running []).dev.core 0).stage 0).len
    ∧ (((running []).dev.core 0).stage 0).len ≤ 128 := by
  refine ⟨?_, ?_, ?_, ?_, ?_, ?_⟩ <;> first | decide +kernel | (unfold Issuing Fetched; decide +kernel)

/-- Core token 4 of the running core is 2, and stage 1 waits for 3 of it where told. -/
def tokened (waits : Bool) : State := with_ (running []) (fun d => d.modCore 0 (fun k =>
  let k := { k with tok := [(4, 2)] }
  if waits then k.setStage 1 { Stage.empty with state := .blocked, want := some (false, 4, 3, false), blockLt := 7 } else k))
/-- A TOKEN word of an OP on core token 4 with a COUNT. -/
def tk (op n : Nat) : IWord := iw [(60, 2), (56, op), (49, 4), (33, n)]

theorem witness_TokenOperations : Issuing (tokened true) at0 (tk 1 1) 3 0 ∧ Issuing (tokened false) at0 (tk 0 2) 3 0 ∧ wb (tk 0 2) 60 4 = 2
    ∧ wb (tk 0 2) 0 25 = 0 ∧ wb (tk 0 2) 30 3 ≤ 4 ∧ (tokened false).dev.token 0 false 4 = 2 ∧ (tokened false).dev.waiters 0 false 4 = []
    ∧ ((tokened false).dev.core 0).holds 0 = false ∧ (tokened true).dev.waiters 0 false 4 = [(7, 0, 1)]
    ∧ (((tokened true).dev.core 0).stage 1).want = some (false, 4, 3, false) ∧ (((tokened true).dev.core 0).stage 1).state = .blocked
    ∧ 3 ≤ 2 + wb (tk 1 1) 33 16 ∧ 2 + wb (tk 1 65533) 33 16 = 65535 ∧ 65535 < 2 + wb (tk 1 65534) 33 16 ∧ wb (tk 3 0) 33 16 = 0
    ∧ 2 < wb (tk 0 3) 33 16 := by
  refine ⟨?_, ?_, ?_, ?_, ?_, ?_, ?_, ?_, ?_, ?_, ?_, ?_, ?_, ?_, ?_, ?_⟩ <;> first | decide +kernel | (unfold Issuing Fetched; decide +kernel)

/-- The running core with stage 1 READY where told. -/
def two (ready : Bool) : State := with_ (running []) (fun d => d.modCore 0 (fun k =>
  if ready then k.setStage 1 { Stage.empty with state := .ready } else k))

theorem witness_FenceTrapEnd : Issuing (two true) at0 (iw [(60, 3), (56, 2)]) 3 0 ∧ wb (iw [(60, 3), (56, 2)]) 0 56 = 0
    ∧ wb (iw [(60, 0xB), (0, 7)]) 16 43 = 0 ∧ reservedWord (iw [(60, 0xF)]) = true ∧ wb (iw [(60, 0xC), (0, 9)]) 32 27 = 0
    ∧ ((two true).dev.core 0).tag.map (·.val) = some 2 ∧ ((two true).dev.work 2).map (·.stopping) = some false
    ∧ ((two true).dev.core 0).nextReady 0 = some 1 ∧ ((two false).dev.core 0).nextReady 0 = none
    ∧ ((two false).dev.work 2).map (fun v => (v.phase, v.unreachable, v.marked)) = some (.dispatched, false, false)
    ∧ ((two false).dev.core 0).fops = [] ∧ Tbl.Sorted (two false).dev.gr.cores ∧ (∀ j, j ≠ 0 → (((two false).dev.core 0).stage j).state = .unused)
    ∧ Tbl.Sorted ((two false).dev.core 0).stages ∧ (∀ n, n ≠ 0 → ((two false).dev.core n).tag = none) := by
  refine ⟨?_, ?_, ?_, ?_, ?_, ?_, ?_, ?_, ?_, ?_, ?_, ?_, ?_, ?_, ?_⟩ <;>
    first
    | decide +kernel
    | (unfold Issuing Fetched; decide +kernel)
    | (unfold Tbl.Sorted; decide +kernel)
    | (intro n h; cases n with
        | zero => exact absurd rfl h
        | succ n => rfl)

/-- The running core with some operations held by array 0. -/
def arrayed (n : Nat) (regs : Tbl Word) : State := with_ (running regs) (fun d => d.modCore 0 (fun k =>
  { k with fops := List.replicate n ⟨0, iw [(60, 5), (25, 1)], 0, 0, 0, []⟩ }))

theorem witness_SlotOperations : Issuing (arrayed 1 []) at0 (iw [(60, 5), (56, 3)]) 3 0 ∧ wb (iw [(60, 5), (56, 3)]) 44 8 = 0
    ∧ wb (iw [(60, 5), (56, 3)]) 0 39 = 0 ∧ (((arrayed 1 []).dev.core 0).fops.filter (fun o => o.arr = 0)).length < 2
    ∧ 2 ≤ (((arrayed 2 []).dev.core 0).fops.filter (fun o => o.arr = 0)).length ∧ CleanLs ((arrayed 1 []).dev.core 0) (261120) 1024
    ∧ 261120 + 1024 ≤ ((arrayed 1 []).dev.core 0).ways * 32768 ∧ ((arrayed 1 []).dev.core 0).ways * 32768 < 261121 + 1024 := by
  refine ⟨?_, ?_, ?_, ?_, ?_, ?_, ?_, ?_⟩ <;> first | decide +kernel | (unfold Issuing Fetched; decide +kernel) | (unfold CleanLs; decide +kernel)

/-- MMA in FP32 (format 7) or FP64 (format 8) of a number of steps on the panels at S0 and S1. -/
def mm (fmt steps : Nat) : IWord := iw [(60, 5), (48, fmt), (44, fmt), (34, 1), (25, steps)]

theorem witness_MatrixMultiply : Issuing (arrayed 1 []) at0 (mm 7 1) 3 0 ∧ mmaIllegal (mm 7 1) = false ∧ mmaIllegal (mm 8 2) = false ∧ wb (mm 7 1) 56 3 = 0
    ∧ wb (mm 9 1) 48 4 = 9 ∧ wb (mm 7 0) 25 9 = 0 ∧ 0 + fuPanel (mm 7 1) 0 ≤ 262144 ∧ 0 + fuPanel (mm 7 1) 1 ≤ 262144
    ∧ ¬ (262144 - 4 + fuPanel (mm 7 1) 0 ≤ 262144) ∧ CleanLs ((arrayed 1 []).dev.core 0) 0 (fuPanel (mm 7 1) 0)
    ∧ CleanLs ((arrayed 1 []).dev.core 0) 0 (fuPanel (mm 8 2) 1) := by
  refine ⟨?_, ?_, ?_, ?_, ?_, ?_, ?_, ?_, ?_, ?_, ?_⟩ <;> first | decide +kernel | (unfold Issuing Fetched; decide +kernel) | (unfold CleanLs; decide +kernel)

theorem witness_ChecksumCompare : (((arrayed 1 []).dev.core 0).fops.find? (fun o => o.arr = 0)).isSome = true
    ∧ ((arrayed 1 []).dev.core 0).tag.map (·.val) = some 2 ∧ ((arrayed 1 []).dev.work 2).map (·.stopping) = some false
    ∧ (((arrayed 1 []).dev.core 0).stage 0).state = .active ∧ ((arrayed 1 []).dev.core 0).mism.length < 2
    ∧ (∀ p ∈ ((arrayed 1 []).dev.core 0).fops, ∀ x ∈ p.ranges, CleanLs ((arrayed 1 []).dev.core 0) x.1 x.2)
    ∧ Quiet (arrayed 1 []).dev (coreBase 0 + 0x20) 16 := by
  refine ⟨?_, ?_, ?_, ?_, ?_, ?_, Or.inl ?_⟩ <;> first | decide +kernel | (unfold CleanLs; decide +kernel)

/-- A ZERO transfer of 64 bytes to the local store of a core at a place. -/
def zeroTo (core dst : Nat) (fs : List (Nat × Nat)) : Rec64 := desc 0x200 ([(24, dst), (48, 64), (52, 10), (56, core)] ++ fs)

/-- That record stands in the running core's local store at 0; its cluster's Drill holds some transfers. -/
def drilling (r : Rec64) (held : List DXfer) : State := with_ (running []) (fun d =>
  let d := d.modCore 0 (fun k => { k with ls := ⟨Mem.write [] 0 (bytesOf 64 r), []⟩ })
  let d := d.setCtx 3 { d.ctx 3 with mask := 1 }
  { d with gr := { d.gr with clusters := [(0, { Cluster.empty with ctx := some 3, drill := held })] } })

/-- A transfer in a Drill. -/
def xfer (r : Rec64) (started : Bool) : DXfer := ⟨r, 0, none, 0, 0, 3, 0, false, started, none, none⟩

theorem witness_DrillQueue : Issuing (drilling (zeroTo 0 128 []) []) at0 (iw [(60, 8)]) 3 0 ∧ wb (iw [(60, 8)]) 0 46 = 0
    ∧ recOf (((drilling (zeroTo 0 128 []) []).dev.core 0).ls.read 0 64).1 = zeroTo 0 128 [] ∧ 0 + 64 ≤ ((drilling 0 []).dev.core 0).ways * 32768
    ∧ xferBad (zeroTo 0 128 []) 1 = false ∧ xferBad (zeroTo 18 128 []) 1 = true ∧ (drilling 0 []).dev.drillOpen 0 3 = true
    ∧ ((drilling 0 (List.replicate 15 (xfer 0 false))).dev.cluster 0).drill.length < 16
    ∧ (with_ (drilling 0 []) (fun d => { d with dom := 2 ^ 97 - 2 })).dev.admits 0 = false
    ∧ (with_ (drilling 0 []) (fun d => { d with fl := { d.fl with cores := [(0, 1)] } })).dev.coreGood 0 = false
    ∧ (with_ (drilling 0 []) (fun d => { d with fl := { d.fl with cores := [(0, 1)] } })).dev.admits 0 = true
    ∧ CleanLs ((drilling (zeroTo 0 128 []) []).dev.core 0) 0 64
    ∧ 16 ≤ ((drilling 0 (List.replicate 16 (xfer 0 false))).dev.cluster 0).drill.length := by
  refine ⟨?_, ?_, ?_, ?_, ?_, ?_, ?_, ?_, ?_, ?_, ?_, ?_, ?_⟩ <;>
    first | decide +kernel | (unfold Issuing Fetched; decide +kernel) | (unfold CleanLs; decide +kernel)

/-- A Drill or key-value descriptor dispatched. -/
def drillJob (op : Nat) : State := with_ mapped (fun d =>
  let d := d.setWork 2 { job (BitVec.ofNat 512 ((zeroTo 0 128 []).toNat - 0x200 + op)) with phase := .dispatched }
  d.setCtx 3 { d.ctx 3 with mask := 1 })

/-- The header of a region for 64 keys of one head in BF16, D 16. -/
def kvHeader : List Byte := natLe 4 0x564B5442 ++ natLe 4 64 ++ natLe 4 0 ++ natLe 2 1 ++ [1, 1, 6, 6]

/-- Whether the region a KV_APPEND names can be appended to. -/
def kvTaken (s : State) : Nat :=
  match s.dev.work 2 with
  | none => 9
  | some v => match s.dev.kvRegion ⟨v.ctx, some 2, none, 2, .both, none, 0x100002⟩ v.desc with
    | .ok _ none => 0
    | .ok _ (some _) => 1
    | _ => 2

theorem witness_DrillDescriptors : ((drillJob 0x200).dev.work 2).map (fun v => (v.phase, dOp v.desc, clusterOf (xferOf v.desc).core)) = some (.dispatched, 0x200, 0)
    ∧ ((drillJob 0x301).dev.ctx 3).state = .active ∧ (drillJob 0x300).dev.inDrill 2 = false ∧ (drillJob 0x301).dev.drillOpen 0 3 = true
    ∧ (drillJob 0x200).dev.coreGood 0 = true ∧ (setBits ((drillJob 0x300).dev.ctx 3).mask.toNat 72).head? = some 0
    ∧ (∀ e ∈ (drillJob 0x301).dev.hq.infl, dOp e.2.desc = 0x301 → e.1 = 2)
    ∧ kvTaken (drillJob 0x301) = 0 ∧ kvTaken (with_ (drillJob 0x301) (fun d => d.hostWrite 0 kvHeader)) = 1 := by
  refine ⟨?_, ?_, ?_, ?_, ?_, ?_, ?_, ?_, ?_⟩ <;> decide +kernel

theorem witness_DrillRuns : (drilling 0 [xfer (zeroTo 0 128 []) true]).dev.on 0 = true
    ∧ ((drilling 0 [xfer (zeroTo 0 128 []) true]).dev.cluster 0).paused = false ∧ (xfer (zeroTo 0 128 []) true).isKv = false
    ∧ (xferOf (zeroTo 0 128 [])).layout = 2 ∧ (xferOf (zeroTo 0 128 [])).toLocal = true ∧ (xferOf (zeroTo 0 128 [])).len = 64
    ∧ (xferOf (zeroTo 0 128 [])).dst = 128 ∧ (xferOf (zeroTo 0 128 [])).sigEn = false
    ∧ (xferOf (zeroTo 0 262080 [])).dst + 64 ≤ ((drilling 0 []).dev.core 0).ways * 32768
    ∧ ((drilling 0 []).dev.core 1).ways * 32768 < (xferOf (zeroTo 1 0 [])).dst + 64
    ∧ (match (drilling 0 [xfer (desc 0x200 [(16, 2 ^ 40), (48, 64), (52, 8)]) true]).dev.drillRun 0 (xfer (desc 0x200 [(16, 2 ^ 40), (48, 64), (52, 8)]) true) with
        | .fault d _ _ => ((d.cluster 0).drill.length, (d.ctx 3).state) | _ => (0, .free)) = (1, .active) := by
  refine ⟨?_, ?_, ?_, ?_, ?_, ?_, ?_, ?_, ?_, ?_, ?_⟩ <;> decide +kernel

/-! ## Witnesses: the vector engine, attention, loads and stores -/

/-- A Harrow word of an OP on VD 2. -/
def hw (op : Nat) (fs : List (Nat × Nat)) : IWord := iw ([(60, 6), (53, op), (49, 2)] ++ fs)

/-- Every lane, special, scan, reduction, comparison, mask, tile and conversion OP has a word its issue rules allow; the fields an OP does not use are 0. -/
theorem witness_HarrowWords : ∀ op ∈ [0, 1, 2, 3, 4, 5, 6, 7, 8, 0xA, 0xB, 0xC, 0x10, 0x11, 0x12, 0x13, 0x14, 0x18, 0x19, 0x20, 0x21, 0x22, 0x28, 0x29,
      0x2A, 0x2B, 0x2C, 0x2D, 0x30, 0x32, 0x34],
    harIllegal (hw op (if op ≤ 5 then [(32, 1)] else [])) op = false := by decide +kernel

theorem witness_HarrowWords2 : harIllegal (hw 0x1A [(24, 1)]) 0x1A = false ∧ harIllegal (hw 0x1B [(23, 1)]) 0x1B = false
    ∧ harIllegal (hw 0x23 [(24, 1)]) 0x23 = false ∧ harIllegal (hw 0x24 [(23, 1)]) 0x24 = false ∧ harIllegal (hw 0x20 [(22, 1), (17, 3)]) 0x20 = false
    ∧ (∀ op ∈ [0x33, 0x35, 0x36, 0x37], harIllegal (iw [(60, 6), (53, op)]) op = false)
    ∧ harIllegal (iw [(60, 6), (53, 0x38), (20, 5)]) 0x38 = false ∧ harIllegal (iw [(60, 6), (53, 0x38), (20, 4), (18, 2), (16, 1)]) 0x38 = false
    ∧ harIllegal (iw [(60, 6), (53, 0x39), (20, 5)]) 0x39 = false := by
  refine ⟨?_, ?_, ?_, ?_, ?_, ?_, ?_, ?_, ?_⟩ <;> decide +kernel

theorem witness_LaneOperations : HarrowIssue (running []) at0 (hw 3 []) 3 0 3 ∧ Issuing (running []) at0 (hw 8 [(32, 1)]) 3 0 := by
  constructor <;> first | (unfold Issuing Fetched; decide +kernel) | (unfold HarrowIssue Issuing Fetched Quiet; decide +kernel)

theorem witness_MaskOperations : HarrowIssue (running []) at0 (hw 0x2D []) 3 0 0x2D ∧ Issuing (running []) at0 (iw [(60, 6), (53, 0x28)]) 3 0
    ∧ wb (iw [(60, 6), (53, 0x28)]) 49 4 = 0 := by
  refine ⟨?_, ?_, ?_⟩ <;> first | decide +kernel | (unfold Issuing Fetched; decide +kernel) | (unfold HarrowIssue Issuing Fetched Quiet; decide +kernel)

theorem witness_ScansAndReductions : HarrowIssue (running []) at0 (hw 0x23 [(24, 1)]) 3 0 0x23 ∧ HarrowIssue (running []) at0 (hw 0x18 [(23, 1)]) 3 0 0x18
    ∧ HarrowIssue (running []) at0 (hw 0x20 [(22, 1), (17, 3)]) 3 0 0x20 := by
  refine ⟨?_, ?_, ?_⟩ <;> (unfold HarrowIssue Issuing Fetched Quiet; decide +kernel)

theorem witness_TileOperations : HarrowIssue (running []) at0 (hw 0x30 []) 3 0 0x30 ∧ ((running []).dev.core 0).fops = []
    ∧ (∃ o ∈ ((arrayed 1 []).dev.core 0).fops, o.stage = 0 ∧ o.arr = 0 ∧ wb o.word 52 3 = 0) ∧ HarrowIssue (running [(0, 258048)]) at0 (hw 0x34 []) 3 0 0x34
    ∧ HarrowIssue (running [(0, 258048)]) at0 (iw [(60, 6), (53, 0x36)]) 3 0 0x36
    ∧ CleanLs ((running []).dev.core 0) 258048 4096 ∧ 258048 + 4096 ≤ ((running []).dev.core 0).ways * 32768
    ∧ ¬ (258112 + 4096 ≤ ((running []).dev.core 0).ways * 32768) := by
  refine ⟨?_, ?_, ⟨⟨0, iw [(60, 5), (25, 1)], 0, 0, 0, []⟩, ?_, ?_⟩, ?_, ?_, ?_, ?_, ?_⟩ <;>
    first | decide +kernel | (unfold CleanLs; decide +kernel) | (unfold HarrowIssue Issuing Fetched Quiet; decide +kernel)

/-- CVT into E4M3 with block scales of KIND 2. -/
def cvt2 : IWord := iw [(60, 6), (53, 0x38), (20, 3), (18, 1), (16, 3), (13, 2), (7, 1)]

theorem witness_Conversions : Issuing (running [(1, 8192)]) at0 cvt2 3 0 ∧ harIllegal cvt2 0x38 = false
    ∧ ((running [(1, 8192)]).dev.core 0).cvLocal 0 cvt2 = true ∧ ((running [(1, 262080)]).dev.core 0).cvLocal 0 cvt2 = false
    ∧ CleanLs ((running []).dev.core 0) 8192 128 ∧ 0 + 128 * fmtBits 3 ≤ 8192 ∧ CleanLs ((running []).dev.core 0) 0 (128 * 8) := by
  refine ⟨?_, ?_, ?_, ?_, ?_, ?_, ?_⟩ <;> first | decide +kernel | (unfold CleanLs; decide +kernel) | (unfold Issuing Fetched; decide +kernel)

/-- A parameter record: FP16 keys and BF16 values, D 16, NV 1, one block, 16 rows, its tiles from 4096 and its output at 65536. -/
def attParams (compat : Nat) : Rec64 := desc 5 [(1, 5 + 16 * compat), (2, 1), (3, 1), (4, 0), (5, 1), (7, 16), (24, 4096), (28, 8192), (32, 32768), (40, 65536), (44, 4096)]

/-- A part whose LAUNCH has the ATTN licence, whose running core holds the record at 0 and an open set 0. -/
def attending (compat : Nat) : State :=
  with_ (running []) (fun d => (d.modWork 2 (fun w => { w with lic := 8 })).modCore 0 (fun k => { k with
    ls := ⟨Mem.write [] 0 (bytesOf 64 (attParams compat)), []⟩, sets := [(0, ⟨true, compat == 1, 1, 0, [], [], true⟩)] }))

theorem witness_AttentionOperations : ∀ op ∈ [0, 1, 2, 3, 4],
    AttnIssue (attending (if op < 3 then op % 2 else 0)) at0 (iw [(60, 7), (56, op)]) 3 0 op (attRec (attParams (if op < 3 then op % 2 else 0))) := by
  simp only [List.forall_mem_cons, List.not_mem_nil, false_implies, implies_true, and_true]
  refine ⟨?_, ?_, ?_, ?_, ?_⟩ <;>
    (unfold AttnIssue Issuing Fetched CleanLs; refine ⟨?_, ?_, ?_, ?_, ?_, ?_, ?_, congrArg attRec ?_, ?_, ?_, ?_, ?_, ?_, ?_⟩ <;> decide +kernel)

theorem witness_AttentionUnlicensed : Issuing (running []) at0 (iw [(60, 7)]) 3 0 ∧ bitOf ((running []).dev.licOf 0) 3 = false
    ∧ (0 : Nat) < (attRec (attParams 0)).nb ∧ ((attending 0).dev.core 0).mism.length < 2 ∧ Quiet (attending 0).dev (coreBase 0 + 0x20) 16 := by
  refine ⟨?_, ?_, ?_, ?_, Or.inl ?_⟩ <;> first | decide +kernel | (unfold Issuing Fetched; decide +kernel)

theorem witness_SoftmaxOfOneKey : (f32 0x3F800000).isFin = true ∧ 63 < 64 ∧ (f32 0xFF800000).isNan = false ∧ (f32 0x3F800000).isZero = false := by
  refine ⟨?_, ?_, ?_, ?_⟩ <;> decide +kernel

/-- The running core with four ways of L1, S1 at the start of the second GiB, whose walk its cluster has cached; its L1 holds what is told. -/
def accessing (l1 : List L1Line) : State := with_ (running [(1, 2 ^ 30)]) (fun d =>
  let d := d.modCore 0 (fun k => { k with ways := 4, l1 := l1 })
  { d with mm := { d.mm with clWalks := [(0, [⟨3, 2, 1, 14⟩])] } })
/-- An ACCESS word of an OP on the address in S1, N 1. -/
def aw (op n : Nat) : IWord := iw [(60, 4), (56, op), (51, 1), (34, n)]
/-- A block of 64 zero bytes. -/
def blk0 : Blk := ⟨List.replicate 64 0, false⟩

theorem witness_AccessOperations : Issuing (accessing []) at0 (aw 0 1) 3 0 ∧ wb (aw 0 1) 34 7 = 1 ∧ wb (aw 0 1) 0 34 = 0 ∧ wb (aw 2 0) 0 41 = 0
    ∧ 0 + 64 ≤ ((accessing []).dev.core 0).ways * 32768
    ∧ (∀ wr : Bool, (match (accessing []).dev.xlate 3 (some 0) .granary none (2 ^ 30) wr with
        | (d, .gran a p h) => decide ((a, p, h) = (0, 0, 0) ∧ d = (accessing []).dev) | _ => false) = true)
    ∧ ((accessing []).dev.core 0).l1Find 0 = none ∧ ((accessing [L1Line.of 0 4 blk0 blk0]).dev.core 0).l1Find 0 = some (L1Line.of 0 4 blk0 blk0)
    ∧ (L1Line.of 0 4 blk0 blk0).pair = (blk0, blk0)
    ∧ blk0.poison = false ∧ blk0.bytes.length = 64 ∧ (accessing []).dev.fallowTrap ((accessing []).dev.coreAcc 0 0 3) 0 [2 ^ 30] = false
    ∧ plruPick 0 (fun u => decide (7 ≤ u)) = some 7
    ∧ (match (accessing []).dev.secRead 0 0 0 0 with | .ok d b0 b1 _ r => (b0.bytes.length, b1.poison, r, decide (d.gr = (accessing []).dev.gr)) | _ => (0, true, true, false)) = (64, false, false, true)
    ∧ ([] : List L1Line).length < 8 - ((accessing []).dev.core 0).ways := by
  refine ⟨?_, ?_, ?_, ?_, ?_, ?_, ?_, ?_, ?_, ?_, ?_, ?_, ?_, ?_⟩ <;> first | decide +kernel | (unfold Issuing Fetched; decide +kernel)

/-- Block 0 of its local store has two flipped bits. -/
def struck : State := with_ (accessing []) (fun d => d.modCore 0 (fun k => { k with ls := k.ls.strike 0 ⟨0, 3, 0⟩ }))
/-- Its stage 1 has 64 writes that wait for a held layer-half. -/
def crowded : State := with_ (accessing []) (fun d => { d with mm := { d.mm with heldWr := (List.range 64).map (fun n => (1, n)) } })

theorem witness_AccessFault : (match (with_ (accessing []) (fun d => { d with mm := { d.mm with clWalks := [(0, [⟨3, 2, 1, 6⟩])] } })).dev.xlate
      3 (some 0) .granary none (2 ^ 30) true with | (_, .fault f) => f.kind | _ => 0) = 2
    ∧ (match (accessing []).dev.writeBlocks ((accessing []).dev.coreAcc 0 0 3) (2 ^ 30) [blk0] with
        | .ok d () => decide (d.gr = (accessing []).dev.gr) | _ => false) = true
    ∧ (match (accessing []).dev.writeRange ((accessing []).dev.coreAcc 0 0 3) (2 ^ 30) [1, 2, 3, 4] with
        | .ok d () => decide (d.gr = (accessing []).dev.gr) | _ => false) = true
    ∧ (match (accessing []).dev.writeBlocks ((accessing []).dev.coreAcc 0 0 3) (2 ^ 30) [blk0] with
        | .ok d () => (match d.xlate 3 (some 0) .granary none (2 ^ 30) true with | (e, .gran a _ _) => decide (a = 0 ∧ e = d) | _ => false)
        | _ => false) = true
    ∧ struck.dev.core 0 ≠ (accessing []).dev.core 0 ∧ (struck.dev.core 0).ls.par 0 = .bad
    ∧ Fetched crowded at0 3 0 ∧ crowded.dev.stopWanted 0 = false ∧ crowded.dev.llcFull 0 0 = true := by
  refine ⟨?_, ?_, ?_, ?_, ?_, ?_, ?_, ?_, ?_⟩ <;> first | decide +kernel | (unfold Fetched; decide +kernel)

theorem witness_CacheReadAfterWrite : (match mapped.dev.secWrite 0 0 0 256 0 [blk0, blk0] (List.replicate 128 7) 0 with | .ok _ _ _ _ _ => true | _ => false) = true
    ∧ mapped.dev.mm.lines = [] ∧ mapped.dev.mm.tags.chk = [] ∧ 256 % 128 = 0 ∧ (List.replicate 128 (7 : Byte)).length = 128 := by
  refine ⟨?_, ?_, ?_, ?_, ?_⟩ <;> decide +kernel

/-- Range operations on the line of the granary that the running core's S1 names; the line is held dirty. -/
def ranged : State := with_ (accessing []) (fun d =>
  let at_ := locOf 0 0 0
  { d with mm := { d.mm with
      lines := [⟨0, at_.1, at_.2.1, at_.2.2, 0, false, 3, 1, 0, false, Store.zero⟩] } })

/-- The line is pinned, its sectors dirty, and lies in a fallow range. -/
def fallowed : State := with_ ranged (fun d =>
  let d := d.modHalf 0 (fun x => { x with pins := [(0, ⟨0, 1, 3, false⟩)], fallow := [(0, ⟨0, 1, 3, false⟩)] })
  { d with mm := { d.mm with lines := d.mm.lines.map (fun l => { l with dirty := 3, pin := true, two := true }) } })

theorem witness_RangeOperations : wb (iw [(60, 9), (51, 1), (41, 2)]) 0 35 = 0 ∧ Issuing ranged at0 (iw [(60, 9), (51, 1), (41, 2)]) 3 0
    ∧ (∀ op ∈ [0, 1, 2, 3, 4, 5], (match ranged.dev.rangeOp (ranged.dev.coreAcc 0 0 3) op false (2 ^ 30) 256 with | .ok _ _ => true | _ => false) = true)
    ∧ freeEntry (ranged.dev.half 0).fallow = some 0 ∧ freeEntry (ranged.dev.half 0).pins = some 0
    ∧ (ranged.dev.findLine (locOf 0 0 0).1 (locOf 0 0 0).2.1 (locOf 0 0 0).2.2 0).map (fun l => (l.valid, l.num, l.dirty, l.pin, ranged.dev.wbHeld l)) = some (3, 0, 1, false, false)
    ∧ (ranged.dev.half 0).pins.all (fun f => !f.2.hits 0 256) = true
    ∧ ranged.dev.pinnedAfter ⟨0, 0, 0, 1⟩ (locOf 0 0 0).1 (locOf 0 0 0).2.1 (locOf 0 0 0).2.2 ≤ ranged.dev.pinWays 0 / 2
    ∧ 2 ^ 30 / 256 * 256 % 2 ^ 21 + 256 * 2 ^ 13 ≤ 2 ^ 21
    ∧ (match ranged.dev.xlate 3 (some 0) .granary none (2 ^ 30) false with | (d, .gran a p h) => decide ((a, p, h) = (0, 0, 0) ∧ d = ranged.dev) | _ => false) = true
    ∧ ranged.dev.layerHeld 1 0 = false ∧ ranged.dev.pairRetired 0 (locOf 0 0 0).2.1 (locOf 0 0 0).2.2 0 = false
    ∧ (∀ m ∈ ranged.dev.mm.lines, ranged.dev.wbHeld m = false ∧ ∀ i, i < 4 → m.st.par i = .clean ∨ m.st.par i = .poisoned)
    ∧ (∀ l ∈ fallowed.dev.mm.lines, l.valid = 3 ∧ l.dirty = 3) ∧ fallowed.dev.fallowAt 0 0 128 ≠ [] ∧ fallowed.dev.fallowAt 0 128 128 ≠ []
    ∧ (∀ f ∈ (fallowed.dev.half 0).pins, f.2.ctx = 3 ∧ f.2.inside 0 256 = true ∧ f.2.hits 0 256 = true) := by
  refine ⟨?_, ?_, ?_, ?_, ?_, ?_, ?_, ?_, ?_, ?_, ?_, ?_, ?_, ?_, ?_, ?_, ?_⟩ <;> first | decide +kernel | (unfold Issuing Fetched; decide +kernel)

/-- A range descriptor of an OP, dispatched. -/
def rangeJob (op : Nat) : Work := { job (desc (0x400 + op) [(16, 2 ^ 30), (24, 256)]) with phase := .dispatched }

theorem witness_RangeDescriptors : ∀ op ∈ [0, 1, 2, 3, 4, 5], dOp (rangeJob op).desc = 0x400 + op
    ∧ (match (working (rangeJob op)).dev.rangeOp ((rangeJob op).acc 2 .granary) op false (2 ^ 30) 256 with
        | .ok d _ => decide (d.work 2 = some (rangeJob op)) && !(rangeJob op).marked && !(rangeJob op).unreachable | _ => false) = true := by decide +kernel

/-- The pressure window of half 0 at LT 10,000 with the threshold at 512, some requests and misses, lines pinned, and a run. -/
def pressed (miss run : Nat) (raised : Bool) : State := with_ ranged (fun d =>
  let d := (d.setReg 0xA0014 512).modHalf 0 (fun x => { x with winReq := 2, winMiss := miss, run := run, raised := raised })
  { d with lt := 10000, mm := { d.mm with lines := d.mm.lines.map (fun l => { l with pin := true, two := true }) } })

theorem witness_PinPressure : (pressed 2 6 false).dev.lt % 10000 = 0 ∧ ((pressed 2 6 false).dev.reg 0xA0014).toNat % 2048 = 512
    ∧ 512 < 1024 * ((pressed 2 6 false).dev.half 0).winMiss / ((pressed 2 6 false).dev.half 0).winReq ∧ (pressed 2 6 false).dev.pinLinesOf 0 ≠ 0
    ∧ 1024 * ((pressed 1 7 false).dev.half 0).winMiss / ((pressed 1 7 false).dev.half 0).winReq ≤ 512
    ∧ 7 ≤ ((pressed 2 7 true).dev.half 0).run ∧ ((pressed 2 7 true).dev.half 0).raised = true ∧ (75 : Word).toNat % 128 ≤ 75
    ∧ live.dev.reaches .pcie 0xA0100 = true := by
  refine ⟨?_, ?_, ?_, ?_, ?_, ?_, ?_, ?_, ?_⟩ <;> decide +kernel

/-! ## Witnesses: translation, the granary, ports -/

/-- Context 3's tree in host memory at 2^20 with a leaf for IOVA 0. -/
def treed (cfg e3 e2 leaf : Nat) : State := with_ mapped (fun d =>
  let d := { d.setReg 0xE1038 (BitVec.ofNat 32 cfg) with wide := Tbl.put d.wide 0xE1034 (2 ^ 20) }
  let d := ((d.hostWrite (2 ^ 20) (natLe 8 e3)).hostWrite 0x101000 (natLe 8 e2)).hostWrite 0x102000 (natLe 8 leaf)
  { d with mm := { d.mm with walks := [] } })

theorem witness_TranslationWalk : Quiet (treed 1 0x101001 0x102001 14).dev 0xE0100 32 ∧ Quiet (treed 1 0x101001 0x102001 14).dev 0xE0104 32
    ∧ (treed 1 0 0 0).dev.mm.walks = [] ∧ (treed 1 0 0 0).dev.env.dead = [] ∧ (treed 1 0 0 0).dev.wide64 (0xE1004 + 16 * 3) = 2 ^ 20
    ∧ ((treed 1 0 0 0).dev.reg (0xE1008 + 16 * 3)).toNat % 2 = 1 ∧ ((treed 0 0 0 0).dev.reg (0xE1008 + 16 * 3)).toNat % 2 ≠ 1
    ∧ (treed 1 0x101001 0x102001 14).dev.hostNat (2 ^ 20) 8 = 0x101001 ∧ 0x101001 % 2 ^ 12 = 1 ∧ 0x101001 / 2 ^ 12 * 2 ^ 12 = 0x101000
    ∧ (treed 1 0x101001 0x102001 14).dev.hostNat 0x101000 8 = 0x102001 ∧ (treed 1 0x101001 0x102001 14).dev.hostNat 0x102000 8 = 14
    ∧ 14 % 4 = 2 ∧ (treed 1 0x101001 0x102001 14).dev.hole 0 = false ∧ (treed 1 0x101001 0x102001 14).dev.hole (2 ^ 21 - 1) = false := by
  refine ⟨Or.inl ?_, Or.inl ?_, ?_, ?_, ?_, ?_, ?_, ?_, ?_, ?_, ?_, ?_, ?_, ?_, ?_⟩ <;> decide +kernel

theorem witness_Invalidations : mapped.dev.reaches .pcie 0xE0020 = true ∧ mapped.dev.mm.inval = none
    ∧ (with_ mapped (fun d => { d with mm := { d.mm with inval := some (3, false, 0, 1) } })).dev.mm.inval = some (3, false, 0, 1)
    ∧ Quiet mapped.dev 0xE0110 32 := by
  refine ⟨?_, ?_, ?_, Or.inl ?_⟩ <;> decide +kernel

/-- A page request of context 3 for page 5 by a descriptor, under ATS; the time is given, and whether its wait still stands. -/
def asking (lt : Nat) (alive : Bool := true) : State := with_ (working { job (desc 0x500 [(16, 5 * 4096), (24, 4096)]) with phase := .dispatched }) (fun d =>
  let d := (d.setReg 0xE1038 3).setReg 0xE0004 10
  { d with lt := lt, env := { d.env with ats := true }, mm := { d.mm with pri := [⟨3, 5, .work 2, false, 0, 5 * 4096, alive⟩] } })

theorem witness_HostPages : (asking 0).dev.env.ats = true ∧ (asking 0).dev.mm.atc.length < 16384 ∧ (asking 0).dev.priPending 3 6 = false
    ∧ (with_ (asking 0) (fun d => d.setCluster 0 { Cluster.empty with ctx := some 3, drill := [xfer 0 true] })).dev.runningDrill 3 = some 0
    ∧ ((asking 0).dev.reg (0xE1008 + 16 * 3)).toNat / 2 % 2 = 1 ∧ (asking 0).dev.mm.pri.length < 80 ∧ Quiet (asking 0).dev 0xE0108 32
    ∧ (asking 0).dev.mm.pri.find? (fun p => p.ctx = 3 && p.page = 5) = some ⟨3, 5, .work 2, false, 0, 5 * 4096, true⟩
    ∧ ((asking 0 false).dev.mm.pri.find? (fun p => p.ctx = 3 && p.page = 5)).map (·.alive) = some false
    ∧ (∀ p ∈ (asking 0).dev.mm.pri, p.who ≠ .drill 0)
    ∧ dOp (desc 0x500 []) = 0x500 ∧ ((asking 0).dev.ctx 3).noRing = true ∧ 0 + 100 * (((asking 0).dev.reg 0xE0004).toNat % 1024) = 1000
    ∧ (asking 1000).dev.lt = 1000 ∧ (asking 999).dev.lt < 1000 := by
  refine ⟨?_, ?_, ?_, ?_, ?_, ?_, Or.inl ?_, ?_, ?_, ?_, ?_, ?_, ?_, ?_, ?_⟩ <;> decide +kernel

/-- Group 0 in a state. -/
def grouped (x : Group) : State := with_ live (fun d => { d with mm := { d.mm with groups := [(0, x)] } })

theorem witness_GroupCommands : (grouped Group.empty).dev.reaches .pcie 0xC0040 = true ∧ (grouped { Group.empty with state := .degraded }).dev.walkInto 0 = false
    ∧ NoneUnsaved (grouped { Group.empty with state := .selfRefresh }).dev ∧ (grouped { Group.empty with state := .training }).dev.on 84 = true
    ∧ (with_ (grouped { Group.empty with state := .active, map := [0] }) (fun d => { d with mm := { d.mm with inval := none }, fl := { d.fl with chans := [(0, 2)] } })).dev.chanState 0 = 2
    ∧ (grouped { Group.empty with state := .training, filling := true }).dev.group 0 = { Group.empty with state := .training, filling := true }
    ∧ (grouped { Group.empty with state := .training, trained := true }).dev.group 0 = { Group.empty with state := .training, trained := true }
    ∧ (grouped { Group.empty with state := .active }).dev.groupOut 0 = 0
    ∧ (with_ (treed 1 0x101001 0x102001 14) (fun d => { d with mm := { d.mm with walks := [⟨3, 1, 0, 14⟩] } })).dev.walkInto 0 = true
    ∧ (live.dev.lt % (100000000 * Nat.max 1 ((live.dev.reg 0xC000C).toNat / 2 ^ 16)) = 0) := by
  refine ⟨?_, ?_, ?_, ?_, ?_, ?_, ?_, ?_, ?_, ?_⟩ <;> first | decide +kernel | (unfold NoneUnsaved; decide +kernel)

/-- Its engine is at the last block of its lap. -/
def lapping : State :=
  with_ mapped (fun d => (d.setReg 0xC0880 1).modGlean 2 (fun x => { x with pos := (d.group 0).bytes / 64 - 1, run := true }))

theorem witness_GleanCorrects : mapped.dev.on 95 = true ∧ mapped.dev.gleanMode 2 ≠ 0 ∧ (mapped.dev.glean 2).pos = 0 ∧ (mapped.dev.group 0).state = .active
    ∧ mapped.dev.on 84 = true ∧ 0 + 1 < (mapped.dev.group 0).bytes / 64 ∧ mapped.dev.granPar 0 = .clean ∧ (mapped.dev.chan 0).hold = false
    ∧ Quiet mapped.dev 0xC0100 32 ∧ Quiet mapped.dev (0xC081C + 0x40 * 2) 32 ∧ mapped.dev.gleanMode 1 ≠ 0
    ∧ mapped.dev.setLines 1 0 0 = [] ∧ mapped.dev.mm.tags.chk = [] ∧ lapping.dev.gleanMode 2 ≠ 2 ∧ lapping.dev.granPar ((mapped.dev.group 0).bytes / 64 - 1) = .clean
    ∧ (lapping.dev.glean 2).pos + 1 = (lapping.dev.group 0).bytes / 64 := by
  refine ⟨?_, ?_, ?_, ?_, ?_, ?_, ?_, ?_, Or.inl ?_, Or.inl ?_, ?_, ?_, ?_, ?_, ?_, ?_⟩ <;> decide +kernel

/-- A page or scrub descriptor at an address, of a length. -/
def pageJob (op addr len : Nat) : State := working { job (desc op [(16, addr), (24, len)]) with phase := .dispatched }
/-- What the first translation of a page descriptor is: 1 host, 2 granary, 3 fault, 4 a wait. -/
def touchIs (s : State) (addr : Nat) : Nat :=
  match (s.dev.xlate 3 none .both (some (.work 2)) addr false).2 with | .host _ => 1 | .gran _ _ _ => 2 | .fault _ => 3 | .wait => 4

theorem witness_PageDescriptors : touchIs (pageJob 0x500 0x3000 4096) 0x3000 = 1 ∧ touchIs (pageJob 0x500 (2 ^ 30) 4096) (2 ^ 30) = 2
    ∧ touchIs (pageJob 0x500 (2 ^ 40) 4096) (2 ^ 40) = 3 ∧ touchIs (asking 0) (5 * 4096) = 4
    ∧ ((pageJob 0x500 (2 ^ 40) 4096).dev.xlate 3 none .both (some (.work 2)) (2 ^ 40) false).1.work 2 = (pageJob 0x500 (2 ^ 40) 4096).dev.work 2
    ∧ (match (pageJob 0x501 (2 ^ 30) 128).dev.scrubAll ((job (desc 0x501 [])).acc 2 .granary) (2 ^ 30) 2 0 0 with | .ok _ n => n | _ => 99) = 0
    ∧ (match (pageJob 0x501 (2 ^ 40) 128).dev.scrubAll ((job (desc 0x501 [])).acc 2 .granary) (2 ^ 40) 2 0 0 with | .fault _ _ a => a | _ => 99) = 2 ^ 40 := by
  refine ⟨?_, ?_, ?_, ?_, ?_, ?_, ?_⟩ <;> decide +kernel

/-- A port enabled or not, in a state. -/
def ported (p : Nat) (x : Port) : State := with_ live (fun d => d.setPort p x)

theorem witness_PortEnabling : FabClear (ported 0 Port.empty).dev ∧ live.dev.reaches .pcie (portBase 0) = true
    ∧ (live.dev.port 0).en = false ∧ (live.dev.port 0).state = .disabled ∧ dimOfRole (live.dev.roleOf 7) = 1 ∧ live.dev.dimSize (dimOfRole (live.dev.roleOf 7)) = 1
    ∧ dimOfRole (live.dev.roleOf 0) = 0
    ∧ live.dev.roleOf 17 = 31 ∧ live.sec.lic.testBit 2 = false
    ∧ 8 ≤ ((List.range 18).filter (fun q => ((with_ live (fun d => { d with fab := { d.fab with
        ports := (List.range 8).map (fun q => (q + 1, { Port.empty with en := true })) } })).dev.port q).en)).length
    ∧ ((ported 0 { Port.empty with en := true, state := .up }).dev.port 0).tx = []
    ∧ (∀ k, k ≠ 0 → ((ported 0 { Port.empty with en := true, state := .up }).dev.port k).state ≠ .up) := by
  refine ⟨⟨rfl, rfl, rfl, rfl⟩, ?_, ?_, ?_, ?_, ?_, ?_, ?_, ?_, ?_, ?_, ?_⟩ <;>
    first
    | decide +kernel
    | (intro k h; cases k with
        | zero => exact absurd rfl h
        | succ n => exact fun e => by cases e)

/-- Port 0 in a state after some failed attempts, since LT 0, with lanes, at a time. -/
def training (st : LState) (attempts lt : Nat) : State :=
  with_ (ported 0 { Port.empty with en := true, state := st, attempts := attempts, lanes := 255, peerLanes := 255, width := 8 }) (fun d => { d with lt := lt })

theorem witness_PortTraining : FabClear (training .up 0 0).dev ∧ (training .up 0 0).dev.portOn 0 = true ∧ Quiet (training .up 0 0).dev (portBase 0 + 0x64) 32
    ∧ ((training .training 2 0).dev.port 0).attempts = 2 ∧ (training .training 0 0).dev.peerOf ((training .training 0 0).dev.roleOf 0) = (1, 0)
    ∧ ((training .training 0 0).dev.port 0).rejoin = false ∧ ((training .training 0 0).dev.port 0).links = []
    ∧ aligned 255 ((List.range 8).map (fun l => ⟨BitVec.ofNat 64 (syncBlock l 3), 100 + l⟩)) = true ∧ aligned 1 [⟨BitVec.ofNat 64 (syncBlock 0 3), 100⟩] = true
    ∧ aligned 3 [⟨BitVec.ofNat 64 (syncBlock 0 3), 100⟩, ⟨BitVec.ofNat 64 (syncBlock 1 3), 2149⟩] = false
    ∧ (training .up 0 0).dev.col.slots = [] ∧ (training .up 0 0).dev.upd.jobs = []
    ∧ ones ((255 : Byte).toNat &&& (255 &&& 255)) 8 = 8 ∧ ones ((1 : Byte).toNat &&& (255 &&& 255)) 8 = 1
    ∧ ((training .retraining 0 0).dev.reg 0x8001C).toNat / 2 ^ 8 % 16 = 4 ∧ ones ((0 : Byte).toNat &&& (255 &&& 255)) 8 = 0
    ∧ 0 + 100000 * (((training .quiesced 0 0).dev.reg 0x8001C).toNat / 2 ^ 16) ≤ (training .quiesced 0 100000000).dev.lt
    ∧ (training .quiesced 0 1).dev.lt < 0 + 100000 * (((training .quiesced 0 0).dev.reg 0x8001C).toNat / 2 ^ 16) := by
  refine ⟨⟨rfl, rfl, rfl, rfl⟩, ?_, Or.inl ?_, ?_, ?_, ?_, ?_, ?_, ?_, ?_, ?_, ?_, ?_, ?_, ?_, ?_, ?_, ?_⟩ <;> decide +kernel

/-! ## Witnesses: links, packets, collectives -/

/-- A sound flit of a sequence number with no packets. -/
def flit (seq flags : Nat) : Flit := ⟨flitBytes seq (List.replicate 512 0) flags, []⟩

theorem crcBit_lt (c : Nat) (h : c < 2 ^ 24) : crcBit c < 2 ^ 24 := by
  unfold crcBit bitOf
  split
  · exact Nat.xor_lt_two_pow (Nat.mod_lt _ (by decide)) (by decide)
  · rename_i k
    simp only [decide_eq_true_eq] at k
    omega

theorem iter_crcBit_lt (n : Nat) : ∀ c, c < 2 ^ 24 → iter crcBit n c < 2 ^ 24 := by
  induction n with
  | zero => exact fun _ h => h
  | succ n ih => exact fun c h => ih _ (crcBit_lt c h)

theorem crc24_lt (bs : List Byte) : crc24 bs < 2 ^ 24 := by
  suffices h : ∀ c, c < 2 ^ 24 → bs.foldl (fun c b => iter crcBit 8 (c ^^^ (b.toNat * 2 ^ 16))) c < 2 ^ 24 from h _ (by decide)
  induction bs with
  | nil => exact fun _ h => h
  | cons b bs ih =>
    exact fun c h => ih _ (iter_crcBit_lt 8 _ (Nat.xor_lt_two_pow h (by have := b.isLt; omega)))

/-- A flit built by `flitBytes` has 516 bytes, its FLAGS at byte 512, and its own CRC. -/
theorem flitBytes_sound (z : List Byte) (h : z.length = 512) (seq flags : Nat) :
    (flitBytes seq z flags).length = 516 ∧ leNat ((flitBytes seq z flags).drop 513) = flitCrc seq ((flitBytes seq z flags).take 513)
      ∧ (flitBytes seq z flags).getD 512 0 = BitVec.ofNat 8 flags := by
  have n : (z ++ [BitVec.ofNat 8 flags]).length = 513 := by rw [List.length_append, h]; rfl
  have c := crc24_lt (BitVec.ofNat 8 (seq / 256) :: BitVec.ofNat 8 seq :: (z ++ [BitVec.ofNat 8 flags]))
  refine ⟨?_, ?_, ?_⟩
  · rw [flitBytes, List.length_append, n]; rfl
  · rw [flitBytes, List.drop_left' n, List.take_left' n]
    change flitCrc seq (z ++ [BitVec.ofNat 8 flags]) < _ at c
    generalize flitCrc seq (z ++ [BitVec.ofNat 8 flags]) = x at *
    simp only [natLe, leNat, BitVec.toNat_ofNat]
    omega
  · rw [flitBytes, List.getD_append _ _ _ _ (by omega), List.getD_append_right _ _ _ _ (by omega), h]; rfl

/-- Port 0 UP with a count of unreported flits since LT 0 and, where told, a replay awaited. -/
def linked (unrep : Nat) (waiting : Bool) (lt : Nat) : State :=
  with_ (ported 0 { Port.empty with
    en := true, state := .up, unrep := unrep, unrepLt := some 0, waiting := waiting, tally := [(2, 5)]
    lanes := 255, peerLanes := 255, width := 8, active := 255 }) (fun d => { d.setReg 0x80018 5 with lt := lt })

theorem witness_Flits : (linked 0 false 0).dev.portOn 0 = true ∧ ((linked 0 false 0).dev.port 0).state = .up
    ∧ (∀ l, Tbl.get ((linked 0 false 0).dev.port 0).tally l 0 ≤ ((linked 0 false 0).dev.reg 0x80018).toNat)
    ∧ (∀ flags, (flit 0 flags).bytes.length = 516 ∧ leNat ((flit 0 flags).bytes.drop 513) = flitCrc 0 ((flit 0 flags).bytes.take 513)
        ∧ (flit 0 flags).bytes.getD 512 0 = BitVec.ofNat 8 flags)
    ∧ (BitVec.ofNat 8 2).toNat.testBit 1 = true ∧ (BitVec.ofNat 8 1).toNat.testBit 0 = true
    ∧ 15 < ((List.range 16).eraseDups).length ∧ ((List.range 15).eraseDups).length ≤ 15 ∧ (codewordIn 0).isSome = true ∧ codewordEdge 0 = true
    ∧ codewordEdge 1 = false ∧ (codewordIn 5).isSome = false ∧ ((linked 0 false 0).dev.port 0).badRun < 7 ∧ ((linked 62 false 0).dev.port 0).unrep < 63
    ∧ 0 + 10 ≤ (linked 0 false 10).dev.lt ∧ (linked 0 false 9).dev.lt < 0 + 10 ∧ (linked 0 false 0).dev.lt % 1000000000 = 0 := by
  refine ⟨?_, ?_, fun l => ?_, fun f => flitBytes_sound _ List.length_replicate 0 f, ?_, ?_, ?_, ?_, ?_, ?_, ?_, ?_, ?_, ?_, ?_, ?_, ?_⟩
  case refine_3 =>
    obtain h | ⟨e, he, h⟩ := get_cases ((linked 0 false 0).dev.port 0).tally l 0
    · rw [h]; exact Nat.zero_le _
    · have he : e = (2, 5) := by simpa using (show e ∈ [(2, 5)] from he)
      rw [h, he]; decide +kernel
  all_goals decide +kernel

/-- Six symbols in error: one on lane 2, five on lane 1. -/
def spoiled : List Nat := [2, 1, 9, 17, 25, 33]

theorem witness_LaneTally : (255 &&& 255).testBit 2 = true ∧ spoiled.eraseDups.length ≤ 15
    ∧ 5 < min 0xFFFFFFFF (Tbl.get ((linked 0 false 0).dev.port 0).tally 2 0 + (spoiled.filter (fun e => laneOfSymbol 255 e = 2)).length)
    ∧ (∀ j, j < 8 → j ≠ 2 →
        min 0xFFFFFFFF (Tbl.get ((linked 0 false 0).dev.port 0).tally j 0 + (spoiled.filter (fun e => laneOfSymbol 255 e = j)).length) ≤ 5)
    ∧ ((linked 0 false 0).dev.port 0).laneDone = false ∧ (linked 0 false 0).dev.col.slots = [] ∧ (linked 0 false 0).dev.upd.jobs = []
    ∧ (with_ live (fun d => { d with lt := 5, fab := { d.fab with quiet := some 5 } })).dev.fab.quiet = some 5 := by
  refine ⟨?_, ?_, ?_, ?_, ?_, ?_, ?_, ?_⟩ <;> decide +kernel

/-- A LINK record of flags and a sequence number. -/
def link (flags seq : Nat) : Packet := ⟨BitVec.ofNat 256 (1 + 2 ^ 32 * seq + 2 ^ 48 * flags), []⟩

theorem witness_LaneRetire : (link 16 3).hdr.toNat / 2 ^ 56 % 2 ^ 8 = 0 ∧ (⟨(link 16 3).hdr ||| BitVec.ofNat 256 (4 * 2 ^ 56), []⟩ : Packet).hdr.toNat / 2 ^ 56 % 2 ^ 8 = 4
    ∧ 4 &&& (((linked 0 false 0).dev.port 0).lanes &&& ((linked 0 false 0).dev.port 0).peerLanes) ≠ 0 := by
  refine ⟨?_, ?_, ?_⟩ <;> decide +kernel

theorem witness_LinkRecords : ∀ flags ∈ [1, 2, 4, 8, 16], (link flags 3).type = 1 ∧ (link flags 3).broken = false ∧ (link flags 3).f 55 48 = flags
    ∧ (link flags 3).f 47 32 = 3 := by decide +kernel

theorem witness_RetryLimit : ((linked 0 false 0).dev.reg 0x8001C).toNat % 16 = 8 ∧ ((ported 0 { Port.empty with state := .quiesced }).dev.port 0).tx = []
    ∧ ((ported 0 { Port.empty with state := .quiesced }).dev.port 0).state = .quiesced := by
  refine ⟨?_, ?_, ?_⟩ <;> decide +kernel

/-- A packet of a type, VC, length in units, OP, destination, source and rest. -/
def packet (type vc op dst src : Nat) (fs : List (Nat × Nat)) (data : List Rec64) : Packet :=
  ⟨BitVec.ofNat 256 ((fs ++ [(0, type), (4, vc), (8, data.length), (176, op), (32, dst), (64, src)]).foldl (fun (x : Nat) (f : Nat × Nat) => x + f.2 * 2 ^ f.1) 0), data⟩

/-- A fabric of one torus position whose yoke port 0 is UP and has received packets; every position is in partition 0. -/
def joined (rx : List Packet) : State := with_ (ported 0 { Port.empty with en := true, state := .up, width := 8, rx := rx }) (fun d => d.setReg 0x83004 0x80FF0000)

theorem witness_Routing : (joined []).dev.receives 0 = true ∧ FabClear (joined []).dev
    ∧ (match (joined []).dev.route none (packet 3 0 0x10 1 0 [] []) false with | .out q dl => (q, dl) | _ => (99, true)) = (0, false)
    ∧ (match (joined []).dev.route none (packet 3 0 0x10 2 0 [] []) false with | .dead => true | _ => false) = true
    ∧ (match (joined []).dev.route none (packet 3 0 0x10 0 0 [] []) false with | .here => true | _ => false) = true
    ∧ (packet 3 0 0x10 2 1 [] []).broken = false ∧ (packet 3 1 0x10 2 1 [] []).broken = true ∧ (packet 6 1 1 2 1 [] [0]).broken = false
    ∧ Quiet (joined []).dev 0x80054 32 ∧ Quiet (joined []).dev (portBase 0 + 0x70) 32 ∧ (joined []).dev.fab.ports.all (fun e => e.2.tx.isEmpty) = true
    ∧ (joined []).dev.inDomain 1 = true := by
  refine ⟨?_, ⟨rfl, rfl, rfl, rfl⟩, ?_, ?_, ?_, ?_, ?_, ?_, Or.inl ?_, Or.inl ?_, ?_, ?_⟩ <;> decide +kernel

/-- A transaction of a shard unit's job is outstanding under tag 7. -/
def awaiting (type tries lt : Nat) : State := with_ (joined []) (fun d => { d with
  lt := lt, fab := { d.fab with tags := [(7, ⟨packet type 0 0x10 1 0 [(16, 7)] [], 2, 0, tries⟩)] } })

theorem witness_Transactions : (∀ k, 1 ≤ k → k ≤ 3 → coordOf 1 k < (joined []).dev.dimSize k) ∧ (joined []).dev.inPart 1 = true
    ∧ live.dev.inPart 1 = false ∧ ¬ (coordOf (2 ^ 13) 1 < (joined []).dev.dimSize 1)
    ∧ (packet 5 0 1 0 1 [(16, 7)] []).broken = false ∧ (packet 4 2 0 0 1 [(16, 7)] [0]).broken = false ∧ (packet 5 0 1 0 1 [] []).dst = (joined []).dev.addr
    ∧ (packet 5 0 1 0 1 [] []).part = (joined []).dev.part ∧ (packet 5 0 1 0 1 [(82, 1)] []).part ≠ (joined []).dev.part
    ∧ (Tbl.find (awaiting 2 0 0).dev.fab.tags 7).map (fun x => (x.pkt.type, x.work, x.tries)) = some (2, 2, 0)
    ∧ 0 < ((awaiting 2 0 0).dev.reg 0x160028).toNat % 8
    ∧ (match (awaiting 2 0 0).dev.route none (packet 2 0 0x10 1 0 [(16, 7)] []) false with | .out _ _ => true | _ => false) = true
    ∧ 0 + 100 * (((awaiting 2 0 0).dev.reg 0x80014).toNat % 2 ^ 24) ≤ (awaiting 2 0 (10 ^ 9)).dev.lt
    ∧ 0 + 100000 * (((awaiting 2 1 0).dev.reg 0x160028).toNat / 2 ^ 16) ≤ (awaiting 2 1 (10 ^ 9)).dev.lt
    ∧ (awaiting 2 0 0).dev.fab.quiet = none
    ∧ Quiet (joined []).dev 0x80044 32 ∧ Quiet (joined []).dev 0x80050 32 := by
  refine ⟨?_, ?_, ?_, ?_, ?_, ?_, ?_, ?_, ?_, ?_, ?_, ?_, ?_, ?_, ?_, Or.inl ?_, Or.inl ?_⟩ <;> decide +kernel

/-- A slot of tag 2 and context 3 that runs a phase, for JOB 4 and COLL_ID 5. -/
def slot (k need : Nat) : Slot :=
  { tag := 2, ctx := 3, job := 4, id := 5, k := k, need := need, parts := [], later := [], flags := 0, sum := 0, placed := [], lastIn := decide (need = 0)
    isOver := false, act := 0, thr := [], thrTicks := [], cause := 0, warned := false }

/-- A collective descriptor: FP16 in and out, SRC, DST, ELEMS, DIM[0] with n members of a dimension from 0. -/
def collDesc (op src dst elems n dim : Nat) : Rec64 :=
  desc op [(16, src), (24, dst), (32, elems), (36, 5), (38, 5), (39, 5), (40, dim + 2 ^ 7 * (n - 1) + 2 ^ 15)]

/-- A collective packet of an OP from member 1 of the yoke, JOB 4, COLL_ID 5, at a step; port 0 has received it. -/
def collPkt (op step seq : Nat) : Packet := packet 6 1 op 0 1 [(96, seq), (144, 5), (160, step), (184, 8)] [0, 0]

/-- That packet at port 0; the collective of tag 2 in slot 0 where told; the newest COLL_ID armed for JOB 4 and the units held early. -/
def colling (pkt : Packet) (d : Rec64) (sl : Option Slot) (armed : Tbl Nat) (held : List Packet) : State :=
  let s := joined [pkt]
  with_ { s with dev := { s.dev with hq := (working { job d with phase := .dispatched }).dev.hq, mm := mapped.dev.mm } } (fun d => { d.setReg (offXltCfg 3) 1 with col := { d.col with
    slots := (match sl with | some x => [(0, x)] | none => []), armed := armed, early := held } })

theorem witness_CollectivePackets : (∀ op ∈ [0, 1, 2, 0x80, 0x81, 0x82, 0x83], (collPkt op 0 0).type = 6 ∧ (collPkt op 0 0).op = op
      ∧ (collPkt op 0 0).broken = false ∧ (collPkt op 0 0).dst = (joined []).dev.addr ∧ (collPkt op 0 0).part = (joined []).dev.part
      ∧ (joined []).dev.inPart (collPkt op 0 0).src = true)
    ∧ (joined []).dev.rs.run = none ∧ newer (collPkt 0 0 (2 ^ 32 - 1)).seq 0 = false ∧ (collPkt 0 0 (2 ^ 32 - 1)).seq ≠ 0
    ∧ (colling (collPkt 0 0 0) 0 none [(4, 5)] []).dev.slotFor (collPkt 0 0 0) = none ∧ newer16 (collPkt 0 0 0).collId 4 = true
    ∧ newer16 (collPkt 0 0 0).collId 5 = false ∧ (collPkt 0 0 0).flow / 2 = 4 ∧ (collPkt 0 0 0).len = 2
    ∧ ((List.replicate 8191 (collPkt 0 0 0)).map (·.len)).sum + 2 ≤ 16384 ∧ 16384 < ((List.replicate 8192 (collPkt 0 0 0)).map (·.len)).sum + 2
    ∧ Quiet (joined []).dev 0x80048 32 ∧ Quiet (joined []).dev 0x140048 32 ∧ Quiet (joined []).dev 0x14004C 32 := by
  refine ⟨?_, ?_, ?_, ?_, ?_, ?_, ?_, ?_, ?_, ?_, ?_, Or.inl ?_, Or.inl ?_, Or.inl ?_⟩ <;> decide +kernel

/-- An ALL_REDUCE over two members of the yoke of 64 elements: its reduce phase (code 0), then its gather phase (code 4). -/
def twoAll : Rec64 := collDesc 0x600 (2 ^ 30) (2 ^ 30 + 4096) 64 2 0

theorem witness_SlotPackets : ((colling (collPkt 0 0 0) twoAll (some (slot 1 32)) [] []).dev.slotFor (collPkt 0 0 0)).map (·.1) = some 0
    ∧ ((joined []).dev.phases twoAll).map (·.code) = [0, 4] ∧ (collPkt 0 0 0).step / 8192 = 0 ∧ (collPkt 1 32768 0).step / 8192 = 4
    ∧ ((colling (collPkt 0 0 0) twoAll (some (slot 2 32)) [] []).dev.slotFor (collPkt 0 0 0)).map (fun e => decide (0 + 1 < e.2.k)) = some true
    ∧ (match ((joined []).dev.phases twoAll)[0]? with
        | none => false
        | some ph => let s := colling (collPkt 0 0 0) twoAll (some (slot 1 32)) [] []
          (Dev.colResolve 2 ((s.dev.consumePkt 0 2 twoAll ph (collPkt 0 0 0)).bind (fun d _ => Dev.advanceSlot 2 twoAll 0 12 d))).isSome) = true
    ∧ ((colling (collPkt 2 0 0) twoAll (some (slot 1 32)) [] []).dev.slotFor (collPkt 2 0 0)).isSome = true := by
  refine ⟨?_, ?_, ?_, ?_, ?_, ?_, ?_⟩ <;> decide +kernel

/-- A reduce phase over the members of a dimension. -/
def redPh (dim n : Nat) : Ph := ⟨.reduce, 0, 0, ⟨dim, 0, n⟩, 0, 64⟩
/-- A descriptor whose reduction is a tree. -/
def treed_ (x : Rec64) : Rec64 := BitVec.ofNat 512 (x.toNat + 2 ^ (8 * 39 + 4))
/-- One contribution that waits in the slot, from a member. -/
def waitingPart (who : Nat) : Option Slot := some ({ slot 1 32 with parts := [Sys2Proof.Machine.Part.mk who 0 [0] [false]] } : Slot)
/-- Whether the own contribution to a packet's run can be read, with the packet added to the slot's parts where told. -/
def mineOk (s : State) (x : Rec64) (ph : Ph) (more : Option Nat) : Bool :=
  let d := match more with
    | none => s.dev
    | some who => s.dev.modSlot 0 (fun y => { y with parts := y.parts ++ [Sys2Proof.Machine.Part.mk who (collPkt 0 0 0).addr (unitWords (collPkt 0 0 0) (ph.count x (collPkt 0 0 0)))
        (unitBad (collPkt 0 0 0) (ceilDiv (ph.count x (collPkt 0 0 0)) 16))] })
  match (d.mine (d.colAcc 2) x ph (collPkt 0 0 0).addr (ph.count x (collPkt 0 0 0))).co with | .ok _ _ => true | _ => false

theorem witness_ReductionOrder : mineOk (colling (collPkt 0 0 0) (collDesc 0x601 (2 ^ 30) (2 ^ 30) 64 2 1) (some (slot 1 32)) [] []) (collDesc 0x601 (2 ^ 30) (2 ^ 30) 64 2 1) (redPh 1 2) none = true
    ∧ cTree (collDesc 0x601 0 0 64 2 1) = false ∧ cTree (treed_ (collDesc 0x601 0 0 64 2 1)) = true
    ∧ mineOk (colling (packet 6 1 0 0 2 [] [0, 0]) (collDesc 0x601 (2 ^ 30) (2 ^ 30) 64 3 0) (waitingPart 1) [] []) (collDesc 0x601 (2 ^ 30) (2 ^ 30) 64 3 0) (redPh 0 3) (some 2) = true
    ∧ (joined []).dev.dimIndex ⟨0, 0, 3⟩ (packet 6 1 0 0 2 [] [0, 0]).src = (0 + 2) % 3 ∧ (joined []).dev.dimIndex ⟨0, 0, 3⟩ (joined []).dev.addr = 0
    ∧ (joined []).dev.dimIndex ⟨0, 0, 4⟩ (packet 6 1 0 0 2 [] []).src = 2 ∧ (joined []).dev.dimIndex ⟨1, 0, 1⟩ (collPkt 0 0 0).src = 0
    ∧ mineOk (colling (collPkt 0 0 0) (treed_ (collDesc 0x601 (2 ^ 30) (2 ^ 30) 64 4 0)) (waitingPart 1) [] []) (treed_ (collDesc 0x601 (2 ^ 30) (2 ^ 30) 64 4 0)) (redPh 0 4) (some 2) = true
    ∧ (match (colling (collPkt 0 0 0) 0 (some (slot 1 2)) [] []).dev.colWrite ((colling (collPkt 0 0 0) 0 (some (slot 1 2)) [] []).dev.colAcc 2) (2 ^ 30)
        (collPkt 0 0 0).payload (fun _ => false) with | .ok _ _ => true | _ => false) = true := by
  refine ⟨?_, ?_, ?_, ?_, ?_, ?_, ?_, ?_, ?_, ?_⟩ <;> decide +kernel

/-- A collective alone in its group, dispatched, its slot at the start. -/
def alone (x : Rec64) : State := with_ (colling (collPkt 0 0 0) x (some (slot 0 0)) [] []) (fun d => d.setCtx 3 { d.ctx 3 with mask := 1 })
/-- Its parts: the work, the slot, and whether every step of the one contribution keeps what the statement asks. -/
def aloneOk (x : Rec64) : Bool :=
  let s := alone x
  let d0 := s.dev.modSlot 0 (fun y => { y with k := 1 })
  let begun (e y : Dev) : Bool := decide (y.work 2 = s.dev.work 2) && decide (y.col = e.col) && decide (y.regs = s.dev.regs)
    && decide (y.fab = s.dev.fab)
  match d0.inputVals (s.dev.colAcc 2) x 0 (fieldB x 32 4) with
  | .ok e1 r => begun d0 e1 && (match e1.colWrite (s.dev.colAcc 2) (fieldB x 24 8)
      (packElems (fmtBits (cOut x)) (r.1.map (fun w => (convert (cOut x) (cSat x) (f32 w)).code))) (fun k => r.2.getD (8 * k / fmtBits (cOut x) / 16) false) with
    | .ok e2 _ => begun d0 e2 | _ => false)
  | _ => false

theorem witness_CollectiveDescriptors : (alone (collDesc 0x601 (2 ^ 30) (2 ^ 30 + 4096) 64 1 1)).dev.running 2 0x601
        = (alone (collDesc 0x601 (2 ^ 30) (2 ^ 30 + 4096) 64 1 1)).dev.work 2
    ∧ ((alone (collDesc 0x601 (2 ^ 30) (2 ^ 30 + 4096) 64 1 1)).dev.work 2).map (fun v => (v.marked, v.unreachable, v.phase)) = some (false, false, .dispatched)
    ∧ ((alone (collDesc 0x601 (2 ^ 30) (2 ^ 30 + 4096) 64 1 1)).dev.slotOf 2).map (fun e => (e.1, e.2.k, e.2.isOver, e.2.lastIn, e.2.need)) = some (0, 0, false, true, 0)
    ∧ dimsOf (collDesc 0x600 (2 ^ 30) (2 ^ 30 + 4096) 64 1 1) = [⟨1, 0, 1⟩] ∧ cScale (collDesc 0x600 0 0 64 1 1) = 0 ∧ cOut (collDesc 0x600 0 0 64 1 1) = 5
    ∧ aloneOk (collDesc 0x601 (2 ^ 30) (2 ^ 30 + 4096) 64 1 1) = true ∧ aloneOk (collDesc 0x600 (2 ^ 30) (2 ^ 30 + 4096) 64 1 1) = true
    ∧ (slot 1 32).isOver = false ∧ (slot 1 32).lastIn = false ∧ (alone 0).dev.fab.ports.all (fun e => e.2.tx.isEmpty) = true
    ∧ ((colling (collPkt 0 0 0) twoAll (some (slot 1 32)) [] []).dev.slotOf 2).map (·.1) = some 0
    ∧ 0 + 100000 * (((alone 0).dev.reg 0x140004).toNat % 2 ^ 16) ≤ 10 ^ 9 := by
  refine ⟨?_, ?_, ?_, ?_, ?_, ?_, ?_, ?_, ?_, ?_, ?_, ?_, ?_⟩ <;> decide +kernel

/-- A PERMUTE of one segment: its list entry names 64 bytes at 2^30 for member 0 at offset 0. -/
def permuting : State := with_ (alone (collDesc 0x603 (2 ^ 30 + 8192) (2 ^ 30 + 4096) 1 1 1)) (fun d =>
  { d with mm := { d.mm with gran := { d.mm.gran with data := Mem.write d.mm.gran.data 8192 (natLe 8 (2 ^ 30) ++ natLe 8 0 ++ natLe 4 64) } } })
/-- Whether its entry is read as written, its segment read and placed. -/
def permuteOk : Bool :=
  let d0 := permuting.dev.modSlot 0 (fun y => { y with k := 1 })
  match d0.engRead (permuting.dev.colAcc 2) 5 (2 ^ 30 + 8192) 32 with
  | .ok e1 bs => decide (leNat bs = 2 ^ 30 + 2 ^ 128 * 64) && (match e1.colRead (e1.colAcc 2) (2 ^ 30) 64 with
      | .ok e2 r => (match ({ e2 with fresh := e2.fresh + 1 } : Dev).colWrite (e2.colAcc 2) (2 ^ 30 + 4096) r.1 r.2 with
        | .ok e3 _ => decide (e3.work 2 = permuting.dev.work 2) && decide (e3.col = d0.col) && decide (e3.regs = permuting.dev.regs)
            && decide (e3.fab = permuting.dev.fab) | _ => false)
      | _ => false)
  | _ => false

theorem witness_Permute : permuteOk = true := by decide +kernel

theorem witness_ColCtxJob : live.dev.reaches .pcie (offColJob 3) = true ∧ (0x104 : Word).toNat / 256 % 2 = 1
    ∧ (∃ e ∈ (live.dev.setCtx 4 { Ctx.empty with job := some 4 }).hq.ctxs, e.1 ≠ 3 ∧ e.2.job = some 4)
    ∧ ((live.dev.setReg (offColJob 5) 0x104).reg (offColJob 5)).toNat / 256 % 2 = 1
    ∧ (∀ e ∈ live.dev.hq.ctxs, e.2.job = none) := by
  refine ⟨?_, ?_, ⟨(4, _), List.mem_singleton.2 rfl, ?_, rfl⟩, ?_, ?_⟩ <;> decide +kernel

/-! ## Witnesses: the update engine -/

/-- Whether an access came to its end. -/
def okMv {α : Type} (m : Mv α) : Bool := match m with | .ok _ _ => true | _ => false

/-- A line of half 0 that the cache holds, clean, with its bytes. -/
def held_ (num : Nat) (m : Mem) : Line :=
  let at_ := locOf 0 0 num
  ⟨num, at_.1, at_.2.1, at_.2.2, 0, false, 3, 0, 0, false, ⟨m, []⟩⟩
/-- Bytes that are not 0. -/
def bytes_ (xs : List (Nat × Nat)) : Mem := (xs.filter (fun (e : Nat × Nat) => e.2 != 0)).map (fun (e : Nat × Nat) => (e.1, BitVec.ofNat 8 e.2))

/-- The cache lines of the engine: the step records at 2^30 + 2^15, whose step 5 has a state and a decision; the first shard record at 2^30 + 2^16 with ROLE,
STEP_FLAGS, STEP, a number of 256s of ELEMS and a small FOLD; its sums at 2^30 + 2^17 and its slots from 2^30 + 2^18 and 2^30 + 2^19. -/
def engineLines (role flags step elems fold state decision : Nat) : List Line :=
  held_ 129 (bytes_ [(64, 5), (72, state), (73, decision)])
    :: held_ 256 (bytes_ [(5, elems), (8, role), (17, flags), (26, 4), (27, 64), (34, 8), (35, 64), (48, fold), (64, step), (98, 2), (99, 64)])
    :: [512, 1024, 1025, 1026, 1027, 2048, 2049, 2050, 2051].map (fun n => held_ n [])

/-- The update engine serves context 3: one shard record at DPA 2^16, the step records at DPA 2^15, a step record for step 5 in a state with a decision;
the running core has the given registers and Hopper. -/
def engine (role flags step elems fold state decision : Nat) (regs : Tbl Word) (hop : List Arrival) : State :=
  with_ (running regs) (fun d =>
    let d := ((d.modWork 2 (fun w => { w with lic := 1 })).setReg 0x120004 0x103).setReg 0x120010 1
    let d := d.modCore 0 (fun k => { k with hopper := hop, hopOpen := true })
    { d with wide := Tbl.put (Tbl.put d.wide 0x12000C (2 ^ 30 + 2 ^ 16)) 0x120018 (2 ^ 30 + 2 ^ 15), mm := { d.mm with clWalks := [(0, [⟨3, 2, 1, 14⟩])], lines := engineLines role flags step elems fold state decision } })

/-- An UPDATE word of an OP with SH 1, SI 2 or their like, and TB 0. -/
def uw (op : Nat) (fs : List (Nat × Nat)) : IWord := iw ([(60, 10), (56, op)] ++ fs)

/-- An arrival of 256 zeros. -/
def arrival0 : Arrival := ⟨0, 0, 5, List.replicate 16 blk0⟩

/-- The part after the record is read: whether its ROLE is as told and the record is the one in memory. -/
def recordIs (s : State) (ac : Acc) (role : Nat) : Bool := match s.dev.shard ac 0 with | .ok _ sh => decide (sh.role = role) | _ => false

theorem witness_UpdateInstructions : UpdIssue (engine 1 1 4 1 0 0 0 [] [arrival0]) at0 (uw 0 []) 3 0 0
    ∧ UpdIssue (engine 1 1 4 1 0 0 0 [] []) at0 (uw 1 []) 3 0 1 ∧ UpdIssue (engine 1 1 4 1 0 0 0 [] []) at0 (uw 3 []) 3 0 3
    ∧ ((engine 1 1 4 1 0 0 0 [] [arrival0]).dev.core 0).hopper = [arrival0] ∧ arrival0.data.length = 16 ∧ (∀ b ∈ arrival0.data, b.bytes.length = 64 ∧ b.poison = false)
    ∧ ((engine 1 1 4 1 0 0 0 [] []).dev.shardCount = 1)
    ∧ recordIs (engine 1 1 4 1 0 0 0 [] []) ((engine 1 1 4 1 0 0 0 [] []).dev.coreAcc 0 0 3) 1 = true
    ∧ recordIs (engine 2 1 4 1 0 0 0 [] []) ((engine 2 1 4 1 0 0 0 [] []).dev.coreAcc 0 0 3) 2 = true
    ∧ Issuing (running []) at0 (uw 0 []) 3 0 ∧ bitOf ((running []).dev.licOf 0) 0 = false := by
  refine ⟨?_, ?_, ?_, ?_, ?_, ?_, ?_, ?_, ?_, ?_, ?_⟩ <;> first | decide +kernel | (unfold UpdIssue Issuing Fetched; decide +kernel) | (unfold Issuing Fetched; decide +kernel)

/-- What a STAGE that comes too late writes can be written, and what LOAD_OLD reads can be read. -/
def lateOk : Bool :=
  let s := engine 1 0 4 1 0 0 0 [] []
  let d := s.dev
  let ac := d.coreAcc 0 0 3
  match d.shard ac 0 with
  | .ok e sh => decide (sh.role = 1) && !sh.flag 0 && okMv (e.putShard ac 0 (sh.setFlags 32))
      && (match e.slotVals ac sh sh.epoch 0 with | .ok _ vs => decide (vs.length = 256) | _ => false)
  | _ => false

/-- The ranges that STAGE writes for an OPEN shard can be written. -/
def stageOk : Bool :=
  let s := engine 1 1 4 1 0 0 0 [] []
  let d := s.dev
  let ac := d.coreAcc 0 0 3
  match d.shard ac 0 with
  | .ok e sh => sh.flag 0 && okMv (Mv.each e (fun d r => d.probe ac true (pageStarts r.1 r.2)) ((e.shardAt 0, 128) :: sh.spans (sh.epoch + 1) 0))
      && okMv (e.putVals ac sh (sh.epoch + 1) 0 (sh.step + 1) 0 (List.replicate 256 0)) && okMv (e.putShard ac 0 (sh.put 88 4 (sh.staged + 256)))
  | _ => false

theorem witness_Stage : lateOk = true ∧ stageOk = true ∧ Quiet (engine 1 0 4 1 0 0 0 [] []).dev 0x120110 32 := by
  refine ⟨?_, ?_, Or.inl ?_⟩ <;> decide +kernel

/-- Parameter group 0 with tallies and a run. -/
def groupOf_ (flushed nonzero quiet : Nat) : State := with_ live (fun d => (d.setReg 0x120020 (0x00030000 + 65536 / 2)).modGrp 0 (fun _ => ⟨flushed, nonzero, quiet, false⟩))

theorem witness_WinnowDecision : Quiet (groupOf_ 3 4 1).dev 0x130000 32 ∧ 3 + ((groupOf_ 3 4 1).dev.ctrAt 0x130000).val < 2 ^ 32 - 1
    ∧ ((groupOf_ 3 4 1).dev.reg 0x120020).toNat % 2 ^ 16 * 4 < 65536 * 3 ∧ 65536 * 2 ≤ ((groupOf_ 2 4 1).dev.reg 0x120020).toNat % 2 ^ 16 * 4
    ∧ min 65535 (((groupOf_ 3 4 1).dev.grp 0).quiet + 1) ≠ ((groupOf_ 3 4 1).dev.reg 0x120020).toNat / 2 ^ 16
    ∧ min 65535 (((groupOf_ 3 4 2).dev.grp 0).quiet + 1) = ((groupOf_ 3 4 2).dev.reg 0x120020).toNat / 2 ^ 16 ∧ live.dev.updCtx = none
    ∧ (f32 0x7F800000).isFin = false ∧ (f32 0x40800000).isFin = true := by
  refine ⟨Or.inl ?_, ?_, ?_, ?_, ?_, ?_, ?_, ?_, ?_⟩ <;> decide +kernel

/-- Two arrivals formed for core 0, whose Hopper holds some. -/
def formed (n : Nat) (off : Bool) : State := with_ (engine 1 1 4 1 0 0 0 [] (List.replicate n arrival0)) (fun d =>
  { d with dom := if off then 0 else d.dom, upd := { d.upd with formed := [⟨0, arrival0⟩, ⟨0, arrival0⟩] } })

theorem witness_Arrivals : (formed 15 false).dev.upd.formed.find? (fun f => f.core = 0) = some ⟨0, arrival0⟩ ∧ ((formed 15 false).dev.core 0).hopper.length < 16
    ∧ 16 ≤ ((formed 16 false).dev.core 0).hopper.length ∧ (formed 0 true).dev.on (clusterOf 0) = false ∧ (formed 0 false).dev.on (clusterOf 0) = true
    ∧ (match (formed 15 false).dev.shard ((formed 15 false).dev.updAcc ((formed 15 false).dev.updCtx.getD 0)) 0 with
        | .ok e sh => (({ e with upd := { e.upd with formed := e.upd.formed.erase ⟨0, arrival0⟩ } } : Dev).signal 0 false (sh.hopToken % 32) 1).isSome
        | _ => false) = true
    ∧ ((formed 15 false).dev.rsSlot 5).isNone = true ∧ ((formed 15 false).dev.core 0).hopOpen = true
    ∧ live.dev.upd.formed.find? (fun f => f.core = 0) = none := by
  refine ⟨?_, ?_, ?_, ?_, ?_, ?_, ?_, ?_, ?_⟩ <;> decide +kernel

/-- A HOPPER packet of 256 sums at port 0 for RS_UPDATE of one dimension with two members, whose shard 0 is OPEN. -/
def hopPkt : Packet := packet 7 1 0 0 1 [(144, 5), (184, 8)] (List.replicate 16 0)
/-- Its descriptor. -/
def rsDesc : Rec64 := desc 0x701 [(16, 2 ^ 30 + 2 ^ 18), (26, 1), (32, 256), (36, 5), (38, 5), (39, 5), (40, 2 ^ 7 + 2 ^ 15)]
/-- The part. -/
def hopping : State :=
  let s := colling hopPkt rsDesc (some (slot 1 256)) [] []
  let e := (engine 1 1 4 1 0 0 0 [] []).dev
  with_ s (fun d => { d with regs := Tbl.put (Tbl.put d.regs 0x120004 0x103) 0x120010 1, wide := e.wide, mm := e.mm, gr := e.gr })
/-- Whether the arrival forms and the collective moves on. -/
def hopOk : Bool :=
  let d := (hopping.dev.modSlot 0 (fun x => { x with need := x.need - 256, act := hopping.dev.lt })).markLast 0 2 rsDesc
  match d.formArrival (d.colAcc 2) (cId rsDesc) (cOut rsDesc) (cSat rsDesc) (hopPkt.addr / 2 ^ 32 % 2 ^ 16) (hopPkt.addr % 2 ^ 32) (unitWords hopPkt 256) (unitBad hopPkt 16) with
  | .ok e _ => (Dev.colResolve 2 (Dev.advanceSlot 2 rsDesc 0 12 e)).isSome
  | _ => false

theorem witness_HopperPackets : hopping.dev.receives 0 = true ∧ hopPkt.broken = false ∧ hopPkt.type = 7 ∧ (hopping.dev.slotFor hopPkt).map (·.1) = some 0
    ∧ (hopping.dev.phaseOf rsDesc (slot 1 256)).map (fun ph => (ph.pos + 1, ph.code)) = some (1, hopPkt.step / 8192) ∧ (dimsOf rsDesc).length = 1 ∧ hopping.dev.hopHeld 5 = false
    ∧ hopOk = true := by
  refine ⟨?_, ?_, ?_, ?_, ?_, ?_, ?_, ?_⟩ <;> decide +kernel

/-- A shard unit's descriptor on shard 0 at step 5, dispatched under tag 2 with its job. -/
def unitJob (op : Nat) : Work := { job (desc op [(16, 5), (26, 1)]) with phase := .dispatched }
/-- The reach of the unit that runs it. -/
def unitAcc (op : Nat) : Acc := { (unitJob op).acc 2 .granary with half := (Job.start 0).unit / 2 }
/-- The part that runs it. -/
def uniting (op : Nat) (j : Job) (s : State) : State := with_ s (fun d => { d.setWork 2 (unitJob op) with upd := { d.upd with jobs := [(2, j)] } })

theorem witness_OneShard : (∀ op ∈ [0x700, 0x702, 0x704, 0x705, 0x706, 0x707, 0x708, 0x709, 0x70B], ((uniting op (Job.start 0) queued).dev.running 2 op) = some (unitJob op)
      ∧ fieldB (unitJob op).desc 26 2 = 1)
    ∧ (uniting 0x700 (Job.start 0) queued).dev.job 2 = some (Job.start 0) ∧ (Job.start 0).wait = none ∧ (Job.start 0).i = 0 ∧ (Job.start 0).outcome = 0 := by
  refine ⟨?_, ?_, ?_, ?_, ?_⟩ <;> decide +kernel

/-- A state keeps the descriptor. -/
def keeps (op : Nat) (e : Dev) : Bool := decide (e.work 2 = some (unitJob op))

/-- STEP_OPEN on a record of a role and a step: what it does can be done and the descriptor stays. -/
def openOk (role step : Nat) : Bool :=
  let s := uniting 0x700 (Job.start 0) (engine role 0 step 1 0 0 0 [] [])
  let ac := unitAcc 0x700
  match s.dev.stepRec ac 5 with
  | .ok e r => !r.is 1 5 && (match e.putStep ac 5 (natLe 64 (packB [(0, 5), (8, 1)])) with
    | .ok e _ => keeps 0x700 e && (match (e.setJob 2 ((Job.start 0).to 1)).shard ac 0 with
      | .ok e sh => keeps 0x700 e && decide (sh.role = role) && decide (sh.step = step)
        && (match e.putShard ac 0 sh.opened with | .ok e _ => keeps 0x700 e | _ => false)
      | _ => false)
    | _ => false)
  | _ => false

theorem witness_StepOpen : openOk 1 4 = true ∧ (5 + 2 ^ 64 - 1) % 2 ^ 64 = 4 := by
  refine ⟨?_, ?_⟩ <;> decide +kernel

/-- SEAL and AUDIT of an empty shard: its folds, partial sums and flushes can be taken and the record written. -/
def sealOk (flags fold : Nat) : Bool :=
  let s := uniting 0x702 (Job.start 0) (engine 1 flags 4 0 fold 0 0 [] [])
  let ac := unitAcc 0x702
  match s.dev.shard ac 0 with
  | .ok e sh => keeps 0x702 e && decide (sh.flag 0 = bitOf flags 0) && (match e.foldImage ac sh (sh.epoch + 1) with
    | .ok e f => decide (f = 0) && (match e.foldLow ac sh (sh.epoch + 1) with
      | .ok e fl => decide (fl = 0) && (match e.partials ac sh with
        | .ok e _ => (match e.flushSlots ac sh (sh.epoch + 1) with | .ok e _ => okMv (e.putShard ac 0 sh) | _ => false) | _ => false) | _ => false) | _ => false)
  | _ => false

theorem witness_Seal : sealOk 1 0 = true ∧ sealOk 0 0 = true ∧ Quiet (engine 1 0 4 0 1 0 0 [] []).dev 0x120130 32 := by
  refine ⟨?_, ?_, Or.inl ?_⟩ <;> decide +kernel

/-- COMMIT of step 5 with a decision on a record of flags and a step: the records can be read and the next one written, and the step record reads the same after. -/
def commitOk (flags step elems decision : Nat) : Bool :=
  let s := uniting 0x704 (Job.start 0) (engine 1 flags step elems 0 2 decision [] [])
  let ac := unitAcc 0x704
  match s.dev.stepRec ac 5 with
  | .ok e r => keeps 0x704 e && r.is 2 5 && decide (r.f 9 1 = decision) && (match e.shard ac 0 with
    | .ok e sh => keeps 0x704 e && decide (sh.step = step) && decide (sh.flag 1 = bitOf flags 1)
      && (match e.putShard ac 0 (if decision = 0 then sh.skipped 5 else sh.flipped 5 (sh.f 72 8) (sh.f 80 8)) with
        | .ok e _ => keeps 0x704 e && (match ((counted e 0x120118 32).setJob 2 (Job.start 0).did).stepRec ac 5 with
          | .ok e r' => keeps 0x704 e && decide (r'.bs = r.bs) | _ => false)
        | _ => false)
    | _ => false)
  | _ => false

theorem witness_Commit : commitOk 2 4 1 1 = true ∧ commitOk 2 4 1 0 = true
    ∧ Quiet (engine 1 2 4 1 0 2 1 [] []).dev 0x120118 32 ∧ Quiet (engine 1 2 4 1 0 2 1 [] []).dev 0x12011C 32 := by
  refine ⟨?_, ?_, Or.inl ?_, Or.inl ?_⟩ <;> decide +kernel

/-- WINNOW_RECOVER and JOURNAL_RESOLVE of a member alone. -/
theorem witness_RecoverAndResolve : (uniting 0x705 (Job.start 0) (engine 1 2 4 1 0 2 1 [] [])).dev.linear (unitJob 0x705).desc = 0
    ∧ (match (uniting 0x705 (Job.start 0) (engine 1 2 4 1 0 2 1 [] [])).dev.stepRec (unitAcc 0x705) 5 with
        | .ok e r => keeps 0x705 e && r.is 2 5 | _ => false) = true
    ∧ (match (uniting 0x705 (Job.start 0) (engine 1 2 4 1 0 1 1 [] [])).dev.stepRec (unitAcc 0x705) 5 with
        | .ok e r => keeps 0x705 e && !r.is 2 5 | _ => false) = true := by
  refine ⟨?_, ?_, ?_⟩ <;> decide +kernel

/-- The root's journal of step 5 at an address of the granary: it is read and written back. -/
def resolveOk (target done : Nat) : Bool :=
  let v := { job (desc 0x70B [(16, 2 ^ 30 + 2 ^ 17)]) with phase := .dispatched }
  let s := with_ (engine 1 2 4 1 0 2 1 [] []) (fun d => { d.setWork 2 v with
    upd := { d.upd with jobs := [(2, Job.start 0)] }, mm := { d.mm with lines := [held_ 512 (bytes_ [(8, target), (12, done)])] } })
  let ac : Acc := { v.acc 2 .granary with half := 0 }
  match s.dev.engRead ac 6 (2 ^ 30 + 2 ^ 17) 64 with
  | .ok e h => (match e.engRead ac 6 (2 ^ 30 + 2 ^ 17) 64 with
    | .ok e h' => decide (h = h') && decide (e.work 2 = some v) && decide (jField h 12 4 = done) && decide (jField h 8 4 = target)
      && okMv (e.putSector ac (2 ^ 30 + 2 ^ 17) (patch h 12 (natLe 4 done)))
    | _ => false)
  | _ => false

theorem witness_JournalResolve : resolveOk 7 7 = true := by decide +kernel

/-- The engine on a fabric with port 0 UP, its partner member 1 of the yoke, a buddy region of 4 MiB at DPA 2^21. -/
def peered (role : Nat) (j : Job) (op : Nat) (up : Bool) : State :=
  with_ (uniting op j (engine role 0 4 0 0 2 1 [] [])) (fun d =>
    let d := ((d.setReg 0x83004 0x80FF0000).setReg 0x120024 0x101).setReg 0x120030 2
    { d with fab := (joined []).dev.fab, wide := Tbl.put d.wide 0x12002C (2 ^ 21), dom := if up then d.dom else d.dom - 2 ^ 80 })
/-- What becomes of a request to the partner. -/
def asksPeer (s : State) (pkt : Packet) : Nat := match s.dev.transact 3 2 pkt with | .sent _ _ => 1 | .unreachable _ => 2 | .wait => 3

theorem witness_Peers : (match (peered 2 (Job.start 0) 0x706 true).dev.shard (unitAcc 0x706) 0 with
        | .ok e sh => keeps 0x706 e && decide (sh.role = 2) && decide (sh.owner = 0) | _ => false) = true
    ∧ asksPeer (peered 2 (Job.start 0) 0x706 true) (updPkt 3 0 0x10 1 1 0 []) = 1 ∧ asksPeer (peered 2 (Job.start 0) 0x706 true) (updPkt 3 0 0x10 1 (2 ^ 13) 0 []) = 2
    ∧ (peered 1 (Job.start 0) 0x708 true).dev.partner = 1 ∧ asksPeer (peered 1 (Job.start 0) 0x708 true) (updPkt 3 3 0x21 1 1 0 []) = 1
    ∧ bitOf (fieldB (unitJob 0x708).desc 28 1) 1 = false ∧ restoreGen (fieldB (unitJob 0x709).desc 16 8) [] [] = none
    ∧ keeps 0x708 ((peered 1 (Job.start 0) 0x708 true).dev.bump updSet 10 0) = true
    ∧ jField ([] : List Byte) 16 8 = 0 ∧ fold64 ([] : List Byte) = 0 := by
  refine ⟨?_, ?_, ?_, ?_, ?_, ?_, ?_, ?_, ?_, ?_⟩ <;> decide +kernel

/-- STOOK_RESTORE of an empty shard whose data have come: its folds agree and the record can be written. -/
def restoreOk : Bool :=
  let s := peered 1 (Job.start 0) 0x709 true
  let ac := unitAcc 0x709
  match s.dev.shard ac 0 with
  | .ok e sh =>
    let j := Job.start 0
    let at_ := 32 * (dirFind j.buf (jField j.hdr 16 4) sh.id.toNat).getD 0
    let states := jField j.buf (at_ + 10) 1 % 2 ^ min 4 sh.nstate
    ((partsChunks (sh.stookParts states))[j.pos]?).isNone && decide (fold64 j.data = jField j.buf (at_ + 24) 8)
      && (match e.restoreShard ac 0 sh states (jField j.buf (at_ + 16) 8) j.data with | .ok e _ => keeps 0x709 (e.bump updSet 10 0) | _ => false)
  | _ => false

theorem witness_Restore : restoreOk = true := by decide +kernel

/-- A request of the partner to the engine. -/
def request (type vc op addr : Nat) (data : List Rec64) (len : Nat) : Packet :=
  ⟨BitVec.ofNat 256 (type + 2 ^ 4 * vc + 2 ^ 8 * len + 2 ^ 64 + 2 ^ 176 * op + 2 ^ 192 * addr), data⟩

theorem witness_ServedToPeers : (request 3 0 0x10 0 [] 1).broken = false ∧ (request 3 3 0x21 0 [] 1).broken = false ∧ (request 2 3 0x20 64 [0] 1).broken = false
    ∧ (request 3 0 0x10 0 [] 1).dst = (peered 1 (Job.start 0) 0x706 true).dev.addr ∧ (peered 1 (Job.start 0) 0x706 true).dev.inPart (request 3 0 0x10 0 [] 1).src = true
    ∧ (peered 1 (Job.start 0) 0x706 true).dev.receives 0 = true ∧ (peered 1 (Job.start 0) 0x706 true).dev.updCtx = some 3 ∧ live.dev.updCtx = none
    ∧ recordIs (peered 1 (Job.start 0) 0x706 true) ((peered 1 (Job.start 0) 0x706 true).dev.updAcc 3) 1 = true ∧ recordIs (peered 2 (Job.start 0) 0x706 true) ((peered 2 (Job.start 0) 0x706 true).dev.updAcc 3) 2 = true
    ∧ (peered 1 (Job.start 0) 0x706 true).dev.buddyOn = true ∧ (peered 1 (Job.start 0) 0x706 true).dev.partner = 1
    ∧ 64 + 64 * 1 ≤ (peered 1 (Job.start 0) 0x706 true).dev.buddyLen ∧ (peered 1 (Job.start 0) 0x706 true).dev.groupServes (groupOf (2 ^ 21)) = true
    ∧ (peered 1 (Job.start 0) 0x706 true).dev.hole (2 ^ 21 + 64) = false
    ∧ request 2 3 0x20 64 [0] 1 ∉ (((peered 1 (Job.start 0) 0x706 true).dev.takeRx 0 (request 2 3 0x20 64 [0] 1)).port 0).rx
    ∧ ((peered 1 (Job.start 0) 0x706 true).dev.chan ((peered 1 (Job.start 0) 0x706 true).dev.chanOf (2 ^ 21 + 64)).1).hold = false := by
  refine ⟨?_, ?_, ?_, ?_, ?_, ?_, ?_, ?_, ?_, ?_, ?_, ?_, ?_, ?_, ?_, ?_, ?_⟩ <;> decide +kernel

/-- Whether the engine can read units for a peer. -/
def svcOk (s : State) (iova n : Nat) : Bool := match s.dev.svcRead 3 iova n with | .ok _ r => decide (r.1.length = 64 * n) && r.2.2 | _ => false

theorem witness_ServedData : svcOk (engine 1 0 4 1 0 2 1 [] []) (2 ^ 30 + 2 ^ 18) 1 = true ∧ svcOk (engine 1 0 4 1 0 2 1 [] []) (2 ^ 30 + 2 ^ 15 + 64) 1 = true
    ∧ (match (engine 1 0 4 1 0 2 1 [] []).dev.shard ((engine 1 0 4 1 0 2 1 [] []).dev.updAcc 3) 0 with | .ok _ sh => (sh.imageLen, sh.wslot sh.epoch) | _ => (0, 0)) = (512, 2 ^ 30 + 2 ^ 18)
    ∧ (match (peered 1 (Job.start 0) 0x706 true).dev.shard ((peered 1 (Job.start 0) 0x706 true).dev.updAcc 3) 0 with | .ok e sh => okMv (e.refold (e.updAcc 3) 0 sh) | _ => false) = true := by
  refine ⟨?_, ?_, ?_, ?_⟩ <;> decide +kernel

theorem witness_UpdateSetUp : live.dev.reaches .pcie 0x120024 = true ∧ live.dev.reaches .pcie 0x120004 = true
    ∧ (engine 1 0 4 1 0 2 1 [] []).dev.updCtx = some 3 ∧ ((engine 1 0 4 1 0 2 1 [] []).dev.ctx 3).state.live = true ∧ (live.dev.ctx 0).state.live = false
    ∧ (0x101 : Word).toNat / 256 % 2 = 1 ∧ coordOf live.dev.addr 0 = 0 ∧ live.dev.buddyOn = false ∧ (peered 1 (Job.start 0) 0x706 true).dev.buddyOn = true := by
  refine ⟨?_, ?_, ?_, ?_, ?_, ?_, ?_, ?_, ?_⟩ <;> decide +kernel

/-! ## Witnesses: power and temperature -/

/-- The power block in some state, at a time. -/
def powered (lt : Nat) (f : Pwr → Pwr) : State := with_ live (fun d => { d with lt := lt, pw := f d.pw })
/-- A transition in progress. -/
def going (kind target : Nat) (doms : List Nat) (since due : Nat) : Trans := ⟨kind, target, doms, 0, none, true, since, due, due, due, false⟩

theorem witness_PStates : live.dev.serves .pcie 0x40004 = true ∧ live.dev.pw.trans = none ∧ live.dev.pw.th.tripped = false ∧ live.dev.fastest ≤ (2 : Word).toNat % 8
    ∧ (powered 0 (fun p => { p with trans := some (going 1 3 [] 0 4200) })).dev.pw.trans ≠ none
    ∧ (powered 0 (fun p => { p with th := { p.th with tripped := true } })).dev.pw.th.tripped = true
    ∧ 0 < (with_ live (fun d => { d with regs := Tbl.put d.regs 0x4003C 0x00002000 })).dev.fastest := by
  refine ⟨?_, ?_, ?_, ?_, ?_, ?_, ?_⟩ <;> decide +kernel

theorem witness_PStateEnds : (powered 4199 (fun p => { p with trans := some (going 1 3 [] 0 4200) })).dev.lt < 4200
    ∧ 4200 ≤ (powered 4200 (fun p => { p with trans := some (going 4 0 [] 0 4200) })).dev.lt ∧ (going 4 0 [] 0 4200).kind = 4 ∧ live.dev.fastest ≤ 3
    ∧ live.dev.fwUp = true ∧ State.reset.dev.fwUp = false ∧ live.dev.rs.wait = none
    ∧ (powered 4200 (fun p => { p with trans := some (going 4 0 [] 0 4200) })).dev.fastest = 0
    ∧ 0 < (with_ live (fun d => { d with regs := Tbl.put d.regs 0x4003C 0x00002000 })).dev.fastest := by
  refine ⟨?_, ?_, ?_, ?_, ?_, ?_, ?_, ?_, ?_⟩ <;> decide +kernel

/-- The part with the first two domain entries set and some domains on. -/
def domained (dom m0 m1 : Nat) : State := with_ live (fun d => { (d.setReg 0x40010 (BitVec.ofNat 32 (m0 + 2 ^ 8 * m1))) with dom := dom })

theorem witness_Domains : live.dev.serves .pcie 0x40018 = true ∧ live.dev.serves .mctp 0x40018 = true ∧ (domained (2 ^ 97 - 2) 0 96).dev.domEntry 0 = 0
    ∧ (domained (2 ^ 97 - 2) 0 96).dev.domEntry 1 = 96 ∧ (domained (2 ^ 97 - 2) 0 96).dev.on 0 = false
    ∧ (∀ g ∈ domNeeds 0, g.any (domained (2 ^ 97 - 2) 0 0).dev.on = true) ∧ (∃ g ∈ domNeeds 0, g.all (fun k => !(domained (2 ^ 94) 0 0).dev.on k) = true)
    ∧ live.dev.domNeeded 0 = false ∧ live.dev.domBusy 0 = false ∧ live.dev.domNeeded 94 = true ∧ (domained (2 ^ 96 + 2 ^ 94) 94 0).dev.domNeeded 94 = false
    ∧ live.dev.domNeeded 78 = false ∧ live.dev.linesIn (78 - 72) = []
    ∧ (with_ live (fun d => d.setCore 0 { Core.empty with ctx := some 3, tag := some 2 })).dev.domBusy 0 = true
    ∧ (powered 10000 (fun p => { p with trans := some (going 3 0 [0] 0 10000) })).dev.domQuiet 0 = true := by
  refine ⟨?_, ?_, ?_, ?_, ?_, ?_, ⟨domNeeds 0 |>.headD [], ?_, ?_⟩, ?_, ?_, ?_, ?_, ?_, ?_, ?_, ?_⟩ <;> decide +kernel

theorem witness_Drained : (with_ (powered 10000 (fun p => { p with trans := some (going 3 0 [0] 0 10000) })) (fun d =>
      d.setCluster 0 { Cluster.empty with drill := [xfer 0 true] })).dev.domQuiet 0 = false ∧ 0 + 10000 ≤ (powered 10000 id).dev.lt
    ∧ (∃ l ∈ (pressed 2 6 false).dev.linesIn 0, l.pin = true) ∧ (pressed 2 6 false).dev.domNeeded 72 = false := by
  refine ⟨?_, ?_, ⟨_, List.mem_singleton.2 rfl, ?_⟩, ?_⟩ <;> decide +kernel

theorem witness_Settings : live.dev.serves .pcie 0x40030 = true ∧ live.dev.serves .mctp 0x40034 = true ∧ live.dev.serves .pcie 0x40038 = true
    ∧ live.dev.envCap = 950 ∧ live.dev.envRamp = 2000 ∧ live.dev.floorSet = 0 ∧ live.dev.capSet = 900 ∧ (950 : Word).toNat % 1024 = 950 ∧ (951 : Word).toNat % 1024 = 951
    ∧ (with_ live (fun d => d.setReg 0x4003C (400 + 2 ^ 16 * 50))).dev.envCap = 400 ∧ (with_ live (fun d => d.setReg 0x4003C (400 + 2 ^ 16 * 50))).dev.envRamp = 50 := by
  refine ⟨?_, ?_, ?_, ?_, ?_, ?_, ?_, ?_, ?_, ?_, ?_⟩ <;> decide +kernel

theorem witness_PowerClears : live.dev.serves .pcie 0x40054 = true ∧ live.dev.serves .pcie 0x40050 = true ∧ live.dev.serves .pcie 0x40068 = true
    ∧ live.dev.serves .pcie 0x40074 = true ∧ live.dev.pw.ctl.leave = 0 ∧ (∀ ch, ch < 192 → live.dev.temp ch ≤ 95000000)
    ∧ ¬ (∀ ch, ch < 192 → (powered 0 (fun p => { p with th := { p.th with eff := [(3, 95000001)] } })).dev.temp ch ≤ 95000000)
    ∧ (powered 10000 (fun p => { p with throttle := true })).dev.pw.thrLt + 10000 ≤ 10000 ∧ live.dev.hotNow = false := by
  refine ⟨?_, ?_, ?_, ?_, ?_, ?_, ?_, ?_, ?_⟩ <;> decide +kernel

/-- Two periods of a window with an estimate of 100 W each, in the fourth window of a divergent run. -/
def windowed (guarded : Bool) (leave : Nat) : State := powered 100000 (fun p => { p with ctl := { p.ctl with
  winN := 2, winE := 2 * 10 ^ 11, run := 3, dir := 1, guarded := guarded, leave := leave } })

theorem witness_PowerControl : live.dev.hq.mgmtRun = true ∧ live.dev.lt % 200 = 0 ∧ live.dev.pw.ctl.lastPeriod = none ∧ live.dev.pw.ctl.guarded = false
    ∧ (powered 199 id).dev.lt % 200 ≠ 0 ∧ (windowed true 1).dev.lt % 100000 = 0 ∧ (windowed true 1).dev.pw.ctl.lastWin = none ∧ 0 < (windowed true 1).dev.pw.ctl.winN
    ∧ (windowed false 0).dev.pw.ctl.committed = false ∧ 12 * (([[1000]].map List.sum).sum * 10 ^ 9 / (16 * 1)) < 100 * (100 * 10 ^ 9 - 1000 * 10 ^ 9 / 16)
    ∧ ¬ (12 * (([[1600]].map List.sum).sum * 10 ^ 9 / (16 * 1)) < 100 * (100 * 10 ^ 9 - 1600 * 10 ^ 9 / 16))
    ∧ (windowed true 1).dev.pw.ctl.leave ≠ 0 ∧ min 7 ((windowed false 0).dev.pw.ctl.run + 1) = 4 := by
  refine ⟨?_, ?_, ?_, ?_, ?_, ?_, ?_, ?_, ?_, ?_, ?_, ?_, ?_⟩ <;> decide +kernel

theorem witness_Trims : (powered 1000000000 id).dev.pw.trim.lt + 1000000000 ≤ (powered 1000000000 id).dev.lt ∧ (powered 0 id).dev.fl.wpn = true
    ∧ (powered 0 id).dev.fl.noRecord = false ∧ (powered 8640000000000 id).dev.pw.trim.saveLt + 8640000000000 ≤ (powered 8640000000000 id).dev.lt
    ∧ 4 ≤ ((3 : Int) + 1 - 0).natAbs ∧ (20 : Int) ≤ Tbl.get (powered 0 (fun p => { p with trim := { p.trim with now := [(0, 20)] } })).dev.pw.trim.now 0 0 := by
  refine ⟨?_, ?_, ?_, ?_, ?_, ?_⟩ <;> decide +kernel

theorem witness_SensorRound : live.dev.hq.mgmtRun = true ∧ live.dev.lt % 100000 = 0 ∧ live.dev.pw.th.lastRound = none
    ∧ (powered 1 id).dev.lt % 100000 ≠ 0 ∧ live.dev.pw.th.tripped = false ∧ live.dev.reads 0 = true ∧ goodSample 0 (some 400) = true ∧ goodSample 0 none = false := by
  refine ⟨?_, ?_, ?_, ?_, ?_, ?_, ?_, ?_⟩ <;> decide +kernel

/-! ## Witnesses: identity, the gate, management messages -/

/-- The key bytes that the tests use. -/
def keyA : List Byte := List.replicate 32 1
/-- The other. -/
def keyB : List Byte := List.replicate 32 2

/-- A request of a kind with its body and slots, GATE_SEQ 0, BOOT_NONCE 0 and signatures of zeros. -/
def gateReq (kind : Nat) (body : List Byte) (a b : Nat) : List Byte :=
  natLe 4 0x32475442 ++ natLe 1 kind ++ [1] ++ natLe 2 body.length ++ natLe 4 0 ++ natLe 4 0 ++ List.replicate 48 0 ++ body ++ natLe 1 a ++ natLe 1 b
    ++ List.replicate 134 0

/-- A part with its identity, keys 1 to n enrolled in slots 0 on, and licences installed. -/
def keyed (n : Nat) (slots : Tbl (List Byte)) : State := { live with sec := { live.sec with
  identity := true, keys := (List.range n).map (fun i => (i, BitVec.ofNat 256 (i + 1))), slots := slots } }

/-- A licence for the device whose key is 0. -/
def lic0 : List Byte := natLe 4 0x43494C42 ++ natLe 2 1 ++ [1, 0] ++ natLe 8 9 ++ List.replicate 144 0

/-- A WRITE_REGS request passes every test but that of its signatures, which stands on the uninterpreted verification (log 13). -/
theorem witness_GateApplies (h : ∀ k m x, Config.ed25519Verify k m x = true) :
    ∀ n, ¬ gateFails .pcie (gateReq 1 (natLe 4 0x8000C ++ natLe 4 7) 0 1) (keyed 2 []).sec (keyed 2 []).dev n := by
  intro n
  by_cases hn : n ≤ 18
  · interval_cases n <;> simp only [gateFails, signed, h, not_false_eq_true] <;> decide +kernel
  · unfold gateFails
    split <;> first | omega | exact not_false

/-- INSTALL_LICENCE likewise. -/
theorem witness_GateInstalls (h : ∀ k m x, Config.ed25519Verify k m x = true) :
    (keyed 2 []).sec.licValid lic0 = true ∧ signed ((keyed 2 []).sec.signers (gateReq 2 lic0 0 1)).1 (gSigned (gateReq 2 lic0 0 1)) [] = true := by
  refine ⟨?_, h _ _ _⟩
  unfold Sec.licValid signed
  rw [h]
  decide +kernel

/-- The other kinds are in form, and the tests that judge them are met. -/
theorem witness_GateKinds : (∀ r ∈ [gateReq 2 lic0 0 1, gateReq 3 (natLe 8 9) 0 1, gateReq 4 (natLe 8 2 ++ keyA) 0 1, gateReq 5 (natLe 8 2) 0 1, gateReq 6 (natLe 8 15) 0 1,
      gateReq 7 (keyA ++ keyB) 0 1], gFormat r = true ∧ byteField r 16 32 = 0 ∧ gSeq r = 0 ∧ gSlots r = (0, 1))
    ∧ (∃ e ∈ (keyed 2 [(0, lic0)]).sec.slots, licSerial e.2 = 9) ∧ ((keyed 3 []).sec.key 2).isSome = true ∧ (keyed 0 []).sec.keys.length < 2
    ∧ (keyed 2 []).sec.nonce = 0 ∧ (keyed 2 []).sec.seq = 0 ∧ live.dev.fl.wpn = true ∧ live.sec.identity = false := by
  refine ⟨?_, ⟨(0, lic0), List.mem_singleton.2 rfl, ?_⟩, ?_, ?_, ?_, ?_, ?_, ?_⟩ <;> decide +kernel

/-- Every test of R479 but those on signatures and licences refuses some request that passes the tests before it; here tests 1 to 9. -/
theorem witness_GateRefuses : gateFails .pcie [] (keyed 2 []).sec (draining false).dev 1 ∧ gateFails .pcie [] live.sec live.dev 2
    ∧ gateFails .pcie [] (keyed 2 []).sec live.dev 3 ∧ gateFails .pcie (gateReq 1 (natLe 8 0) 0 1) { (keyed 2 []).sec with nonce := 1 } live.dev 4
    ∧ gateFails .pcie (gateReq 1 (natLe 8 0) 0 1) { (keyed 2 []).sec with seq := 1 } live.dev 5 ∧ gateFails .pcie (gateReq 7 (keyA ++ keyB) 0 1) (keyed 0 []).sec live.dev 6
    ∧ gateFails .pcie (gateReq 1 (natLe 8 0) 0 1) (keyed 1 []).sec live.dev 7 ∧ gateFails .pcie (gateReq 1 (natLe 8 0) 0 2) (keyed 2 []).sec live.dev 8
    ∧ gateFails .pcie (gateReq 1 (natLe 8 0) 0 0) (keyed 2 []).sec live.dev 9 := by
  refine ⟨?_, ?_, ?_, ?_, ?_, ?_, ?_, ?_, ?_⟩ <;> simp only [gateFails] <;> decide +kernel

/-- The tests on register entries refuse where the signatures verify (log 13): an envelope of 0 W fails test 12, and a domain of 32,768 devices without
FABRIC-L test 13; each passes the tests before it. -/
theorem witness_GateRefusesEntries (h : ∀ k m x, Config.ed25519Verify k m x = true) :
    gateFails .pcie (gateReq 1 (natLe 4 0x4003C ++ natLe 4 0) 0 1) (keyed 2 []).sec (keyed 2 []).dev 12
    ∧ gateFails .pcie (gateReq 1 (natLe 4 0x80008 ++ natLe 4 0x0F0F0F) 0 1) (keyed 2 []).sec (keyed 2 []).dev 13
    ∧ (∀ m, m < 12 → ¬ gateFails .pcie (gateReq 1 (natLe 4 0x4003C ++ natLe 4 0) 0 1) (keyed 2 []).sec (keyed 2 []).dev m)
    ∧ ∀ m, m < 13 → ¬ gateFails .pcie (gateReq 1 (natLe 4 0x80008 ++ natLe 4 0x0F0F0F) 0 1) (keyed 2 []).sec (keyed 2 []).dev m := by
  refine ⟨?_, ?_, ?_, ?_⟩
  · simp only [gateFails]; decide +kernel
  · simp only [gateFails]; decide +kernel
  all_goals
    intro m hm
    interval_cases m <;> simp only [gateFails, signed, h, not_false_eq_true] <;> decide +kernel

/-- A management message of the device's vendor with a command and a payload. -/
def message (cmd : Nat) (p : List Byte) : List Byte := [0x7E] ++ vendorBytes ++ [BitVec.ofNat 8 cmd, 5, 0] ++ natLe 2 p.length ++ p

/-- It is the device's. -/
theorem message_ours (cmd : Nat) (p : List Byte) : mOurs (message cmd p) = true ∧ mCommand (message cmd p) = cmd % 256 ∧ mLength (message cmd p) = p.length % 65536 := by
  refine ⟨?_, ?_, ?_⟩
  · simp [mOurs, message, vendorBytes, byteField, leNat, natLe]
  · simp [mCommand, message, vendorBytes, byteField, leNat, natLe]
  · simp [mLength, message, vendorBytes, byteField, leNat, natLe]
    omega

theorem witness_GatePaths : live.dev.gateServed .pcie = true ∧ live.dev.gateServed .mctp = true ∧ live.dev.hostDead 0 = false
    ∧ (message 3 [1]).length = 8 + 1 := by
  refine ⟨?_, ?_, ?_, rfl⟩ <;> decide +kernel

/-- SPDM requests of each code. -/
theorem witness_Attestation : live.dev.spdmServed = true ∧ byteField [0x10, 0x84, 0, 0] 1 1 = 0x84 ∧ live.sec.versioned = false ∧ live.sec.negotiated = false
    ∧ bitOf (byteField ([0x13, 0xE3, 0, 0, 32, 0, 1, 0] ++ natLe 4 1024 ++ natLe 4 4) 6 1) 0 = true
    ∧ bitOf (byteField ([0x13, 0xE3, 0, 0, 32, 0, 1, 0] ++ natLe 4 1024 ++ natLe 4 4) 8 4) 10 = true
    ∧ bitOf (byteField ([0x13, 0xE3, 0, 0, 32, 0, 1, 0] ++ natLe 4 1024 ++ natLe 4 4) 12 4) 2 = true
    ∧ ({ (keyed 2 []).sec with negotiated := true, chain := [1] } : Sec).identity = true ∧ 0 < ({ live.sec with chain := [1] } : Sec).chain.length
    ∧ byteField [0x13, 0xE0, 1, 255] 3 1 = 255 ∧ spdmKnown 0x99 = false := by
  refine ⟨?_, ?_, ?_, ?_, ?_, ?_, ?_, ?_, ?_, ?_, ?_⟩ <;> decide +kernel

theorem witness_ManagementMessages : 1 ≤ live.dev.rs.stage ∧ (message 1 (natLe 4 0x10 ++ [64])).length = 8 + 5 ∧ (message 2 (natLe 4 0x40030 ++ natLe 4 500)).length = 8 + 8
    ∧ (∃ eid, (with_ live (fun d => { d with mc := { d.mc with owner := some 9, unread := [1] } })).dev.mc.owner = some eid)
    ∧ ([0x7E, 0, 0, 9] : List Byte).length = 4 := ⟨by decide, rfl, rfl, ⟨9, rfl⟩, rfl⟩

end Sys2Proof.Tests
end

section
/-!
PROOFS. Counters (R9, R10): what advancing a counter of a set leaves in the counter, in the others and on the device event ring.
-/
namespace Sys2Proof.Machine

/-- The part with a counter replaced. -/
def Dev.putCtr (d : Dev) (off : Nat) (c : Ctr) : Dev := { d with ctr := Tbl.set d.ctr off c ⟨0, false⟩ }

@[simp] theorem Dev.ctrAt_putCtr_self (d : Dev) (off : Nat) (c : Ctr) : (d.putCtr off c).ctrAt off = c :=
  Tbl.get_set_self d.ctr off c ⟨0, false⟩

theorem Dev.ctrAt_putCtr_ne (d : Dev) {off o : Nat} (c : Ctr) (h : o ≠ off) : (d.putCtr off c).ctrAt o = d.ctrAt o :=
  Tbl.get_set_ne d.ctr c ⟨0, false⟩ h

/-- No counter is a register: a block's SAT_EN bit is the same whatever its counters hold. -/
@[simp] theorem Dev.satEn_putCtr (d : Dev) (off : Nat) (c : Ctr) (cs : CtrSet) : (d.putCtr off c).satEn cs = d.satEn cs := rfl

/-- A counter stands at its all-ones value exactly when its sum has reached it. -/
theorem satAdd_eq_full_iff (w x n : Nat) : satAdd w x n = 2 ^ w - 1 ↔ 2 ^ w - 1 ≤ x + n := min_eq_left_iff

theorem Ctr.add_eq (c : Ctr) (w n : Nat) :
    c.add w n = ⟨min (c.val + n) (2 ^ w - 1), c.sat || decide (2 ^ w - 1 ≤ c.val + n)⟩ := by
  simp only [Ctr.add, satAdd_eq_full_iff]
  rw [satAdd, min_comm]

/-- SAT makes its 0-to-1 transition when the all-ones value is reached by a counter that had not reached it before. -/
theorem Ctr.add_rose_iff (c : Ctr) (w n : Nat) :
    ((c.add w n).sat && !c.sat) = true ↔ 2 ^ w - 1 ≤ c.val + n ∧ c.sat = false := by
  rw [Ctr.add_eq]
  cases c.sat <;> simp

section
variable {cs : CtrSet} {i off w : Nat} (hi : cs.ctrs[i]? = some (off, w))
include hi

theorem Dev.rawBump_eq (d : Dev) (n : Nat) :
    d.rawBump cs i n = (d.putCtr off ((d.ctrAt off).add w n), ((d.ctrAt off).add w n).sat && !(d.ctrAt off).sat) := by
  rw [Dev.rawBump, hi]; rfl

/-- Advancing counter i of a set: the counter is replaced by its sum, and the event follows when SAT rises and the block reports. -/
theorem Dev.bump_eq (d : Dev) (n : Nat) :
    d.bump cs i n =
      if (2 ^ w - 1 ≤ (d.ctrAt off).val + n ∧ (d.ctrAt off).sat = false) ∧ d.satEn cs = true then
        (d.putCtr off ((d.ctrAt off).add w n)).post 1 (satPayload cs i)
      else d.putCtr off ((d.ctrAt off).add w n) := by
  simp only [Dev.bump, Dev.rawBump_eq hi, Dev.satEn_putCtr, Bool.and_eq_true (_ && _), Ctr.add_rose_iff]

theorem Dev.bump_reports (d : Dev) (n : Nat) (hfull : 2 ^ w - 1 ≤ (d.ctrAt off).val + n) (hsat : (d.ctrAt off).sat = false)
    (hen : d.satEn cs = true) :
    d.bump cs i n = (d.putCtr off ((d.ctrAt off).add w n)).post 1 (satPayload cs i) := by
  rw [Dev.bump_eq hi, if_pos ⟨⟨hfull, hsat⟩, hen⟩]

theorem Dev.bump_silent (d : Dev) (n : Nat)
    (h : ¬ 2 ^ w - 1 ≤ (d.ctrAt off).val + n ∨ (d.ctrAt off).sat = true ∨ d.satEn cs = false) :
    d.bump cs i n = d.putCtr off ((d.ctrAt off).add w n) := by
  rw [Dev.bump_eq hi, if_neg]
  rintro ⟨⟨hfull, hsat⟩, hen⟩
  rcases h with hlow | hset | hoff
  · exact hlow hfull
  · simp [hset] at hsat
  · simp [hoff] at hen

end

/-- Settles O3: the counter a bump leaves is its saturating sum (`Ctr.add_eq`), and the one test that posts the event is SAT's
0-to-1 transition (`Ctr.add_rose_iff`) in a block that reports. -/
theorem countersSaturate : Obligations.CountersSaturate := by
  unfold Obligations.CountersSaturate
  intro d cs i n off w hi c full e
  have he : d.putCtr off (c.add w n) = e := by rw [Ctr.add_eq]; rfl
  rw [← he, ← Ctr.add_eq]
  refine ⟨d.ctrAt_putCtr_self off _, fun o ho => d.ctrAt_putCtr_ne _ ho, ?_, ?_⟩
  · exact fun hfull hsat hen => Dev.bump_reports hi d n hfull hsat hen
  · exact fun h => Dev.bump_silent hi d n h

end Sys2Proof.Machine
end

section
/-!
PROOFS. The queue front end and events of contexts (R273 to R279, R442): what a translated access and a posted event can change.
-/
namespace Sys2Proof.Machine

/-- The part e is d but for what a translation, a front-end access or a context's event can change: contexts and the device event ring,
the environment, counters, the memory side's cached translations, MCTP messages and the free values taken. -/
def Dev.FrontOnly (d e : Dev) : Prop :=
  e = { d with hq := { d.hq with ctxs := e.hq.ctxs, devRing := e.hq.devRing }, env := e.env, ctr := e.ctr, mm := e.mm, mc := e.mc, fresh := e.fresh }

theorem Dev.FrontOnly.refl (d : Dev) : Dev.FrontOnly d d := rfl

theorem Dev.FrontOnly.trans {a b c : Dev} (h : Dev.FrontOnly a b) (k : Dev.FrontOnly b c) : Dev.FrontOnly a c := by
  unfold Dev.FrontOnly at *
  rw [h] at k
  rw [k]

/-- No queue changes. -/
theorem Dev.FrontOnly.queue_eq {d e : Dev} (h : Dev.FrontOnly d e) (q : Nat) : e.queue q = d.queue q := by rw [h]; rfl

theorem Dev.EventOnly.frontOnly {d e : Dev} (h : Dev.EventOnly d e) : Dev.FrontOnly d e := by
  unfold Dev.EventOnly at h
  rw [h]
  rfl

theorem Dev.bump_frontOnly (d : Dev) (cs : CtrSet) (i n : Nat) : Dev.FrontOnly d (d.bump cs i n) := (d.bump_eventOnly cs i n).frontOnly

theorem Dev.post_frontOnly (d : Dev) (code p : Nat) : Dev.FrontOnly d (d.post code p) := (d.post_eventOnly code p).frontOnly

theorem Dev.modCtx_frontOnly (d : Dev) (c : Nat) (f : Ctx → Ctx) : Dev.FrontOnly d (d.modCtx c f) := rfl

/-! ## Translation -/

theorem Dev.cacheWalk_frontOnly (d : Dev) (cl : Option Nat) (w : Walk) (central : Bool) : Dev.FrontOnly d (d.cacheWalk cl w central) := by
  cases cl <;> cases central <;> rfl

theorem Dev.leaf_frontOnly (d : Dev) (c : CtxId) (cl : Option Nat) (iova : Nat) (wr : Bool) : Dev.FrontOnly d (d.leaf c cl iova wr).1 := by
  unfold Dev.leaf
  dsimp only
  split
  · exact .refl d
  split
  · exact .refl d
  split
  · exact d.cacheWalk_frontOnly _ _ _
  split
  · exact d.bump_frontOnly xltSet 0 1
  · exact (d.bump_frontOnly xltSet 0 1).trans (Dev.cacheWalk_frontOnly _ _ _ _)

theorem Dev.sendPri_frontOnly (d : Dev) (c : CtxId) (page : Nat) (who : Issuer) (wr : Bool) (iova : Nat) :
    Dev.FrontOnly d (d.sendPri c page who wr iova) := by
  unfold Dev.sendPri
  split
  · exact .refl d
  · exact (d.bump_frontOnly xltSet 3 1).trans rfl

theorem Dev.joinPri_frontOnly (d : Dev) (c : CtxId) (page : Nat) (who : Option Issuer) : Dev.FrontOnly d (d.joinPri c page who) := rfl

theorem Dev.askAts_frontOnly (d : Dev) (pasid : BitVec 20) (page : Nat) (wr : Bool) : Dev.FrontOnly d (d.askAts pasid page wr).1 := by
  unfold Dev.askAts
  dsimp only
  split
  · exact (d.bump_frontOnly xltSet 2 1).trans rfl
  · exact d.bump_frontOnly xltSet 2 1

theorem Dev.hostPage_frontOnly (d : Dev) (c : CtxId) (pasid : BitVec 20) (who : Option Issuer) (iova : Nat) (wr : Bool) :
    Dev.FrontOnly d (d.hostPage c pasid who iova wr).1 := by
  have hask := d.askAts_frontOnly pasid (iova / 4096) wr
  unfold Dev.hostPage
  dsimp only
  generalize d.askAts pasid (iova / 4096) wr = r at hask ⊢
  obtain ⟨e, t⟩ := r
  dsimp only at hask ⊢
  split
  · split
    · split <;> exact .refl d
    · exact .refl d
  split
  · split <;> exact .refl d
  split
  · exact d.joinPri_frontOnly _ _ _
  split
  · split <;> exact hask
  split
  · split
    · exact hask
    · exact hask.trans (e.sendPri_frontOnly _ _ _ _ _)
  · exact hask

theorem Dev.xlate_frontOnly (d : Dev) (c : CtxId) (cl : Option Nat) (ag : Agent) (who : Option Issuer) (iova : Nat) (wr : Bool) :
    Dev.FrontOnly d (d.xlate c cl ag who iova wr).1 := by
  have hleaf := d.leaf_frontOnly c cl iova wr
  unfold Dev.xlate
  dsimp only
  generalize d.leaf c cl iova wr = r at hleaf ⊢
  obtain ⟨e, x⟩ := r
  have failed {g : Dev} (hg : Dev.FrontOnly d g) : Dev.FrontOnly d (g.bump xltSet 1 1) := hg.trans (g.bump_frontOnly _ _ _)
  split
  · exact failed (.refl d)
  cases x with
  | error f => exact failed hleaf
  | ok leaf =>
    have hpage := hleaf.trans (e.hostPage_frontOnly c (e.ctx c).pasid who iova wr)
    dsimp only
    generalize e.hostPage c (e.ctx c).pasid who iova wr = r at hpage ⊢
    obtain ⟨g, y⟩ := r
    split
    · exact failed hleaf
    split
    · exact failed hleaf
    split
    · cases y with
      | fault f => exact failed hpage
      | gran _ _ _ => exact hpage
      | host _ => exact hpage
      | wait => exact hpage
    · exact hleaf

/-! ## Front-end accesses -/

/-- The part a front-end access leaves. -/
def Front.dev {α : Type} : Front α → Dev
  | .ok d _ => d
  | .fault d _ => d
  | .wait d => d

theorem Dev.frontRead_frontOnly (d : Dev) (c : CtxId) (who : Issuer) (iova n : Nat) : Dev.FrontOnly d (d.frontRead c who iova n).dev := by
  have h := d.xlate_frontOnly c none .front (some who) iova false
  unfold Dev.frontRead
  generalize d.xlate c none .front (some who) iova false = r at h ⊢
  obtain ⟨e, x⟩ := r
  cases x <;> exact h

theorem Dev.frontWrite_frontOnly (d : Dev) (c : CtxId) (who : Issuer) (iova : Nat) (bs : List Byte) :
    Dev.FrontOnly d (d.frontWrite c who iova bs).dev := by
  have h := d.xlate_frontOnly c none .front (some who) iova true
  unfold Dev.frontWrite
  generalize d.xlate c none .front (some who) iova true = r at h ⊢
  obtain ⟨e, x⟩ := r
  cases x with
  | host a => exact h.trans (e.hostWrite_eventOnly a bs).frontOnly
  | gran _ _ _ => exact h
  | fault _ => exact h
  | wait => exact h

/-! ## Events of contexts -/

theorem Dev.setRing_frontOnly (d : Dev) (c : CtxId) (r : Ring) : Dev.FrontOnly d (d.setRing c r) := d.modCtx_frontOnly c _

/-- A record of count n put in the slot a context's ring has reached, with the head word as the ring holds it. -/
def Dev.ctxPut (d : Dev) (c : CtxId) (n : Nat) (rcd : Rec64) (r : Ring) : Dev × Put :=
  if r.room = 0 then (d.setRing c r, .full)
  else
    match d.frontWrite c (.ring c 4) r.slot (bytesOf 64 (evFinish rcd (n - r.written) (Machine.phaseOf r.widx r.log2))) with
    | .fault d k => (d.setRing c r, .fault 4 k r.slot)
    | .wait d => (d.setRing c r, .full)
    | .ok d _ =>
      let m := (r.advance n).message d.lt
      let d := d.setRing c m.1
      (if m.2 then d.sendMsix r.vec else d, .done)

/-- Writing a record to a context's ring: the head word is read first where the last slot comes near (R84). -/
theorem Dev.ctxWrite_eq (d : Dev) (c : CtxId) (n : Nat) (rcd : Rec64) :
    d.ctxWrite c n rcd =
      if (d.ctx c).ring.room ≤ 1 then
        match d.frontRead c (.ring c 5) (d.ctx c).ring.headAddr 4 with
        | .fault e k => (e, .fault 5 k (d.ctx c).ring.headAddr)
        | .wait e => (e, .full)
        | .ok e bs => e.ctxPut c n rcd { (d.ctx c).ring with headSeen := BitVec.ofNat 32 (leNat bs) }
      else d.ctxPut c n rcd (d.ctx c).ring := rfl

theorem Dev.ctxPut_frontOnly (d : Dev) (c : CtxId) (n : Nat) (rcd : Rec64) (r : Ring) : Dev.FrontOnly d (d.ctxPut c n rcd r).1 := by
  unfold Dev.ctxPut
  split
  · exact d.setRing_frontOnly _ _
  have h := d.frontWrite_frontOnly c (.ring c 4) r.slot (bytesOf 64 (evFinish rcd (n - r.written) (Machine.phaseOf r.widx r.log2)))
  generalize d.frontWrite c (.ring c 4) r.slot _ = w at h ⊢
  cases w with
  | ok e _ =>
    dsimp only
    have hring := h.trans (e.setRing_frontOnly c ((r.advance n).message e.lt).1)
    split
    · exact hring.trans (Dev.sendMsix_eventOnly _ _).frontOnly
    · exact hring
  | fault e k => exact h.trans (e.setRing_frontOnly _ _)
  | wait e => exact h.trans (e.setRing_frontOnly _ _)

theorem Dev.ctxWrite_frontOnly (d : Dev) (c : CtxId) (n : Nat) (rcd : Rec64) : Dev.FrontOnly d (d.ctxWrite c n rcd).1 := by
  rw [Dev.ctxWrite_eq]
  split
  · have h := d.frontRead_frontOnly c (.ring c 5) (d.ctx c).ring.headAddr 4
    generalize d.frontRead c (.ring c 5) (d.ctx c).ring.headAddr 4 = r at h ⊢
    cases r with
    | ok e bs => exact h.trans (e.ctxPut_frontOnly _ _ _ _)
    | fault _ _ => exact h
    | wait _ => exact h
  · exact d.ctxPut_frontOnly _ _ _ _

theorem Dev.redirect_frontOnly (d : Dev) (c : CtxId) (code payload : Nat) : Dev.FrontOnly d (d.redirect c code payload) :=
  (devPost_eventOnly 4 code (some c) true payload d).frontOnly.trans (Dev.bump_frontOnly _ _ _ _)

theorem Dev.parkRecord_frontOnly (d : Dev) (c : CtxId) (n : Nat) (rcd : Rec64) : Dev.FrontOnly d (d.parkRecord c n rcd) := by
  unfold Dev.parkRecord
  dsimp only
  split
  · exact d.setRing_frontOnly _ _
  · exact d.bump_frontOnly _ _ _

theorem Dev.stopRing_frontOnly (d : Dev) (c : CtxId) (st kind iova : Nat) : Dev.FrontOnly d (d.stopRing c st kind iova) :=
  (d.modCtx_frontOnly c _).trans (Dev.post_frontOnly _ _ _)

theorem Dev.postCtx_frontOnly (d : Dev) (c : CtxId) (code payload : Nat) : Dev.FrontOnly d (d.postCtx c code payload) := by
  unfold Dev.postCtx
  dsimp only
  split
  · exact d.redirect_frontOnly _ _ _
  have hring := d.setRing_frontOnly c { (d.ctx c).ring with posted := (d.ctx c).ring.posted + 1 }
  generalize d.setRing c { (d.ctx c).ring with posted := (d.ctx c).ring.posted + 1 } = e at hring ⊢
  have counted (g : Dev) (hg : Dev.FrontOnly d g) : Dev.FrontOnly d (g.bump fltSet (code / 4096) 1) := hg.trans (g.bump_frontOnly _ _ _)
  split
  · exact counted _ (hring.trans (e.parkRecord_frontOnly _ _ _))
  have hwrite := hring.trans (e.ctxWrite_frontOnly c (d.ctx c).ring.posted (evRecord code (some c) false (d.ctx c).ring.posted d.lt payload))
  generalize e.ctxWrite c _ _ = r at hwrite ⊢
  obtain ⟨g, x⟩ := r
  cases x with
  | done => exact counted _ hwrite
  | full => exact counted _ (hwrite.trans (g.parkRecord_frontOnly _ _ _))
  | fault st k iova => exact (hwrite.trans (g.stopRing_frontOnly _ _ _ _)).trans (Dev.redirect_frontOnly _ _ _ _)

end Sys2Proof.Machine
end

section
/-!
PROOFS. Doorbells (R49 to R53): the doorbell that moves the producer index, the overrun, the doorbell that is ignored.
-/
namespace Sys2Proof.Machine

/-! ## A queue in ERROR -/

/-- The part e is d but for what the control plane may change, and in it queue q is in ERROR, holds nothing and has the given producer
index and DONE_PREFIX. -/
structure Dev.ErrorAt (d : Dev) (q : QId) (prod done : Word) (e : Dev) : Prop where
  frame : e = { d with hq := e.hq, env := e.env, ctr := e.ctr, mm := e.mm, mc := e.mc, fresh := e.fresh }
  state : (e.queue q).state = .error
  prod_eq : (e.queue q).prod = prod
  done_eq : (e.queue q).done = done
  held : (e.queue q).held = []

section
variable {d e g : Dev} {q : QId} {prod done : Word}

theorem Dev.ErrorAt.front (h : Dev.ErrorAt d q prod done e) (k : Dev.FrontOnly e g) : Dev.ErrorAt d q prod done g := by
  obtain ⟨hframe, hstate, hprod, hdone, hheld⟩ := h
  have hq := k.queue_eq q
  refine ⟨?_, hq ▸ hstate, hq ▸ hprod, hq ▸ hdone, hq ▸ hheld⟩
  unfold Dev.FrontOnly at k
  rw [hframe] at k
  rw [k]

/-- A write of the queue that leaves its state, its indices and the descriptors it holds. -/
theorem Dev.ErrorAt.setQueue (h : Dev.ErrorAt d q prod done e) {x : Queue} (hstate : x.state = .error)
    (hprod : x.prod = (e.queue q).prod) (hdone : x.done = (e.queue q).done) (hheld : x.held = []) :
    Dev.ErrorAt d q prod done (e.setQueue q x) := by
  have hx : (e.setQueue q x).queue q = x := by simp [Dev.queue_setQueue]
  refine ⟨?_, by rw [hx, hstate], by rw [hx, hprod, h.prod_eq], by rw [hx, hdone, h.done_eq], by rw [hx, hheld]⟩
  have hframe := h.frame
  rw [hframe]
  rfl

/-- With nothing held there is no record to write: SQ_HEAD and the hold fields alone move. -/
theorem Dev.discardHeld_nil (e : Dev) (q : QId) (h : (e.queue q).held = []) :
    e.discardHeld q = (e.setQueue q { e.queue q with held := [], reason := 0, holdIdx := 0, head := (e.queue q).nextRead }).modCtx
      (e.queue q).ctx (fun c => { c with discarded := c.discarded + 0 }) := by
  simp [Dev.discardHeld, h]

theorem Dev.ErrorAt.discardHeld (h : Dev.ErrorAt d q prod done e) : Dev.ErrorAt d q prod done (e.discardHeld q) := by
  rw [e.discardHeld_nil q h.held]
  refine Dev.ErrorAt.front ?_ (Dev.modCtx_frontOnly _ _ _)
  exact h.setQueue h.state rfl rfl rfl

theorem Dev.ErrorAt.faultQueue (h : Dev.ErrorAt d q prod done e) (st kind iova : Nat) :
    Dev.ErrorAt d q prod done (e.faultQueue q st kind iova) := by
  unfold Dev.faultQueue
  dsimp only
  rw [if_pos h.state]
  refine Dev.ErrorAt.front ?_ (Dev.post_frontOnly _ _ _)
  exact h.setQueue rfl rfl rfl h.held

theorem Dev.ErrorAt.putStatus (h : Dev.ErrorAt d q prod done e) : Dev.ErrorAt d q prod done (e.putStatus q).1 := by
  unfold Dev.putStatus
  dsimp only
  split
  · exact h
  have hw := h.front (e.frontWrite_frontOnly (e.queue q).ctx (.queue q 3) (e.queue q).st ((e.queue q).statusBytes e.lt))
  generalize e.frontWrite (e.queue q).ctx (.queue q 3) (e.queue q).st _ = w at hw ⊢
  cases w with
  | ok g _ => exact hw.setQueue hw.state rfl rfl hw.held
  | fault g k => exact hw
  | wait g => exact hw

/-- The status block written, or found faulted: the queue stays in ERROR with its indices. -/
theorem Dev.ErrorAt.status (h : Dev.ErrorAt d q prod done e) : Dev.ErrorAt d q prod done (e.status q) := by
  have hput := h.putStatus
  unfold Dev.status
  generalize e.putStatus q = r at hput ⊢
  obtain ⟨g, k⟩ := r
  cases k with
  | none => exact hput
  | some k => exact (hput.faultQueue 3 k _).discardHeld

end

/-- An overrun of a queue that holds nothing (R53). -/
theorem Dev.overrun_errorAt (d : Dev) (q : QId) (val : Word) (h : (d.queue q).held = []) :
    Dev.ErrorAt d q (d.queue q).prod (d.queue q).done (d.overrun q val) := by
  have hset : Dev.ErrorAt d q (d.queue q).prod (d.queue q).done (d.setQueue q { d.queue q with state := .error }) := by
    constructor <;> simp [Dev.queue_setQueue, h]
    rfl
  exact ((hset.front (Dev.postCtx_frontOnly _ _ _ _)).discardHeld).status

/-! ## The three ends of a doorbell -/

theorem exec_doorbell (vf : Fin 16) (off : BitVec 24) (width : Nat) (val : Word) (s : State) :
    exec (.doorbell vf off width val) s = .next { s with dev := s.dev.doorbell vf off width val } := rfl

theorem Dev.doorbellTakes_eq_false_of_misplaced (d : Dev) (vf : Fin 16) (off : BitVec 24) (width : Nat) (val : Word)
    (h : width ≠ 32 ∨ off.toNat % 4096 ≠ 0) : d.doorbellTakes vf off width val = false := by
  rcases h with hwidth | hoff
  · simp [Dev.doorbellTakes, hwidth]
  · simp [Dev.doorbellTakes, hoff]

/-- The start of a queue's page, as an offset in BAR2. -/
theorem toNat_pageStart (q : QId) : (BitVec.ofNat 24 (4096 * q.val)).toNat = 4096 * q.val := by
  have := q.isLt
  rw [BitVec.toNat_ofNat]
  omega

theorem pageStart_div (q : QId) : (BitVec.ofNat 24 (4096 * q.val)).toNat / 4096 = q.val := by
  rw [toNat_pageStart, Nat.mul_div_cancel_left _ (by decide)]

theorem Dev.doorbellTakes_page_iff (d : Dev) (vf : Fin 16) (q : QId) (val : Word) :
    d.doorbellTakes vf (BitVec.ofNat 24 (4096 * q.val)) 32 val = true ↔
      (d.ctx (d.queue q).ctx).state ≠ .free ∧ (d.ctx (d.queue q).ctx).vf = vf ∧ (d.queue q).state = .enabled
        ∧ newer val (d.queue q).prod = true := by
  unfold Dev.doorbellTakes
  rw [pageStart_div, toNat_pageStart]
  simp [and_assoc]

section
variable {d : Dev} (hserves : d.serves .pcie 0x10000 = true)
include hserves

/-- A doorbell that takes effect at an offset in queue q's page: the producer index moves unless the ring is overrun. -/
theorem Dev.doorbell_taken {vf : Fin 16} {off : BitVec 24} {width : Nat} {val : Word} {q : QId} (hoff : off.toNat / 4096 = q.val)
    (h : d.doorbellTakes vf off width val = true) :
    d.doorbell vf off width val =
      if 2 ^ (d.queue q).log2 < (val - (d.queue q).done).toNat then d.overrun q val else d.setQueue q { d.queue q with prod := val } := by
  obtain rfl : ⟨off.toNat / 4096, Nat.div_lt_of_lt_mul off.isLt⟩ = q := Fin.ext hoff
  simp [Dev.doorbell, hserves, h]

/-- A doorbell that does not take effect is counted in HQS_CNT_DB_IGNORED, here short of the counter's report. -/
theorem Dev.doorbell_ignored {vf : Fin 16} {off : BitVec 24} {width : Nat} {val : Word} (hquiet : Quiet d 0x10028 32)
    (h : d.doorbellTakes vf off width val = false) : d.doorbell vf off width val = counted d 0x10028 32 := by
  have hbump : d.bump hqsSet 2 1 = counted d 0x10028 32 := by
    refine Dev.bump_silent (off := 0x10028) (w := 32) rfl d 1 ?_
    rcases hquiet with hlow | hsat
    · exact .inl (by omega)
    · exact .inr (.inl hsat)
  simp [Dev.doorbell, hserves, h, hbump]

end

/-- Settles O14: the doorbell's own test is `takes` (`Dev.doorbellTakes_page_iff`); what an overrun does after it has put the queue in ERROR
keeps it there with its indices (`Dev.ErrorAt`). -/
theorem doorbellMovesProducer : Obligations.DoorbellMovesProducer := by
  unfold Obligations.DoorbellMovesProducer
  intro vf q val s hserves x page takes
  have htakes : s.dev.doorbellTakes vf page 32 val = true ↔ takes := s.dev.doorbellTakes_page_iff vf q val
  simp only [exec_doorbell]
  refine ⟨fun h hroom => ?_, fun h hover hheld => ?_, fun hquiet => ⟨fun h => ?_, fun off width h => ?_⟩⟩
  · rw [Dev.doorbell_taken hserves (pageStart_div q) (htakes.mpr h), if_neg (Nat.not_lt.mpr hroom)]
    refine ⟨_, rfl, ⟨rfl, fun k hk => ?_⟩, ?_⟩
    · exact (Dev.queue_setQueue _ _ _ _).trans (if_neg hk)
    · exact (Dev.queue_setQueue _ _ _ _).trans (if_pos rfl)
  · rw [Dev.doorbell_taken hserves (pageStart_div q) (htakes.mpr h), if_pos hover]
    obtain ⟨hframe, hstate, hprod, hdone, -⟩ := s.dev.overrun_errorAt q val hheld
    have hctl : ControlOnly s { s with dev := s.dev.overrun q val } := congrArg (State.mk s.pending s.sec) hframe
    exact ⟨_, rfl, hctl, hstate, hprod, hdone⟩
  · rw [Dev.doorbell_ignored hserves hquiet (Bool.eq_false_iff.mpr (h ∘ htakes.mp))]
  · rw [Dev.doorbell_ignored hserves hquiet (s.dev.doorbellTakes_eq_false_of_misplaced vf off width val h)]

end Sys2Proof.Machine
end

section
/-!
PROOFS. Contract classes and HQS_BLOCK_MAX (R69, R70): the tests of admission and what a write taken or refused leaves.
-/
namespace Sys2Proof.Machine

/-! ## Class registers -/

theorem bits_zero (x hi : Nat) : bits x hi 0 = x % 2 ^ (hi + 1) := by simp [bits]

/-- A register written with a field of fewer than 32 bits reads as that field. -/
theorem Dev.toNat_reg_setReg_self (d : Dev) (off : Nat) {v : Nat} (h : v < 2 ^ 32) :
    ((d.setReg off (BitVec.ofNat 32 v)).reg off).toNat = v := by
  rw [Dev.reg_setReg, if_pos rfl, BitVec.toNat_ofNat, Nat.mod_eq_of_lt h]

/-- UTIL with the pair of class c replaced, class by class (R69). -/
theorem Dev.utilWith_eq (d : Dev) (c bound budget : Nat) :
    d.utilWith c bound budget =
      ((List.range 16).map (fun k =>
        if k = c then (if bound = 0 then 0 else (1024 * budget + bound - 1) / bound)
        else if d.classBound k = 0 then 0 else (1024 * d.classBudget k + d.classBound k - 1) / d.classBound k)).sum := by
  unfold Dev.utilWith
  congr 2
  funext k
  by_cases hk : k = c <;> simp [hk, ceilDiv]

theorem Dev.classOk_iff (d : Dev) (c bound budget : Nat) :
    d.classOk c bound budget = true ↔ budget + d.blockMax ≤ bound ∧ d.utilWith c bound budget ≤ 1024 := by
  simp [Dev.classOk]

/-! ## The end of a class write -/

/-- A class register written where the write passes its tests, and the answer in HQS_CLASS_STATUS and FMW_LAST. -/
def Dev.classWrite (d : Dev) (c off v : Nat) (ok : Bool) : Dev :=
  served ((if ok then d.setReg off (BitVec.ofNat 32 v) else d).classResult c ok) off

/-- A write of BOUND passes with the tests of R69, or, with 0, while no queue of the class is in use. -/
def Dev.boundOk (d : Dev) (c : ClassId) (v : Nat) : Bool :=
  if v = 0 then !d.hq.queues.any (fun e => e.2.cls = c && (e.2.state = .enabled || e.2.state = .stopping || e.2.state = .error))
  else d.classOk c v (d.classBudget c)

/-- A write of BUDGET passes with the tests of R69, or while the class is disabled. -/
def Dev.budgetOk (d : Dev) (c : ClassId) (v : Nat) : Bool := d.classBound c = 0 || d.classOk c (d.classBound c) v

theorem exec_hqsClassBound (c : ClassId) (val : Word) (s : State) (h : s.dev.fwRuns = true) :
    exec (.hqsClassBound c val) s =
      .next { s with dev := s.dev.classWrite c (0x10100 + 8 * c.val) (bits val.toNat 23 0) (s.dev.boundOk c (bits val.toNat 23 0)) } := by
  simp only [exec, execHqsClassBound, State.onDev_eq, h, if_true]
  rfl

theorem exec_hqsClassBudget (c : ClassId) (val : Word) (s : State) (h : s.dev.fwRuns = true) :
    exec (.hqsClassBudget c val) s =
      .next { s with dev := s.dev.classWrite c (0x10104 + 8 * c.val) (bits val.toNat 23 0) (s.dev.budgetOk c (bits val.toNat 23 0)) } := by
  simp only [exec, execHqsClassBudget, State.onDev_eq, h, if_true]
  rfl

/-- What a class write leaves. One that passes: its register, CHECK_FAIL clear, FMW_LAST OK. One that does not: every register as it was,
CHECK_FAIL set, the class named, FMW_LAST REFUSED. -/
theorem classWrite_spec (s : State) (c off : Nat) {v : Nat} (hv : v < 2 ^ 32) {test : Bool} {ok : Prop} (htest : test = true ↔ ok) :
    let t : State := { s with dev := s.dev.classWrite c off v test }
    OnlyReg s t off
      ∧ (ok → (t.dev.reg off).toNat = v ∧ t.dev.hq.checkFail = false ∧ ServedAt t off 0 ∧ t.dev.hq.lastClass = s.dev.hq.lastClass)
      ∧ (¬ ok → t.dev.reg off = s.dev.reg off ∧ t.dev.hq.checkFail = true ∧ t.dev.hq.lastClass = c ∧ ServedAt t off 1) := by
  cases test with
  | true =>
    have hothers (o : Nat) (ho : o ≠ off) : (s.dev.setReg off (BitVec.ofNat 32 v)).reg o = s.dev.reg o := by
      rw [Dev.reg_setReg, if_neg ho]
    exact ⟨⟨rfl, hothers⟩, fun _ => ⟨s.dev.toNat_reg_setReg_self off hv, rfl, ⟨rfl, rfl⟩, rfl⟩, fun hno => absurd (htest.mp rfl) hno⟩
  | false => exact ⟨⟨rfl, fun _ _ => rfl⟩, fun hok => absurd (htest.mpr hok) (by decide), fun _ => ⟨rfl, rfl, rfl, rfl, rfl⟩⟩

/-- Each class register's own test is that of R69, so its write ends as `classWrite_spec` says. -/
theorem classAdmission : ClassAdmission := by
  unfold ClassAdmission
  intro c val s hruns v d inUse share util passes done
  have hfield : bits val.toNat 23 0 = v := bits_zero _ _
  have hv : v < 2 ^ 32 := Nat.lt_trans (Nat.mod_lt _ (by decide)) (by decide)
  have hpasses (bound budget : Nat) : d.classOk c bound budget = true ↔ passes bound budget := by
    rw [Dev.classOk_iff, Dev.utilWith_eq]
  refine ⟨?_, ?_⟩
  · have htest : d.boundOk c v = true ↔ (if v = 0 then inUse = false else passes v (d.classBudget c)) := by
      unfold Dev.boundOk
      split
      · exact (Bool.not_eq_true' _).to_iff
      · exact hpasses _ _
    rw [exec_hqsClassBound c val s hruns, hfield]
    exact ⟨_, rfl, classWrite_spec s c _ hv htest⟩
  · have htest : d.budgetOk c v = true ↔ d.classBound c = 0 ∨ passes (d.classBound c) v := by
      rw [← hpasses, Dev.budgetOk, Bool.or_eq_true, decide_eq_true_iff]
    rw [exec_hqsClassBudget c val s hruns, hfield]
    exact ⟨_, rfl, classWrite_spec s c _ hv htest⟩

/-! ## HQS_BLOCK_MAX -/

theorem Dev.blockMaxOk_iff (d : Dev) (v : Nat) :
    d.blockMaxOk v = true ↔
      10 ≤ v ∧ v ≤ 1000 ∧ d.hq.infl = [] ∧ ∀ c, c < 16 → d.classBound c ≠ 0 → d.classBudget c + v ≤ d.classBound c := by
  simp [Dev.blockMaxOk, and_assoc, or_iff_not_imp_left]

theorem exec_hqsBlockMax (val : Word) (s : State) (h : s.dev.reaches .pcie 0x10010 = true) :
    exec (.hqsBlockMax val) s = .next { s with dev := s.dev.writeBlockMax val } := by
  simp only [exec, execHqsBlockMax, State.onDev_eq, Dev.atReg_reached _ _ _ _ h]

theorem Dev.writeBlockMax_taken (d : Dev) (val : Word) (h : d.blockMaxOk (bits val.toNat 10 0) = true) :
    d.writeBlockMax val = d.setReg 0x10010 (BitVec.ofNat 32 (bits val.toNat 10 0)) := if_pos h

theorem Dev.writeBlockMax_refused (d : Dev) (val : Word) (h : ¬ d.blockMaxOk (bits val.toNat 10 0) = true) : d.writeBlockMax val = d := if_neg h

theorem Dev.blockMax_setReg (d : Dev) {v : Nat} (h : v < 2 ^ 11) : (d.setReg 0x10010 (BitVec.ofNat 32 v)).blockMax = v := by
  rw [Dev.blockMax, d.toNat_reg_setReg_self _ (Nat.lt_trans h (by decide)), bits_zero, Nat.mod_eq_of_lt h]

theorem blockMaxAdmission : BlockMaxAdmission := by
  unfold BlockMaxAdmission
  intro val s hreach v ok
  have hfield : bits val.toNat 10 0 = v := bits_zero _ _
  have hv : v < 2 ^ 11 := Nat.mod_lt _ (by decide)
  have hok : s.dev.blockMaxOk (bits val.toNat 10 0) = true ↔ ok := hfield ▸ s.dev.blockMaxOk_iff _
  rw [exec_hqsBlockMax val s hreach]
  refine ⟨_, rfl, ?_⟩
  by_cases h : ok
  · rw [s.dev.writeBlockMax_taken val (hok.mpr h), hfield]
    exact ⟨rfl, fun _ => s.dev.blockMax_setReg hv, fun hno => absurd h hno, fun o ho => (s.dev.reg_setReg _ _ o).trans (if_neg ho)⟩
  · rw [s.dev.writeBlockMax_refused val (h ∘ hok.mp)]
    exact ⟨rfl, fun hyes => absurd hyes h, fun _ => rfl, fun _ _ => rfl⟩

/-- Settles O16: every class write is one write under one test (`classWrite_spec`), which is R69's (`Dev.classOk_iff`, `Dev.utilWith_eq`);
HQS_BLOCK_MAX is written under R70's (`Dev.blockMaxOk_iff`). -/
theorem admissionTests : Obligations.AdmissionTests := ⟨classAdmission, blockMaxAdmission⟩

end Sys2Proof.Machine
end

section
/-!
PROOFS. The climate of the part (R414, R421 to R430): what a sensor round judges, and what the device reset of a trip leaves of it. Frame
lemmas of the operations below the engines: counters, events, translation, the granary, packets.
-/
namespace Sys2Proof.Machine

/-- LT, the power block, resets, the layer-halves under write hold, and each granary channel's write hold and temperature. -/
structure Climate where
  lt : Nat
  pw : Pwr
  rs : Rst
  hold : Nat
  chans : Nat → Bool × Nat

/-- The climate of the part. -/
def Dev.climate (d : Dev) : Climate := ⟨d.lt, d.pw, d.rs, d.mm.hold, fun n => ((d.chan n).hold, (d.chan n).temp)⟩

theorem Dev.EventOnly.climate_eq {d e : Dev} (h : Dev.EventOnly d e) : e.climate = d.climate := by
  unfold Dev.EventOnly at h
  rw [h]
  rfl

/-- The part that an operation leaves beside a result, where the result has been named. -/
theorem climate_of_eq {α : Type} {r : Dev × α} {k : Climate} (hr : r.1.climate = k) {e : Dev} {x : α} (h : r = (e, x)) : e.climate = k := by
  rw [h] at hr
  exact hr

theorem Front.climate_of_eq {α : Type} {r q : Front α} {k : Climate} (hr : r.dev.climate = k) (h : r = q) : q.dev.climate = k := h ▸ hr

theorem foldl_climate {α : Type} {f : Dev → α → Dev} (hf : ∀ d a, (f d a).climate = d.climate) {l : List α} {d : Dev} :
    (l.foldl f d).climate = d.climate := by
  induction l generalizing d with
  | nil => rfl
  | cons a l ih => exact ih.trans (hf d a)

/-- A fold that carries a value beside the part. -/
theorem foldl_fst_climate {α β : Type} {f : Dev × β → α → Dev × β} (hf : ∀ r a, (f r a).1.climate = r.1.climate) {l : List α} {r : Dev × β} :
    (l.foldl f r).1.climate = r.1.climate := by
  induction l generalizing r with
  | nil => rfl
  | cons a l ih => exact ih.trans (hf r a)

section
variable {d : Dev}

/-! ## Fields that the climate does not read

The proofs stand in brackets so that simp rewrites with these lemmas and does not unfold the operations. -/

theorem Dev.climate_withFl {x : Floor} : ({ d with fl := x } : Dev).climate = d.climate := (rfl)
theorem Dev.climate_withFab {x : Fab} : ({ d with fab := x } : Dev).climate = d.climate := (rfl)
theorem Dev.climate_withUpd {x : Upd} : ({ d with upd := x } : Dev).climate = d.climate := (rfl)

@[simp] theorem Dev.setCtx_climate {c : Nat} {x : Ctx} : (d.setCtx c x).climate = d.climate := (rfl)
@[simp] theorem Dev.modCtx_climate {c : Nat} {f : Ctx → Ctx} : (d.modCtx c f).climate = d.climate := (rfl)
@[simp] theorem Dev.setRing_climate {c : CtxId} {r : Ring} : (d.setRing c r).climate = d.climate := (rfl)
@[simp] theorem Dev.setJob_climate {t : Nat} {j : Job} : (d.setJob t j).climate = d.climate := (rfl)
@[simp] theorem Dev.setPort_climate {p : Nat} {x : Port} : (d.setPort p x).climate = d.climate := (rfl)
@[simp] theorem Dev.modPort_climate {p : Nat} {f : Port → Port} : (d.modPort p f).climate = d.climate := (rfl)
@[simp] theorem Dev.modCluster_climate {n : Nat} {f : Cluster → Cluster} : (d.modCluster n f).climate = d.climate := (rfl)
@[simp] theorem Dev.modCore_climate {n : Nat} {f : Core → Core} : (d.modCore n f).climate = d.climate := (rfl)
@[simp] theorem Dev.modGroup_climate {g : Nat} {f : Group → Group} : (d.modGroup g f).climate = d.climate := (rfl)
@[simp] theorem Dev.modGlean_climate {e : Nat} {f : Glean → Glean} : (d.modGlean e f).climate = d.climate := (rfl)
@[simp] theorem Dev.modHalf_climate {h : Nat} {f : LlcHalf → LlcHalf} : (d.modHalf h f).climate = d.climate := (rfl)
@[simp] theorem Dev.modGrp_climate {g : Nat} {f : Grp → Grp} : (d.modGrp g f).climate = d.climate := (rfl)
@[simp] theorem Dev.fpUpdate_climate {f : Floor → Floor} : (d.fpUpdate f).climate = d.climate := (rfl)
@[simp] theorem Dev.mapDrills_climate {f : List DXfer → List DXfer} : (d.mapDrills f).climate = d.climate := (rfl)
@[simp] theorem Dev.blameAll_climate {p : Work → Bool} {c x : Nat} : (d.blameAll p c x).climate = d.climate := (rfl)
@[simp] theorem Dev.lastInput_climate {t lt : Nat} : (d.lastInput t lt).climate = d.climate := (rfl)
@[simp] theorem Dev.setGran_climate {s : Store} : (d.setGran s).climate = d.climate := (rfl)
@[simp] theorem Dev.putLine_climate {l : Line} : (d.putLine l).climate = d.climate := (rfl)
@[simp] theorem Dev.dropLine_climate {l : Line} : (d.dropLine l).climate = d.climate := (rfl)
@[simp] theorem Dev.touch_climate {h s x w : Nat} : (d.touch h s x w).climate = d.climate := (rfl)
@[simp] theorem Dev.resow_climate {h a n : Nat} : (d.resow h a n).climate = d.climate := (rfl)
@[simp] theorem Dev.joinPri_climate {c : CtxId} {p : Nat} {w : Option Issuer} : (d.joinPri c p w).climate = d.climate := (rfl)
@[simp] theorem Dev.deferFix_climate {e a : Nat} : (d.deferFix e a).climate = d.climate := (rfl)
@[simp] theorem Dev.endXact_climate {t st : Nat} {x : Xact} {p : Packet} : (d.endXact t x st p).climate = d.climate := (rfl)
@[simp] theorem Dev.lanesSend_climate {p : Nat} {rs : List (Nat × Nat × Nat)} : (d.lanesSend p rs).climate = d.climate := (rfl)
@[simp] theorem Dev.hostWrite_climate {a : Nat} {bs : List Byte} : (d.hostWrite a bs).climate = d.climate := (rfl)
@[simp] theorem Dev.sendMsix_climate {v : Nat} : (d.sendMsix v).climate = d.climate := (rfl)
@[simp] theorem Dev.grant_climate {core i : Nat} {inv : Bool} : (d.grant core i inv).climate = d.climate := (rfl)
@[simp] theorem Dev.granPut_climate {b : Nat} {x : Blk} : (d.granPut b x).climate = d.climate := (rfl)

@[simp] theorem Dev.setToken_climate {core t v : Nat} {scope : Bool} : (d.setToken core scope t v).climate = d.climate := by
  cases scope <;> rfl

@[simp] theorem Dev.modWork_climate {t : Nat} {f : Work → Work} : (d.modWork t f).climate = d.climate := by
  rw [Dev.modWork_frame]; rfl

@[simp] theorem Dev.modSlot_climate {n : Nat} {f : Slot → Slot} : (d.modSlot n f).climate = d.climate := by
  rw [Dev.modSlot_frame]; rfl

@[simp] theorem Dev.finishWork_climate {t : Tag} {st : Nat} {r : Word} : (d.finishWork t st r).climate = d.climate := by
  rw [Dev.finishWork_frame]; rfl

/-- A change of a channel that leaves its write hold and its temperature. -/
theorem Dev.modChan_climate {n : Nat} {f : Chan → Chan} (hf : ∀ x, (f x).hold = x.hold ∧ (f x).temp = x.temp) :
    (d.modChan n f).climate = d.climate := by
  have hchan : ∀ k, (((d.modChan n f).chan k).hold, ((d.modChan n f).chan k).temp) = ((d.chan k).hold, (d.chan k).temp) := by
    intro k
    rw [Dev.chan_modChan]
    split
    · next hk => rw [hk, (hf _).1, (hf _).2]
    · rfl
  exact congrArg (Climate.mk d.lt d.pw d.rs d.mm.hold) (funext hchan)

theorem Dev.holdWrite_climate {key a : Nat} {f : Dev → Dev} (hf : (f d).climate = d.climate) : (d.holdWrite key a f).climate = d.climate := by
  fun_cases Dev.holdWrite
  · rfl
  · exact hf

@[simp] theorem Dev.markUnreachable_climate {t : Option Tag} : (d.markUnreachable t).climate = d.climate := by
  fun_cases Dev.markUnreachable <;> simp

@[simp] theorem Dev.markRetired_climate {t : Option Tag} : (d.markRetired t).climate = d.climate := by
  fun_cases Dev.markRetired <;> simp

@[simp] theorem Dev.markLast_climate {n : Nat} {t : Tag} {x : Rec64} : (d.markLast n t x).climate = d.climate := by
  fun_cases Dev.markLast <;> simp

@[simp] theorem Dev.missWait_climate {h n : Nat} : (d.missWait h n).climate = d.climate := by
  fun_cases Dev.missWait <;> rfl

@[simp] theorem Dev.missDone_climate {h n : Nat} : (d.missDone h n).climate = d.climate := by
  fun_cases Dev.missDone <;> rfl

/-! ## Counters and events -/

@[simp] theorem Dev.rawBump_climate {cs : CtrSet} {i n : Nat} : (d.rawBump cs i n).1.climate = d.climate := (d.rawBump_eventOnly cs i n).climate_eq

@[simp] theorem Dev.bump_climate {cs : CtrSet} {i n : Nat} : (d.bump cs i n).climate = d.climate := (d.bump_eventOnly cs i n).climate_eq

@[simp] theorem devPost_climate {k code p : Nat} {c : Option CtxId} {r : Bool} : (devPost k code c r p d).climate = d.climate :=
  (devPost_eventOnly k code c r p d).climate_eq

@[simp] theorem Dev.post_climate {code p : Nat} : (d.post code p).climate = d.climate := (d.post_eventOnly code p).climate_eq

@[simp] theorem Dev.redirect_climate {c : CtxId} {code p : Nat} : (d.redirect c code p).climate = d.climate := by simp [Dev.redirect]

@[simp] theorem Dev.stopRing_climate {c : CtxId} {st kind iova : Nat} : (d.stopRing c st kind iova).climate = d.climate := by simp [Dev.stopRing]

@[simp] theorem Dev.parkRecord_climate {c : CtxId} {n : Nat} {rcd : Rec64} : (d.parkRecord c n rcd).climate = d.climate := by
  fun_cases Dev.parkRecord <;> simp

@[simp] theorem Dev.fpChanged_climate {kind unit lane : Nat} : (d.fpChanged kind unit lane).climate = d.climate := by
  unfold Dev.fpChanged
  rw [Dev.climate_withFl, Dev.post_climate]

/-! ## Tokens and cores -/

@[simp] theorem Dev.grants_climate {n core t : Nat} {scope : Bool} : (Dev.grants n core scope t d).climate = d.climate := by
  induction n generalizing d with
  | zero => rfl
  | succ n ih =>
    rw [Dev.grants]
    repeat' split
    all_goals simp [ih]

theorem Dev.signal_climate {core t n : Nat} {scope : Bool} {e : Dev} (h : d.signal core scope t n = some e) : e.climate = d.climate := by
  revert h
  fun_cases Dev.signal
  · simp
  · rintro ⟨⟩
    simp

theorem Dev.colSignal_climate {x : Rec64} {e : Dev} (h : d.colSignal x = some e) : e.climate = d.climate := by
  revert h
  fun_cases Dev.colSignal
  · exact Dev.signal_climate
  · rintro ⟨⟩
    rfl

@[simp] theorem Dev.freeCluster_climate {cl : Nat} : (d.freeCluster cl).climate = d.climate := by
  fun_cases Dev.freeCluster <;> simp

@[simp] theorem Dev.clearCores_climate {t : Tag} : (d.clearCores t).climate = d.climate :=
  (foldl_climate fun _ _ => Dev.freeCluster_climate).trans (foldl_climate fun _ _ => Dev.modCore_climate)

@[simp] theorem Dev.leaveCores_climate {t : Tag} : (d.leaveCores t).climate = d.climate := by simp [Dev.leaveCores]

@[simp] theorem Dev.endLaunch_climate {t : Tag} {st : Nat} : (d.endLaunch t st).climate = d.climate := by simp [Dev.endLaunch]

/-! ## Translation -/

@[simp] theorem Dev.cacheWalk_climate {cl : Option Nat} {w : Walk} {central : Bool} : (d.cacheWalk cl w central).climate = d.climate := by
  cases cl <;> cases central <;> rfl

@[simp] theorem Dev.askAts_climate {p : BitVec 20} {page : Nat} {wr : Bool} : (d.askAts p page wr).1.climate = d.climate := by
  unfold Dev.askAts
  dsimp only
  split
  · exact Dev.bump_climate
  · exact Dev.bump_climate

@[simp] theorem Dev.sendPri_climate {c : CtxId} {page iova : Nat} {who : Issuer} {wr : Bool} :
    (d.sendPri c page who wr iova).climate = d.climate := by
  fun_cases Dev.sendPri
  · rfl
  · exact Dev.bump_climate

@[simp] theorem Dev.leaf_climate {c : CtxId} {cl : Option Nat} {iova : Nat} {wr : Bool} : (d.leaf c cl iova wr).1.climate = d.climate := by
  fun_cases Dev.leaf <;> simp +zetaDelta

@[simp] theorem Dev.hostPage_climate {c : CtxId} {p : BitVec 20} {who : Option Issuer} {iova : Nat} {wr : Bool} :
    (d.hostPage c p who iova wr).1.climate = d.climate := by
  fun_cases Dev.hostPage
  case case1 | case3 => simp +zetaDelta [apply_ite]
  case case2 | case4 => simp
  case case5 =>
    have hask := climate_of_eq Dev.askAts_climate ‹_›
    simp +zetaDelta [apply_ite, hask]
  case case6 | case8 => exact climate_of_eq Dev.askAts_climate ‹_›
  case case7 => exact Dev.sendPri_climate.trans (climate_of_eq Dev.askAts_climate ‹_›)

@[simp] theorem Dev.xlate_climate {c : CtxId} {cl : Option Nat} {ag : Agent} {who : Option Issuer} {iova : Nat} {wr : Bool} :
    (d.xlate c cl ag who iova wr).1.climate = d.climate := by
  fun_cases Dev.xlate
  case case1 => exact Dev.bump_climate
  case case2 | case3 | case4 => exact Dev.bump_climate.trans (climate_of_eq Dev.leaf_climate ‹_›)
  case case5 =>
    have hleaf := climate_of_eq Dev.leaf_climate ‹_›
    have hpage := climate_of_eq Dev.hostPage_climate ‹_›
    exact Dev.bump_climate.trans (hpage.trans hleaf)
  case case6 => exact Dev.hostPage_climate.trans (climate_of_eq Dev.leaf_climate ‹_›)
  case case7 => exact climate_of_eq Dev.leaf_climate ‹_›

@[simp] theorem Dev.frontRead_climate {c : CtxId} {who : Issuer} {iova n : Nat} : (d.frontRead c who iova n).dev.climate = d.climate := by
  fun_cases Dev.frontRead <;> exact climate_of_eq Dev.xlate_climate ‹_›

@[simp] theorem Dev.frontWrite_climate {c : CtxId} {who : Issuer} {iova : Nat} {bs : List Byte} :
    (d.frontWrite c who iova bs).dev.climate = d.climate := by
  fun_cases Dev.frontWrite
  · exact Dev.hostWrite_climate.trans (climate_of_eq Dev.xlate_climate ‹_›)
  · exact climate_of_eq Dev.xlate_climate ‹_›
  · exact climate_of_eq Dev.xlate_climate ‹_›

@[simp] theorem Dev.ctxPut_climate {c : CtxId} {n : Nat} {rcd : Rec64} {r : Ring} : (d.ctxPut c n rcd r).1.climate = d.climate := by
  fun_cases Dev.ctxPut
  case case1 => rfl
  case case2 | case3 => exact Front.climate_of_eq Dev.frontWrite_climate ‹_›
  case case4 =>
    have hwrite := Front.climate_of_eq Dev.frontWrite_climate ‹_›
    simp +zetaDelta only [apply_ite, Dev.sendMsix_climate, Dev.setRing_climate, ite_self]
    exact hwrite

@[simp] theorem Dev.ctxWrite_climate {c : CtxId} {n : Nat} {rcd : Rec64} : (d.ctxWrite c n rcd).1.climate = d.climate := by
  rw [Dev.ctxWrite_eq]
  split
  · split
    · exact Front.climate_of_eq Dev.frontRead_climate ‹_›
    · exact Front.climate_of_eq Dev.frontRead_climate ‹_›
    · have hread := Front.climate_of_eq Dev.frontRead_climate ‹_›
      exact Dev.ctxPut_climate.trans hread
  · exact Dev.ctxPut_climate

@[simp] theorem Dev.postCtx_climate {c : CtxId} {code p : Nat} : (d.postCtx c code p).climate = d.climate := by
  fun_cases Dev.postCtx
  · simp
  · simp +zetaDelta
  all_goals simp +zetaDelta [climate_of_eq Dev.ctxWrite_climate ‹_›]

@[simp] theorem Dev.postUpd_climate {code p : Nat} : (d.postUpd code p).climate = d.climate := by
  fun_cases Dev.postUpd <;> simp

@[simp] theorem Dev.sayPoison_climate {c : CtxId} {cl unit dpa : Nat} : (d.sayPoison c cl unit dpa).climate = d.climate := by
  simp [Dev.sayPoison]

/-! ## The granary -/

@[simp] theorem Dev.granCorrect_climate {b : Nat} {p : Par} : (d.granCorrect b p).climate = d.climate := by
  fun_cases Dev.granCorrect <;> simp

@[simp] theorem Dev.retireChannel_climate {n : Nat} : (d.retireChannel n).climate = d.climate := by
  fun_cases Dev.retireChannel <;> simp +zetaDelta

@[simp] theorem Dev.heldChan_climate {n : Nat} : (d.heldChan n).climate = d.climate := by
  unfold Dev.heldChan
  rw [Dev.modChan_climate, Dev.bump_climate]
  exact fun _ => ⟨rfl, rfl⟩

@[simp] theorem Dev.granUnc_climate {b : Nat} : (d.granUnc b).climate = d.climate := by
  have htally (e : Dev) (n t : Nat) : (e.modChan n (fun c => { c with tally := t })).climate = e.climate :=
    Dev.modChan_climate fun _ => ⟨rfl, rfl⟩
  fun_cases Dev.granUnc <;> simp +zetaDelta [htally]

@[simp] theorem Dev.granRead_climate {b : Nat} : (d.granRead b).1.climate = d.climate := by
  fun_cases Dev.granRead
  case case1 | case2 | case3 | case4 | case7 => simp
  case case5 | case6 => simp +zetaDelta [apply_ite]

@[simp] theorem Dev.granWrite_climate {b : Nat} {x : Blk} : (d.granWrite b x).1.climate = d.climate := by
  fun_cases Dev.granWrite
  case case1 | case3 => simp
  case case2 => exact Dev.heldChan_climate

@[simp] theorem Dev.dpaBlock_climate {b : Nat} : (d.dpaBlock b).1.climate = d.climate := by
  fun_cases Dev.dpaBlock
  · exact climate_of_eq Dev.granRead_climate ‹_›
  · rfl

@[simp] theorem Dev.dpaWrite_climate {a : Nat} {bs : List Byte} : (d.dpaWrite a bs).climate = d.climate := by
  unfold Dev.dpaWrite
  refine foldl_climate fun e p => ?_
  extract_lets part
  split
  · rfl
  split
  · exact Dev.granWrite_climate
  split
  exact Dev.granWrite_climate.trans (climate_of_eq Dev.granRead_climate ‹_›)

@[simp] theorem Dev.dpaRead_climate {a n : Nat} : (d.dpaRead a n).1.climate = d.climate := by
  unfold Dev.dpaRead
  refine foldl_fst_climate (r := (d, [], none)) fun r p => ?_
  split
  split
  exact climate_of_eq Dev.dpaBlock_climate ‹_›

@[simp] theorem Dev.writeResume_climate {c : CtxId} : (d.writeResume c).climate = d.climate := by
  fun_cases Dev.writeResume
  case case3 =>
    have hread := climate_of_eq Dev.dpaRead_climate ‹_›
    simp +zetaDelta [hread]
  all_goals rfl

@[simp] theorem Dev.park_climate {c : CtxId} {p : ParkInfo} {slot : Option Nat} : (d.park c p slot).climate = d.climate := by
  fun_cases Dev.park <;> cases slot <;> simp +zetaDelta

@[simp] theorem Dev.parkWork_climate {t : Tag} {w : Work} {cause : Nat} {f : Option (XFault × Nat)} :
    (d.parkWork t w cause f).climate = d.climate := by simp [Dev.parkWork]

@[simp] theorem Dev.consume_climate {c : CtxId} {t : Option Tag} {cl unit dpa : Nat} : (d.consume c t cl unit dpa).climate = d.climate := by
  fun_cases Dev.consume
  case case1 => exact Dev.climate_withUpd
  all_goals simp

@[simp] theorem Dev.discardArrivals_climate {core : Nat} {as : List Arrival} : (d.discardArrivals core as).climate = d.climate := by
  unfold Dev.discardArrivals
  extract_lets e
  rw [foldl_climate]
  · unfold e
    split <;> simp
  · intro g c
    split
    · rfl
    · simp only [Dev.postUpd_climate, Dev.climate_withUpd]

@[simp] theorem Dev.evalGroup_climate {g : Nat} : (d.evalGroup g).climate = d.climate := by
  fun_cases Dev.evalGroup
  case case1 => rfl
  all_goals
    have hraw := climate_of_eq Dev.rawBump_climate ‹_›
    simp +zetaDelta [apply_ite, hraw]

@[simp] theorem Dev.evalGroups_climate {ss : List Shard} : (d.evalGroups ss).climate = d.climate := by
  unfold Dev.evalGroups
  exact foldl_climate fun _ _ => Dev.evalGroup_climate

/-! ## Packets -/

@[simp] theorem Dev.encode_climate {p : Nat} {f : List Byte} : (d.encode p f).climate = d.climate := by
  fun_cases Dev.encode <;> simp only [Dev.lanesSend_climate, Dev.setPort_climate]

@[simp] theorem Dev.wireOut_climate {p : Nat} {fs : List (List Byte)} : (d.wireOut p fs).climate = d.climate := by
  have hcode {e : Dev} : (fs.foldl (fun d f => d.encode p f) e).climate = e.climate := foldl_climate fun _ _ => Dev.encode_climate
  fun_cases Dev.wireOut <;> simp +zetaDelta only [Dev.bump_climate, hcode, Dev.climate_withFab]

@[simp] theorem Dev.pump_climate {p : Nat} : (d.pump p).climate = d.climate := by
  fun_cases Dev.pump
  case case1 => rfl
  case case2 => exact Dev.wireOut_climate
  case case3 => simp +zetaDelta only [Dev.wireOut_climate, Dev.setPort_climate, apply_ite, Dev.climate_withFab, ite_self]

@[simp] theorem Dev.sendPkt_climate {p : Nat} {x : Packet} : (d.sendPkt p x).climate = d.climate := by simp [Dev.sendPkt]

@[simp] theorem Dev.originate_climate {c : CtxId} {p : Packet} {dir : Option Bool} : (d.originate c p dir).1.climate = d.climate := by
  fun_cases Dev.originate
  case case1 | case4 => rfl
  case case2 => simp
  case case3 => simp only [Dev.sendPkt_climate, Dev.climate_withFab]

@[simp] theorem Dev.sendAborts_climate {x : Rec64} {s : Slot} {cause : Nat} : (d.sendAborts x s cause).climate = d.climate := by
  unfold Dev.sendAborts
  exact foldl_climate fun _ _ => Dev.originate_climate

@[simp] theorem Dev.warnAll_climate {n : Nat} {s : Slot} : (d.warnAll n s).climate = d.climate := by
  fun_cases Dev.warnAll <;> simp

end
end Sys2Proof.Machine
end

section
/-!
PROOFS. The climate under the last-level cache (R234 to R262): retirement, eviction, fills, sector reads and writes leave it as it was.
-/
namespace Sys2Proof.Machine

/-- Retirement of a way pair leaves the climate. -/
def Retire.Keeps (retire : Retire) : Prop := ∀ d h s x pair cause, (retire d h s x pair cause).climate = d.climate

/-- A room made for a line leaves the climate k. -/
def Room.Keeps (k : Climate) : Room → Prop
  | .way d _ => d.climate = k
  | _ => True

/-- A sector access leaves the climate k, whatever its outcome. -/
def SecRes.Keeps (k : Climate) : SecRes → Prop
  | .ok d _ _ _ _ => d.climate = k
  | .unreachable d => d.climate = k
  | .stall d _ => d.climate = k

section
variable {d : Dev} {k : Climate}

theorem SecRes.keeps_ok {b0 b1 : Blk} {g r : Bool} : SecRes.Keeps k (.ok d b0 b1 g r) ↔ d.climate = k := Iff.rfl
theorem SecRes.keeps_unreachable : SecRes.Keeps k (.unreachable d) ↔ d.climate = k := Iff.rfl
theorem SecRes.keeps_stall {c : Nat} : SecRes.Keeps k (.stall d c) ↔ d.climate = k := Iff.rfl

/-! ## Sectors written back -/

@[simp] theorem Dev.request_climate {h : Nat} {pinned miss : Bool} : (d.request h pinned miss).climate = d.climate := by
  fun_cases Dev.request <;> simp +zetaDelta [apply_ite]

@[simp] theorem Dev.heldBacks_climate {ls : List Line} : (d.heldBacks ls).climate = d.climate := by
  unfold Dev.heldBacks
  refine foldl_climate fun e l => ?_
  refine Dev.holdWrite_climate ?_
  exact Dev.heldChan_climate

@[simp] theorem Dev.waitBacks_climate {ls : List Line} : (d.waitBacks ls).1.climate = d.climate := by
  fun_cases Dev.waitBacks <;> simp

@[simp] theorem Dev.wbSector_climate {l : Line} {sec : Nat} : (d.wbSector l sec).climate = d.climate := by
  fun_cases Dev.wbSector <;> simp +zetaDelta

@[simp] theorem Dev.writeBack_climate {l : Line} : (d.writeBack l).climate = d.climate := by
  fun_cases Dev.writeBack <;> simp +zetaDelta [apply_ite]

@[simp] theorem Dev.fetchSector_climate {a : Nat} : (d.fetchSector a).1.climate = d.climate := by
  unfold Dev.fetchSector
  split
  split
  exact (climate_of_eq Dev.granRead_climate ‹_›).trans (climate_of_eq Dev.granRead_climate ‹_›)

/-! ## Retirement and eviction -/

section
variable {retire : Retire} (hr : retire.Keeps)
include hr

theorem Dev.watchWith_climate {h s x way : Nat} : (d.watchWith retire h s x way).climate = d.climate := by
  have hret (e : Dev) (h s x pair cause : Nat) : (retire e h s x pair cause).climate = e.climate := hr e h s x pair cause
  fun_cases Dev.watchWith <;> simp +zetaDelta [hret]

theorem Dev.noteWith_climate {l : Line} {i : Nat} : (d.noteWith retire l i).climate = d.climate := by
  fun_cases Dev.noteWith
  case case1 | case2 => rfl
  case case3 =>
    refine (hr _ _ _ _ _ _).trans ?_
    simp +zetaDelta
  case case4 => exact (Dev.watchWith_climate hr).trans Dev.bump_climate

theorem Dev.evictWith_climate {l : Line} : (d.evictWith retire l).climate = d.climate := by
  unfold Dev.evictWith
  refine (foldl_climate fun _ _ => Dev.noteWith_climate hr).trans ?_
  simp

theorem Dev.movePinned_climate {l : Line} : (d.movePinned retire l).1.climate = d.climate := by
  have hevict {ls : List Line} : (ls.foldl (Dev.evictWith retire) d).climate = d.climate := foldl_climate fun _ _ => Dev.evictWith_climate hr
  fun_cases Dev.movePinned
  · simp +zetaDelta only [Dev.putLine_climate, hevict]
  · simp +zetaDelta only [Dev.modHalf_climate, Dev.evictWith_climate hr]

end

theorem Dev.retireN_keeps (n : Nat) : Retire.Keeps (Dev.retireN n) := by
  induction n with
  | zero => exact fun _ _ _ _ _ _ => rfl
  | succ n ih =>
    intro d h s x pair cause
    rw [Dev.retireN]
    split
    · rfl
    split
    · simp
    extract_lets ls e seq
    split
    next g lost hfold =>
    have hg : g.climate = e.climate := by
      refine climate_of_eq (foldl_fst_climate (r := (e, false)) fun r l => ?_) hfold
      split
      · split
        exact climate_of_eq (Dev.movePinned_climate ih) ‹_›
      · exact Dev.evictWith_climate ih
    simp only [Dev.post_climate, Dev.climate_withFl, hg]
    exact Dev.modHalf_climate

theorem Dev.retirePair_keeps : Retire.Keeps Dev.retirePair := Dev.retireN_keeps 8

@[simp] theorem Dev.retirePair_climate {h s x pair cause : Nat} : (d.retirePair h s x pair cause).climate = d.climate :=
  Dev.retirePair_keeps d h s x pair cause

@[simp] theorem Dev.note_climate {l : Line} {i : Nat} : (d.note l i).climate = d.climate := Dev.noteWith_climate Dev.retirePair_keeps

@[simp] theorem Dev.evict_climate {l : Line} : (d.evict l).climate = d.climate := Dev.evictWith_climate Dev.retirePair_keeps

theorem foldl_evict_climate {ls : List Line} : (ls.foldl Dev.evict d).climate = d.climate := foldl_climate fun _ _ => Dev.evict_climate

@[simp] theorem Dev.tagBlock_climate {h s x j : Nat} : (d.tagBlock h s x j).climate = d.climate := by
  have hmend {t : Store} : ({ d with mm := { d.mm with tags := t } } : Dev).climate = d.climate := rfl
  fun_cases Dev.tagBlock
  case case1 | case2 => rfl
  case case3 => simp +zetaDelta only [Dev.retirePair_climate, Dev.post_climate, Dev.bump_climate, hmend]
  case case4 =>
    refine (Dev.watchWith_climate Dev.retirePair_keeps).trans ?_
    simp +zetaDelta only [Dev.bump_climate, hmend]

@[simp] theorem Dev.tagRead_climate {h s x : Nat} : (d.tagRead h s x).climate = d.climate := by
  fun_cases Dev.tagRead
  · rfl
  · exact foldl_climate fun _ _ => Dev.tagBlock_climate

@[simp] theorem Dev.wayBlock_climate {l : Line} {i : Nat} : (d.wayBlock l i).climate = d.climate := by
  fun_cases Dev.wayBlock <;> simp [apply_ite]

@[simp] theorem Dev.wayBlocks_climate {l : Line} {is : List Nat} : (d.wayBlocks l is).climate = d.climate := by
  unfold Dev.wayBlocks
  refine foldl_climate fun e i => ?_
  split <;> simp

/-! ## Lines filled and stored -/

theorem Dev.roomN_keeps {n h s x : Nat} {whole : Bool} (hd : d.climate = k) : (d.roomN n h s x whole).Keeps k := by
  induction n generalizing d with
  | zero => trivial
  | succ n ih =>
    rw [Dev.roomN]
    split
    · trivial
    next w _ =>
    extract_lets out e
    have he : e.climate = k := foldl_evict_climate.trans hd
    split
    · trivial
    split
    · exact ih he
    · exact he

theorem Dev.climate_of_makeRoom {h s x w : Nat} {whole : Bool} {e : Dev} (hroom : d.makeRoom h s x whole = .way e w) :
    e.climate = d.climate := by
  have hkeeps : (d.makeRoom h s x whole).Keeps d.climate := Dev.roomN_keeps rfl
  rw [hroom] at hkeeps
  exact hkeeps

@[simp] theorem Dev.settle_climate {l : Line} : (d.settle l).climate = d.climate := by
  have hmove {e : Dev} {l : Line} : (e.movePinned Dev.retirePair l).1.climate = e.climate := Dev.movePinned_climate Dev.retirePair_keeps
  unfold Dev.settle
  extract_lets l' at_ out e g
  have he : e.climate = d.climate := foldl_evict_climate
  have hg : g.climate = d.climate := by
    unfold g
    split
    · exact he
    split
    · rw [hmove, Dev.putLine_climate, he]
    · rw [Dev.evict_climate, he]
  split
  · exact hg
  · rw [foldl_climate fun _ _ => Dev.note_climate, hg]

theorem Dev.settleOr_keeps {d0 : Dev} {l : Line} {f : Dev → SecRes} (h0 : d0.climate = k) (h : d.climate = k)
    (hf : ∀ e, e.climate = k → (f e).Keeps k) : (Dev.settleOr d0 d l f).Keeps k := by
  fun_cases Dev.settleOr
  · exact (climate_of_eq Dev.waitBacks_climate ‹_›).trans h0
  · exact hf _ (Dev.settle_climate.trans h)

theorem Dev.fetchOr_keeps {d0 : Dev} {h a : Nat} {full : Bool} {f : Dev → Blk → Blk → Bool → SecRes} (h0 : d0.climate = k) (hd : d.climate = k)
    (hf : ∀ e b0 b1 r, e.climate = k → (f e b0 b1 r).Keeps k) : (Dev.fetchOr d0 d h a full f).Keeps k := by
  fun_cases Dev.fetchOr
  · exact hf _ _ _ _ (Dev.missDone_climate.trans hd)
  · exact hd
  · exact h0
  · exact hf _ _ _ _ (Dev.missDone_climate.trans ((climate_of_eq Dev.fetchSector_climate ‹_›).trans hd))

theorem Dev.missStall_keeps {h num : Nat} {ls : List Line} (hd : d.climate = k) : (d.missStall h num ls).Keeps k := by
  fun_cases Dev.missStall
  have hback := climate_of_eq Dev.waitBacks_climate ‹_›
  exact hback.trans (Dev.missWait_climate.trans hd)

theorem Dev.secWrite_keeps {f place home a off key : Nat} {xs : List Blk} {bs : List Byte} (h : d.climate = k) :
    (d.secWrite f place home a off xs bs key).Keeps k := by
  fun_cases Dev.secWrite
  case case1 => exact h
  case case2 =>
    refine (Dev.holdWrite_climate Dev.bump_climate).trans ?_
    simp +zetaDelta [h]
  case case3 =>
    refine Dev.settleOr_keeps (by simp +zetaDelta [h]) (by simp +zetaDelta [h]) fun e he => ?_
    exact (foldl_climate fun _ _ => Dev.note_climate).trans (Dev.touch_climate.trans he)
  case case5 =>
    refine Dev.fetchOr_keeps (by simp +zetaDelta [h]) (by simp +zetaDelta [h]) fun e b0 b1 r he => ?_
    exact Dev.settleOr_keeps (by simp +zetaDelta [h]) he fun g hg => Dev.touch_climate.trans hg
  case case7 => exact Dev.missStall_keeps (by simp +zetaDelta [h])
  case case10 =>
    have hroom := Dev.climate_of_makeRoom ‹_›
    refine Dev.fetchOr_keeps (by simp +zetaDelta [h]) (by simp +zetaDelta [hroom, h]) fun e b0 b1 r he => ?_
    exact Dev.touch_climate.trans (Dev.settle_climate.trans he)
  all_goals simp +zetaDelta [SecRes.keeps_stall, SecRes.keeps_unreachable, h]

theorem Dev.secRead_keeps {f place home a : Nat} (h : d.climate = k) : (d.secRead f place home a).Keeps k := by
  fun_cases Dev.secRead
  case case1 => exact h
  case case5 | case9 => exact Dev.fetchOr_keeps (by simp +zetaDelta [h]) (by simp +zetaDelta [h]) fun e b0 b1 r he => he
  case case6 =>
    refine Dev.fetchOr_keeps (by simp +zetaDelta [h]) (by simp +zetaDelta [h]) fun e b0 b1 r he => ?_
    exact Dev.settleOr_keeps (by simp +zetaDelta [h]) he fun g hg => Dev.touch_climate.trans hg
  case case8 => exact Dev.missStall_keeps (by simp +zetaDelta [h])
  case case10 =>
    have hroom := Dev.climate_of_makeRoom ‹_›
    refine Dev.fetchOr_keeps (by simp +zetaDelta [h]) (by simp +zetaDelta [hroom, h]) fun e b0 b1 r he => ?_
    exact Dev.touch_climate.trans (Dev.settle_climate.trans he)
  all_goals simp +zetaDelta [SecRes.keeps_ok, SecRes.keeps_stall, h]

end
end Sys2Proof.Machine
end

section
/-!
PROOFS. The climate under the engines' accesses (R273 to R287, R357 to R385): ranges read and written through the tree, shard and step
records, arrays.
-/
namespace Sys2Proof.Machine

/-- An access leaves the climate k, whatever comes of it. -/
def Mv.Keeps {α : Type} (k : Climate) (m : Mv α) : Prop := m.dev.climate = k

theorem Mv.keeps_ok {α : Type} {k : Climate} {d : Dev} {x : α} : (Mv.ok d x).Keeps k ↔ d.climate = k := Iff.rfl

theorem Mv.Keeps.bind {α β : Type} {k : Climate} {m : Mv α} {f : Dev → α → Mv β} (hm : m.Keeps k) (hf : ∀ d x, d.climate = k → (f d x).Keeps k) :
    (m.bind f).Keeps k := by
  cases m with
  | ok d x => exact hf d x hm
  | fault d f a => exact hm
  | wait d a => exact hm
  | stall d c => exact hm

theorem Mv.Keeps.whole {α : Type} {k : Climate} {m : Mv α} (hm : m.Keeps k) {d0 : Dev} : (m.whole d0).Keeps k := by
  cases m <;> exact hm

theorem Mv.each_keeps {α : Type} {k : Climate} {f : Dev → α → Mv Unit} (hf : ∀ d x, d.climate = k → (f d x).Keeps k) {xs : List α} {d : Dev}
    (hd : d.climate = k) : (Mv.each d f xs).Keeps k := by
  induction xs generalizing d with
  | nil => exact hd
  | cons x xs ih => exact (hf d x hd).bind fun _ _ he => ih he

/-- Accesses that follow one another for each of a list, each taking what the one before came to. -/
theorem Mv.foldl_keeps {α β : Type} {k : Climate} {f : Mv β → α → Mv β} (hf : ∀ m x, m.Keeps k → (f m x).Keeps k) {xs : List α} {m : Mv β}
    (hm : m.Keeps k) : (xs.foldl f m).Keeps k := by
  induction xs generalizing m with
  | nil => exact hm
  | cons x xs ih => exact ih (hf m x hm)

section
variable {d : Dev} {k : Climate} {ac : Acc}

/-! ## Ranges -/

theorem Dev.probe_keeps {wr : Bool} {as : List Nat} (h : d.climate = k) : (d.probe ac wr as).Keeps k := by
  induction as generalizing d with
  | nil => exact h
  | cons a as ih =>
    rw [Dev.probe]
    split
    · exact (climate_of_eq Dev.xlate_climate ‹_›).trans h
    · exact (climate_of_eq Dev.xlate_climate ‹_›).trans h
    · exact ih ((climate_of_eq Dev.xlate_climate ‹_›).trans h)

theorem Dev.trapProbe_keeps {as : List Nat} (h : d.climate = k) : (d.trapProbe ac as).Keeps k := by
  induction as generalizing d with
  | nil => exact h
  | cons a as ih =>
    rw [Dev.trapProbe]
    split
    · exact h
    split
    · split
      · exact (climate_of_eq Dev.xlate_climate ‹_›).trans h
      · exact ih ((climate_of_eq Dev.xlate_climate ‹_›).trans h)
    · exact ih ((climate_of_eq Dev.xlate_climate ‹_›).trans h)

theorem Dev.readLine_keeps {a : Nat} (h : d.climate = k) : (d.readLine ac a).Keeps k := by
  have hsec {e : Dev} {r : SecRes} {f p q b : Nat} (he : e.climate = k) (hr : e.secRead f p q b = r) : r.Keeps k := hr ▸ Dev.secRead_keeps he
  have hx {e : Dev} {x : Xl} (hr : d.xlate ac.ctx ac.cl ac.ag ac.who a false = (e, x)) : e.climate = k :=
    (climate_of_eq Dev.xlate_climate hr).trans h
  fun_cases Dev.readLine
  case case1 | case2 | case3 => exact hx ‹_›
  case case4 => exact hsec (hx ‹_›) ‹_›
  case case5 =>
    have he := hsec (hx ‹_›) ‹_›
    exact Dev.markUnreachable_climate.trans he
  case case6 hsecRead _ =>
    have he := SecRes.keeps_ok.mp (hsec (hx ‹_›) hsecRead)
    simp +zetaDelta [Mv.Keeps, Mv.dev, apply_ite, he]

theorem Dev.readBlocks_keeps {as : List Nat} (h : d.climate = k) : (d.readBlocks ac as).Keeps k := by
  fun_induction Dev.readBlocks
  case case1 => exact h
  case case2 => exact (Dev.readLine_keeps h).bind fun _ _ h => h
  case case3 ih2 ih1 =>
    refine (Dev.readLine_keeps h).bind fun e _ h => ?_
    split
    · exact (ih2 e h).bind fun _ _ h => h
    · exact (ih1 e h).bind fun _ _ h => h

theorem Dev.readRange_keeps {iova n : Nat} (h : d.climate = k) : (d.readRange ac iova n).Keeps k :=
  (Dev.probe_keeps h).bind fun _ _ h => (Dev.trapProbe_keeps h).bind fun _ _ h => Dev.readBlocks_keeps h

theorem Dev.writePieces_keeps {ps : List Piece} (h : d.climate = k) : (d.writePieces ac ps).Keeps k := by
  induction ps generalizing d with
  | nil => exact h
  | cons p ps ih =>
    have hx {e : Dev} {x : Xl} (hr : d.xlate ac.ctx ac.cl ac.ag ac.who p.iova true = (e, x)) : e.climate = k :=
      (climate_of_eq Dev.xlate_climate hr).trans h
    have hsec {e : Dev} {r : SecRes} {f a b c o key : Nat} {xs : List Blk} {bs : List Byte} (he : e.climate = k)
        (hr : e.secWrite f a b c o xs bs key = r) : r.Keeps k := hr ▸ Dev.secWrite_keeps he
    rw [Dev.writePieces]
    split
    · exact hx ‹_›
    · exact hx ‹_›
    · exact ih (Dev.hostWrite_climate.trans (hx ‹_›))
    split
    · exact hsec (hx ‹_›) ‹_›
    · have he := hsec (hx ‹_›) ‹_›
      exact ih (Dev.markUnreachable_climate.trans he)
    · have he := hsec (hx ‹_›) ‹_›
      refine ih ?_
      split
      · exact Dev.markRetired_climate.trans he
      · exact he

theorem Dev.writeRange_keeps {iova : Nat} {bs : List Byte} (h : d.climate = k) : (d.writeRange ac iova bs).Keeps k :=
  (Dev.probe_keeps h).bind fun _ _ h => Dev.writePieces_keeps h

theorem Dev.placeAt_keeps {iova : Nat} {fs : List Flow} (h : d.climate = k) : (d.placeAt ac iova fs).Keeps k :=
  (Dev.probe_keeps h).bind fun _ _ h => Dev.writePieces_keeps h

theorem Dev.flushSector_keeps {iova : Nat} (h : d.climate = k) : (d.flushSector ac iova).Keeps k := by
  have hx {e : Dev} {x : Xl} (hr : d.xlate ac.ctx ac.cl ac.ag ac.who iova true = (e, x)) : e.climate = k :=
    (climate_of_eq Dev.xlate_climate hr).trans h
  fun_cases Dev.flushSector
  case case6 => exact Dev.heldBacks_climate.trans (hx ‹_›)
  case case7 => exact Dev.putLine_climate.trans (Dev.wbSector_climate.trans (hx ‹_›))
  all_goals exact hx ‹_›

theorem Dev.flushRange_keeps {iova n : Nat} (h : d.climate = k) : (d.flushRange ac iova n).Keeps k := by
  fun_cases Dev.flushRange
  · exact h
  · exact Mv.each_keeps (fun _ _ h => Dev.flushSector_keeps h) h

theorem Dev.engRead_keeps {unit iova n : Nat} (h : d.climate = k) : (d.engRead ac unit iova n).Keeps k := by
  refine (Dev.readRange_keeps h).bind fun d r h => ?_
  dsimp only
  split
  · exact Dev.consume_climate.trans h
  · exact h

theorem Dev.putSector_keeps {iova : Nat} {bs : List Byte} (h : d.climate = k) : (d.putSector ac iova bs).Keeps k :=
  ((Dev.writeRange_keeps h).bind fun _ _ h => Dev.flushSector_keeps h).whole

theorem Dev.colRead_keeps {iova n : Nat} (h : d.climate = k) : (d.colRead ac iova n).Keeps k := by
  refine (Dev.readRange_keeps h).bind fun d r h => ?_
  dsimp only
  split
  · exact Dev.consume_climate.trans h
  · exact h

theorem Dev.colWrite_keeps {iova : Nat} {bs : List Byte} {bad : Nat → Bool} (h : d.climate = k) : (d.colWrite ac iova bs bad).Keeps k :=
  Dev.placeAt_keeps h

theorem Dev.smear_climate {iova n : Nat} : (d.smear ac iova n).climate = d.climate := by
  unfold Dev.smear
  split
  next i e hfresh =>
  refine (foldl_climate fun e p => ?_).trans (by cases hfresh; rfl)
  extract_lets a
  split
  · next hok =>
    have hw := Dev.writeRange_keeps (ac := ac) (iova := a) (d := e)
      (bs := (List.range p.2.2.2).map fun k => Config.freeByte i (a + k)) rfl
    rw [hok] at hw
    exact hw
  · rfl

/-! ## Records and arrays -/

theorem Dev.shard_keeps {i : Nat} (h : d.climate = k) : (d.shard ac i).Keeps k := (Dev.engRead_keeps h).bind fun _ _ h => h

theorem Dev.stepRec_keeps {n : Nat} (h : d.climate = k) : (d.stepRec ac n).Keeps k := (Dev.engRead_keeps h).bind fun _ _ h => h

theorem Dev.putShard_keeps {i : Nat} {s : Shard} (h : d.climate = k) : (d.putShard ac i s).Keeps k := Dev.putSector_keeps h

theorem Dev.putStep_keeps {n : Nat} {bs : List Byte} (h : d.climate = k) : (d.putStep ac n bs).Keeps k := Dev.putSector_keeps h

theorem Dev.shards_keeps {is : List Nat} (h : d.climate = k) : (d.shards ac is).Keeps k := by
  induction is generalizing d with
  | nil => exact h
  | cons i is ih => exact (Dev.shard_keeps h).bind fun _ _ h => (ih h).bind fun _ _ h => h

theorem Dev.slotVals_keeps {s : Shard} {e i : Nat} (h : d.climate = k) : (d.slotVals ac s e i).Keeps k := by
  fun_cases Dev.slotVals
  · refine (Dev.engRead_keeps h).bind fun d es h => ?_
    split
    · exact h
    · exact (Dev.engRead_keeps h).bind fun _ _ h => h
  · exact (Dev.engRead_keeps h).bind fun _ _ h => (Dev.engRead_keeps h).bind fun _ _ h => h

theorem Dev.putVals_keeps {s : Shard} {e i step purpose : Nat} {vs : List Word} (h : d.climate = k) :
    (d.putVals ac s e i step purpose vs).Keeps k := by
  fun_cases Dev.putVals
  · exact Dev.writeRange_keeps h
  · exact (Dev.writeRange_keeps h).bind fun _ _ h => Dev.writeRange_keeps h
  · exact (Dev.writeRange_keeps h).bind fun _ _ h => Dev.writeRange_keeps h

theorem Dev.foldImage_keeps {s : Shard} {e : Nat} (h : d.climate = k) : (d.foldImage ac s e).Keeps k := (Dev.engRead_keeps h).bind fun _ _ h => h

theorem Dev.foldLow_keeps {s : Shard} {e : Nat} (h : d.climate = k) : (d.foldLow ac s e).Keeps k := by
  fun_cases Dev.foldLow
  · exact h
  · exact (Dev.engRead_keeps h).bind fun _ _ h => h

theorem Dev.partials_keeps {s : Shard} (h : d.climate = k) : (d.partials ac s).Keeps k := (Dev.engRead_keeps h).bind fun _ _ h => h

theorem Dev.flushSlots_keeps {s : Shard} {e : Nat} (h : d.climate = k) : (d.flushSlots ac s e).Keeps k :=
  Mv.each_keeps (fun _ _ h => Dev.flushRange_keeps h) h

theorem Dev.sealShard_keeps {i : Nat} {s : Shard} (h : d.climate = k) : (d.sealShard ac i s).Keeps k :=
  (Dev.foldImage_keeps h).bind fun _ _ h => (Dev.foldLow_keeps h).bind fun _ _ h => (Dev.partials_keeps h).bind fun _ _ h =>
    (Dev.flushSlots_keeps h).bind fun _ _ h => Dev.putShard_keeps h

theorem Dev.sweepOnce_keeps {i n : Nat} {s : Shard} {c : Word} (h : d.climate = k) : (d.sweepOnce ac i s n c).Keeps k := by
  refine (Dev.slotVals_keeps h).bind fun _ _ h => (Dev.slotVals_keeps h).bind fun _ _ h => (Dev.putVals_keeps h).bind fun _ _ h => ?_
  refine Mv.Keeps.bind (Mv.each_keeps (fun _ _ h => ?_) h) fun _ _ h => ?_
  · exact (Dev.engRead_keeps h).bind fun _ _ h => (Dev.engRead_keeps h).bind fun _ _ h => Dev.writeRange_keeps h
  refine Mv.Keeps.bind (Mv.each_keeps (fun _ _ h => Dev.flushRange_keeps h) h) fun _ _ h => ?_
  refine (Dev.putShard_keeps h).bind fun _ _ h => ?_
  exact Mv.keeps_ok.mpr (Dev.bump_climate.trans h)

theorem Dev.sweepGroup_keeps {i n : Nat} {s : Shard} {c : Word} (h : d.climate = k) : (d.sweepGroup ac i s n c).Keeps k :=
  (Dev.sweepOnce_keeps h).whole

theorem Dev.refold_keeps {i : Nat} {s : Shard} (h : d.climate = k) : (d.refold ac i s).Keeps k := by
  refine (Dev.foldImage_keeps h).bind fun _ _ h => (Dev.foldLow_keeps h).bind fun _ _ h => ?_
  split
  · exact h
  · exact (Dev.putShard_keeps h).bind fun _ _ h => Dev.postUpd_climate.trans (Dev.bump_climate.trans h)

theorem Dev.restoreShard_keeps {i states step : Nat} {s : Shard} {data : List Byte} (h : d.climate = k) :
    (d.restoreShard ac i s states step data).Keeps k := by
  refine (Dev.writeRange_keeps h).bind fun _ _ h => ?_
  refine Mv.Keeps.bind (Mv.foldl_keeps (fun m a hm => ?_) h) fun _ _ h => ?_
  · refine hm.bind fun _ _ h => ?_
    dsimp only
    split
    · exact (Dev.writeRange_keeps h).bind fun _ _ h => h
    · exact (Dev.writeRange_keeps h).bind fun _ _ h => h
  · exact (Dev.writeRange_keeps h).bind fun _ _ h => (Dev.flushSlots_keeps h).bind fun _ _ h => Dev.putShard_keeps h

theorem Dev.stookRead_keeps {s : Shard} (h : d.climate = k) : (d.stookRead ac s).Keeps k := by
  refine Mv.foldl_keeps (fun m a hm => ?_) (Dev.engRead_keeps h)
  exact hm.bind fun _ _ h => (Dev.engRead_keeps h).bind fun _ _ h => h

theorem Dev.formArrival_keeps {coll fmt si i : Nat} {sat : Bool} {g : List Word} {bad : List Bool} (h : d.climate = k) :
    (d.formArrival ac coll fmt sat si i g bad).Keeps k := by
  refine (Dev.shard_keeps h).bind fun e s h => ?_
  split
  · exact Dev.discardArrivals_climate.trans h
  split
  · split
    · exact Dev.discardArrivals_climate.trans h
    · exact Dev.putShard_keeps (Dev.discardArrivals_climate.trans h)
  refine (Dev.writeRange_keeps (Dev.modGrp_climate.trans h)).bind fun _ _ h => ?_
  refine Mv.Keeps.bind (k := k) ?_ fun _ _ h => ?_
  · split
    · exact h
    · exact Dev.putShard_keeps h
  · dsimp only
    split
    · exact Dev.discardArrivals_climate.trans (Dev.bump_climate.trans h)
    · exact Dev.bump_climate.trans h

theorem Dev.inputVals_keeps {x : Rec64} {addr n : Nat} (h : d.climate = k) : (d.inputVals ac x addr n).Keeps k := by
  refine (Dev.colRead_keeps h).bind fun _ _ h => ?_
  dsimp only
  split
  · exact h
  · exact (Dev.colRead_keeps h).bind fun _ _ h => h

theorem Dev.mine_keeps {x : Rec64} {p : Ph} {addr n : Nat} (h : d.climate = k) : (d.mine ac x p addr n).Keeps k := by
  fun_cases Dev.mine
  · exact Dev.inputVals_keeps h
  · exact (Dev.colRead_keeps h).bind fun _ _ h => h

end
end Sys2Proof.Machine
end

section
/-!
PROOFS. The climate under the update engine's descriptors (R357 to R398): each step of a job leaves it as it was.
-/
namespace Sys2Proof.Machine

/-- The state a job's step leaves. -/
def Jb.dev : Jb → Dev
  | .more d => d
  | .stop d => d
  | .done d _ => d

/-- A job's step leaves the climate k, whatever it came to. -/
def Jb.Keeps (k : Climate) (j : Jb) : Prop := j.dev.climate = k

section
variable {d : Dev} {k : Climate} {tag : Tag} {w : Work} {j : Job}

theorem Jb.keeps_more : (Jb.more d).Keeps k ↔ d.climate = k := Iff.rfl
theorem Jb.keeps_stop : (Jb.stop d).Keeps k ↔ d.climate = k := Iff.rfl
theorem Jb.keeps_done {r : Word} : (Jb.done d r).Keeps k ↔ d.climate = k := Iff.rfl

theorem Mv.Keeps.jb {α : Type} {m : Mv α} {f : Dev → α → Jb} (hm : m.Keeps k) (hf : ∀ d x, d.climate = k → (f d x).Keeps k) :
    (m.jb tag w f).Keeps k := by
  cases m with
  | ok d x => exact hf d x hm
  | fault d f a => exact Dev.parkWork_climate.trans hm
  | wait d a => exact hm
  | stall d c => exact hm

theorem Jb.Keeps.ite {c : Prop} [Decidable c] {a b : Jb} (ha : a.Keeps k) (hb : b.Keeps k) : (if c then a else b).Keeps k := by
  split
  · exact ha
  · exact hb

theorem Dev.goOn_keeps (h : d.climate = k) : (d.goOn tag j).Keeps k := Dev.setJob_climate.trans h

theorem Dev.goOn_bump_keeps {cs : CtrSet} {i n : Nat} (h : d.climate = k) : ((d.bump cs i n).goOn tag j).Keeps k :=
  Dev.goOn_keeps (Dev.bump_climate.trans h)

theorem Dev.goOn_postUpd_keeps {code p : Nat} (h : d.climate = k) : ((d.postUpd code p).goOn tag j).Keeps k :=
  Dev.goOn_keeps (Dev.postUpd_climate.trans h)

/-! ## Transactions with peers -/

theorem Dev.ask_keeps {pkt : Packet} (h : d.climate = k) : (d.ask tag w j pkt).Keeps k := by
  unfold Dev.ask
  have hsent : ∀ m, m = d.transact w.ctx tag pkt → match m with
      | .sent e _ => e.climate = k
      | .unreachable e => e.climate = k
      | .wait => True := by
    rintro m rfl
    fun_cases Dev.transact
    · trivial
    · exact (climate_of_eq Dev.originate_climate ‹_›).trans h
    · exact Dev.climate_withFab.trans ((climate_of_eq Dev.originate_climate ‹_›).trans h)
  split
  · exact Dev.setJob_climate.trans (hsent _ (Eq.symm ‹_›))
  · exact Dev.setJob_climate.trans (hsent _ (Eq.symm ‹_›))
  · refine Jb.keeps_stop.mpr ?_
    split
    · exact Dev.setJob_climate.trans h
    · exact h

theorem Dev.stookGet_keeps {off units : Nat} (h : d.climate = k) : (d.stookGet tag w j off units).Keeps k := Dev.ask_keeps h

theorem Dev.stookPut_keeps {off : Nat} {bs : List Byte} (h : d.climate = k) : (d.stookPut tag w j off bs).Keeps k := Dev.ask_keeps h

theorem Dev.askHdr_keeps {s : Shard} (h : d.climate = k) : (d.askHdr tag w j s).Keeps k := Dev.ask_keeps h

/-! ## The steps of each descriptor -/

theorem Dev.stepOpenStep_keeps (h : d.climate = k) : (d.stepOpenStep tag w j).Keeps k := by
  unfold Dev.stepOpenStep
  extract_lets x n ac i
  split
  · refine (Dev.stepRec_keeps h).jb fun _ _ h => ?_
    split
    · exact Dev.goOn_keeps h
    · exact (Dev.putStep_keeps h).jb fun _ _ h => Dev.goOn_keeps h
  split
  · exact h
  refine (Dev.shard_keeps h).jb fun _ _ h => ?_
  split
  · exact Dev.goOn_keeps h
  split
  · exact Dev.goOn_keeps h
  · exact (Dev.putShard_keeps h).jb fun _ _ h => Dev.goOn_keeps h

theorem Dev.sealStep_keeps (h : d.climate = k) : (d.sealStep tag w j).Keeps k := by
  unfold Dev.sealStep
  extract_lets ac i
  split
  · exact h
  refine (Dev.shard_keeps h).jb fun _ _ h => ?_
  split
  · exact Dev.goOn_keeps h
  split
  · exact Dev.goOn_keeps h
  · exact (Dev.sealShard_keeps h).jb fun _ _ h => Dev.goOn_keeps h

theorem Dev.commitStep_keeps (h : d.climate = k) : (d.commitStep tag w j).Keeps k := by
  unfold Dev.commitStep
  extract_lets x n ac i flip
  refine (Dev.stepRec_keeps h).jb fun e r h => ?_
  split
  · exact h
  split
  · exact h
  refine (Dev.shard_keeps h).jb fun e s h => ?_
  extract_lets mine
  have hflip {e : Dev} {s : Shard} {f fl : Nat} (h : e.climate = k) : (flip e s f fl).Keeps k := by
    exact (Dev.putShard_keeps h).jb fun _ _ h => Dev.goOn_bump_keeps h
  split
  · exact Dev.goOn_keeps h
  split
  · exact Dev.goOn_keeps h
  split
  · split
    · exact (Dev.putShard_keeps h).jb fun _ _ h => Dev.goOn_bump_keeps h
    · exact Dev.goOn_keeps h
  split
  · exact Dev.goOn_keeps h
  split
  · exact hflip h
  split
  · exact (Dev.sweepGroup_keeps h).jb fun _ _ h => Dev.goOn_keeps h
  · exact (Dev.foldImage_keeps h).jb fun _ _ h => (Dev.foldLow_keeps h).jb fun _ _ h => hflip h

theorem Dev.recoverStep_keeps (h : d.climate = k) : (d.recoverStep tag w j).Keeps k := by
  unfold Dev.recoverStep
  extract_lets x n ac
  split
  · split
    · exact h
    extract_lets r
    split
    · exact h
    · exact (Dev.putStep_keeps h).jb fun _ _ h => h
  · refine (Dev.stepRec_keeps h).jb fun _ _ h => ?_
    split
    · exact h
    split
    · exact h
    · exact Dev.ask_keeps h

theorem Dev.fetchStep_keeps (h : d.climate = k) : (d.fetchStep tag w j).Keeps k := by
  unfold Dev.fetchStep
  extract_lets x ac i
  split
  · exact h
  refine (Dev.shard_keeps h).jb fun e s h => ?_
  extract_lets more
  have hmore {e : Dev} {j : Job} (h : e.climate = k) : (more e j).Keeps k := by
    unfold more
    split
    · exact Dev.askHdr_keeps h
    · exact Dev.ask_keeps h
  split
  · exact Dev.goOn_keeps h
  split
  · exact Dev.askHdr_keeps h
  · exact hmore h
  · exact h
  refine .ite (Dev.goOn_keeps h) (.ite (Dev.goOn_keeps h) (.ite (.ite (Dev.goOn_keeps h) (.ite ?_ (Dev.goOn_keeps h))) (.ite ?_ ?_)))
  · refine (Dev.foldImage_keeps h).jb fun _ _ h => ?_
    exact .ite (Dev.goOn_keeps h) (Dev.goOn_bump_keeps h)
  · exact (Dev.colWrite_keeps h).jb fun _ _ h => Dev.goOn_keeps h
  · refine .ite (.ite (Dev.goOn_keeps h) (Dev.goOn_bump_keeps h)) (.ite ?_ (.ite (Dev.goOn_keeps h) (Dev.ask_keeps h)))
    exact (Dev.putShard_keeps h).jb fun _ _ h => Dev.goOn_keeps h

theorem Dev.auditStep_keeps (h : d.climate = k) : (d.auditStep tag w j).Keeps k := by
  unfold Dev.auditStep
  extract_lets ac i
  split
  · exact h
  refine (Dev.shard_keeps h).jb fun _ _ h => ?_
  split
  · exact (Dev.refold_keeps h).jb fun _ _ h => Dev.goOn_keeps h
  split
  · exact Dev.goOn_keeps h
  split
  · split
    · exact Dev.goOn_keeps h
    split
    · exact (Dev.putShard_keeps h).jb fun _ _ h => Dev.goOn_postUpd_keeps h
    · exact Dev.goOn_keeps h
  · exact (Dev.foldImage_keeps h).jb fun _ _ h => Dev.askHdr_keeps h

theorem Dev.saveStep_keeps (h : d.climate = k) : (d.saveStep tag w j).Keeps k := by
  unfold Dev.saveStep
  extract_lets x ac n first last base i dir keep have_ total
  split
  · exact Dev.stookGet_keeps h
  · exact Dev.stookGet_keeps h
  · split
    · split
      · exact Dev.goOn_keeps h
      · exact h
    refine (Dev.shard_keeps h).jb fun _ _ h => ?_
    split
    · exact Dev.goOn_keeps h
    split
    · exact Dev.goOn_keeps h
    · exact (Dev.stookRead_keeps h).jb fun _ _ h => Dev.goOn_keeps h
  · refine (Dev.shard_keeps h).jb fun _ _ h => ?_
    dsimp only
    split
    · exact Dev.stookPut_keeps h
    · exact Dev.stookGet_keeps h
  · split
    · exact Dev.stookPut_keeps h
    · exact Dev.stookGet_keeps h
  split
  · exact h
  split
  · exact h
  split
  · exact Dev.goOn_keeps h
  · dsimp only
    split
    · exact Dev.stookPut_keeps h
    · exact Dev.goOn_keeps h
  · exact Dev.goOn_keeps h
  · exact Dev.goOn_keeps h
  · exact (Dev.shard_keeps h).jb fun _ _ h => Dev.stookPut_keeps h
  · exact (Dev.shard_keeps h).jb fun _ _ h => Dev.stookPut_keeps h
  · exact Dev.goOn_bump_keeps h
  · exact Dev.goOn_keeps h
  · exact Dev.stookPut_keeps h
  · exact h

theorem Dev.restoreStep_keeps (h : d.climate = k) : (d.restoreStep tag w j).Keeps k := by
  unfold Dev.restoreStep
  extract_lets x ac base total i keep
  split
  · exact Dev.stookGet_keeps h
  · exact Dev.stookGet_keeps h
  · split
    · split
      · exact Dev.goOn_keeps h
      · exact h
    · exact Dev.stookGet_keeps h
  · split
    · exact h
    refine (Dev.shard_keeps h).jb fun _ _ h => ?_
    split
    · exact Dev.goOn_keeps h
    split
    · exact Dev.goOn_keeps h
    · exact Dev.goOn_keeps h
  split
  · refine (Dev.shard_keeps h).jb fun _ _ h => ?_
    dsimp only
    split
    · exact Dev.stookGet_keeps h
    split
    · exact (Dev.putShard_keeps h).jb fun _ _ h => Dev.goOn_postUpd_keeps h
    · exact (Dev.restoreShard_keeps h).jb fun _ _ h => Dev.goOn_bump_keeps h
  split
  · exact h
  split
  · exact h
  split
  · exact Dev.goOn_keeps h
  · split
    · exact h
    · exact Dev.goOn_keeps h
  · exact Dev.goOn_keeps h
  · exact (Dev.shard_keeps h).jb fun _ _ h => Dev.goOn_keeps h

theorem Dev.resolveWith_keeps {done : Nat} (h : d.climate = k) : (d.resolveWith tag w j done).Keeps k := by
  unfold Dev.resolveWith
  extract_lets x ac at_
  refine (Dev.engRead_keeps h).jb fun _ _ h => ?_
  split
  · split
    · exact (Dev.putSector_keeps h).jb fun _ _ h => h
    · exact h
  · exact (Dev.putSector_keeps h).jb fun _ _ h => h

theorem Dev.journalStep_keeps (h : d.climate = k) : (d.journalStep tag w j).Keeps k := by
  unfold Dev.journalStep
  extract_lets x ac
  split
  · split
    · exact h
    · exact Dev.resolveWith_keeps h
  split
  · exact (Dev.engRead_keeps h).jb fun _ _ h => Dev.resolveWith_keeps h
  · exact Dev.ask_keeps h

theorem Dev.jobStep_keeps (h : d.climate = k) : (d.jobStep tag w j).Keeps k := by
  fun_cases Dev.jobStep
  · exact Dev.stepOpenStep_keeps h
  · exact Dev.sealStep_keeps h
  · exact Dev.commitStep_keeps h
  · exact Dev.recoverStep_keeps h
  · exact Dev.fetchStep_keeps h
  · exact Dev.auditStep_keeps h
  · exact Dev.saveStep_keeps h
  · exact Dev.restoreStep_keeps h
  · exact Dev.journalStep_keeps h

/-! ## Jobs -/

@[simp] theorem Dev.jobRun_climate {n : Nat} : (Dev.jobRun tag n d).climate = d.climate := by
  induction n generalizing d with
  | zero => rfl
  | succ n ih =>
    rw [Dev.jobRun]
    split
    · split
      · rfl
      split
      · exact Dev.finishWork_climate
      next w j _ _ _ _ =>
      have hstep : ∀ {m}, d.jobStep tag w j = m → m.Keeps d.climate := fun hm => hm ▸ Dev.jobStep_keeps rfl
      split
      · exact ih.trans (Jb.keeps_more.mp (hstep ‹_›))
      · exact Jb.keeps_stop.mp (hstep ‹_›)
      · exact Dev.finishWork_climate.trans (Jb.keeps_done.mp (hstep ‹_›))
    · rfl

@[simp] theorem Dev.jobGot_climate {status : Nat} {pkt : Packet} : (d.jobGot tag status pkt).climate = d.climate := by
  fun_cases Dev.jobGot
  · rfl
  · exact Dev.jobRun_climate.trans Dev.setJob_climate

end
end Sys2Proof.Machine
end

section
/-!
PROOFS. The climate under the collective engine (R316 to R350): packets sent and taken, phases, aborts, lost ports and returned packets.
-/
namespace Sys2Proof.Machine

/-- The climate that a piece of a collective's work leaves; k where it waits and leaves nothing. -/
def Co.climate {α : Type} (k : Climate) : Co α → Climate
  | .ok d _ => d.climate
  | .stop d _ => d.climate
  | .wait => k

/-- A piece of a collective's work leaves the climate k. -/
def Co.Keeps {α : Type} (k : Climate) (m : Co α) : Prop := m.climate k = k

section
variable {d : Dev} {k : Climate} {n : Nat} {tag : Tag} {x : Rec64} {p : Ph} {s : Slot}

theorem Co.keeps_ok {α : Type} {y : α} : (Co.ok d y).Keeps k ↔ d.climate = k := Iff.rfl

theorem Co.Keeps.bind {α β : Type} {m : Co α} {f : Dev → α → Co β} (hm : m.Keeps k) (hf : ∀ d x, d.climate = k → (f d x).Keeps k) :
    (m.bind f).Keeps k := by
  cases m with
  | ok d x => exact hf d x hm
  | stop d c => exact hm
  | wait => exact hm

theorem Co.each_keeps {α : Type} {f : Dev → α → Co Unit} (hf : ∀ d x, d.climate = k → (f d x).Keeps k) {xs : List α} (h : d.climate = k) :
    (Co.each d f xs).Keeps k := by
  induction xs generalizing d with
  | nil => exact h
  | cons y ys ih => exact (hf d y h).bind fun _ _ h => ih h

theorem Mv.Keeps.co {α : Type} {m : Mv α} (hm : m.Keeps k) : m.co.Keeps k := by
  cases m with
  | ok d x => exact hm
  | fault d f a => exact hm
  | wait d a => exact Eq.refl k
  | stall d c => exact Eq.refl k

theorem Dev.climate_of_takeFresh {i : Nat} {e : Dev} (h : d.takeFresh = (i, e)) : e.climate = d.climate := by
  cases h
  rfl

/-! ## Packets sent -/

theorem Dev.emit_keeps {pkt : Packet} {dir : Option Bool} (h : d.climate = k) : (d.emit n pkt dir).Keeps k := by
  fun_cases Dev.emit
  · exact h
  · have hsent := (climate_of_eq Dev.originate_climate ‹_›).trans h
    exact Co.keeps_ok.mpr (Dev.warnAll_climate.trans hsent)
  · exact (climate_of_eq Dev.originate_climate ‹_›).trans h
  · have hsent := (climate_of_eq Dev.originate_climate ‹_›).trans h
    simp +zetaDelta [Co.keeps_ok, apply_ite, hsent]

theorem Dev.sendRun_keeps {j step addr : Nat} {vs : List Word} {bad : List Bool} (h : d.climate = k) :
    (d.sendRun n x p j step addr vs bad).Keeps k := by
  fun_cases Dev.sendRun
  · exact h
  · exact Dev.emit_keeps h

theorem Dev.sendUp_keeps (h : d.climate = k) : (d.sendUp n x p).Keeps k := by
  fun_cases Dev.sendUp
  · exact h
  · exact h
  · exact Dev.emit_keeps h

theorem Dev.foldLine_keeps (h : d.climate = k) : (d.foldLine n x p).Keeps k := by
  fun_cases Dev.foldLine
  · exact h
  · exact h
  · exact Dev.sendUp_keeps (Dev.modSlot_climate.trans h)

theorem Dev.beginUp_keeps (h : d.climate = k) : (d.beginUp n x p).Keeps k := by
  fun_cases Dev.beginUp
  · exact Dev.sendUp_keeps h
  · exact h

/-! ## Gathers and permutations -/

theorem Dev.takeCopy_keeps {pkt : Packet} (h : d.climate = k) : (d.takeCopy n tag x p pkt).Keeps k := by
  unfold Dev.takeCopy
  extract_lets
  split
  extract_lets
  refine (Dev.colWrite_keeps h).co.bind fun _ _ h => Co.Keeps.bind (k := k) ?_ fun _ _ h => ?_
  · split
    · exact h
    · exact (Dev.colWrite_keeps h).co
  extract_lets
  split
  · exact Dev.modSlot_climate.trans h
  split
  · exact Dev.modSlot_climate.trans h
  · exact Dev.emit_keeps (Dev.modSlot_climate.trans h)

theorem Dev.placePerm_keeps {off : Nat} {bs : List Byte} {bad : Nat → Bool} (h : d.climate = k) : (d.placePerm n tag x off bs bad).Keeps k := by
  unfold Dev.placePerm
  extract_lets twice
  split
  next i e hfresh =>
  have he : e.climate = k := (Dev.climate_of_takeFresh hfresh).trans h
  extract_lets bs
  refine (Dev.colWrite_keeps he).co.bind fun _ _ h => ?_
  exact Co.keeps_ok.mpr (Dev.modSlot_climate.trans h)

theorem Dev.sendCopy_keeps {j i : Nat} {dir : Option Bool} {last : Bool} {e : Nat × Nat} (h : d.climate = k) :
    (d.sendCopy n tag x p j dir last i e).Keeps k := by
  unfold Dev.sendCopy
  split
  · exact h
  extract_lets
  refine (Dev.colRead_keeps h).co.bind fun _ _ h => ?_
  extract_lets
  split
  · exact Dev.emit_keeps h
  · exact (Dev.colRead_keeps h).co.bind fun _ _ h => Dev.emit_keeps h

theorem Dev.sendRange_keeps {j base len : Nat} {dir : Option Bool} (h : d.climate = k) : (d.sendRange n tag x p j dir base len).Keeps k :=
  Co.each_keeps (fun _ _ h => Dev.sendCopy_keeps h) h

theorem Dev.segment_keeps {i : Nat} (h : d.climate = k) : (d.segment n tag x i).Keeps k := by
  unfold Dev.segment
  extract_lets ac
  refine (Dev.engRead_keeps h).co.bind fun _ _ h => ?_
  extract_lets
  split
  · exact h
  refine Co.each_keeps (fun _ _ h => (Dev.colRead_keeps h).co.bind fun _ _ h => ?_) h
  split
  · exact Dev.placePerm_keeps h
  split
  · exact h
  · exact Dev.emit_keeps h

theorem Dev.beginGather_keeps (h : d.climate = k) : (d.beginGather n tag x p).Keeps k := by
  unfold Dev.beginGather
  extract_lets i
  split
  extract_lets
  split
  · exact h
  split
  · refine Co.each_keeps (fun _ _ h => ?_) h
    split
    · exact h
    · exact Dev.sendRange_keeps h
  · exact (Dev.sendRange_keeps h).bind fun _ _ h => Dev.sendRange_keeps h

/-! ## Folds and decisions -/

theorem Dev.takeDone_keeps {flags : Nat} (h : d.climate = k) : (d.takeDone n tag x flags).Keeps k := by
  unfold Dev.takeDone
  extract_lets ac j keep
  have hkeep {e : Dev} (h : e.climate = k) : (Co.ok (keep e) ()).Keeps k := Dev.modSlot_climate.trans h
  split
  · exact hkeep h
  · exact (Dev.engRead_keeps h).co.bind fun _ _ h => (Dev.putSector_keeps h).co.bind fun _ _ h => hkeep h

theorem Dev.takeDecision_keeps {decision flags : Nat} {v c : Word} (h : d.climate = k) : (d.takeDecision n tag x decision flags v c).Keeps k := by
  unfold Dev.takeDecision
  extract_lets ac root
  refine (Dev.putStep_keeps h).co.bind fun _ _ h => (Dev.shards_keeps h).co.bind fun e _ h => ?_
  simp [Co.keeps_ok, apply_ite, h]

theorem Dev.takeFold_keeps {pkt : Packet} (h : d.climate = k) : (d.takeFold n tag x p pkt).Keeps k := by
  fun_cases Dev.takeFold
  · exact Dev.takeDecision_keeps h
  · exact Dev.takeDone_keeps h
  · exact Dev.foldLine_keeps (Dev.modSlot_climate.trans h)

/-! ## Reductions -/

theorem Dev.output_keeps {addr : Nat} {r : List Word × List Bool} (h : d.climate = k) : (d.output tag x p addr r).Keeps k := by
  fun_cases Dev.output
  · exact (Dev.colWrite_keeps h).co
  · exact (Dev.shards_keeps h).co.bind fun _ _ h => (Dev.formArrival_keeps h).co
  · exact (Dev.colWrite_keeps h).co

theorem Dev.deliver_keeps {step addr : Nat} {r : List Word × List Bool} (h : d.climate = k) : (d.deliver n tag x p step addr r).Keeps k := by
  unfold Dev.deliver
  extract_lets i j
  split
  · split
    · exact Dev.sendRun_keeps h
    split
    · exact Dev.output_keeps h
    split
    · split
      · exact h
      split
      next a e he =>
      have he := (Dev.climate_of_takeFresh he).trans h
      split
      next b g hg =>
      have hg := (Dev.climate_of_takeFresh hg).trans he
      exact Dev.emit_keeps hg
    · exact Dev.sendRun_keeps h
  split
  · exact Dev.output_keeps h
  · exact Dev.sendRun_keeps h

theorem Dev.foldParts_keeps {addr cnt : Nat} (h : d.climate = k) : (d.foldParts n tag x p addr cnt).Keeps k := by
  fun_cases Dev.foldParts
  · exact h
  · exact h
  · exact (Dev.mine_keeps h).co.bind fun _ _ h => Dev.deliver_keeps (Dev.modSlot_climate.trans h)

theorem Dev.takeReduce_keeps {pkt : Packet} (h : d.climate = k) : (d.takeReduce n tag x p pkt).Keeps k := by
  fun_cases Dev.takeReduce
  · exact Dev.output_keeps h
  · exact Dev.foldParts_keeps (Dev.modSlot_climate.trans h)
  · exact Dev.foldParts_keeps (Dev.modSlot_climate.trans h)
  · exact (Dev.mine_keeps h).co.bind fun _ _ h => Dev.deliver_keeps h

theorem Dev.beginReduce_keeps (h : d.climate = k) : (d.beginReduce n tag x p).Keeps k := by
  unfold Dev.beginReduce
  extract_lets i al run own
  have hown (e : Dev) (y : Nat × Nat) (h : e.climate = k) : (own e y).Keeps k :=
    (Dev.mine_keeps h).co.bind fun _ _ h => Dev.deliver_keeps h
  split
  · exact Co.each_keeps (fun _ _ h => (Dev.mine_keeps h).co.bind fun _ _ h => Dev.output_keeps h) h
  split
  · split
    · exact Co.each_keeps (fun _ _ h => Co.each_keeps hown h) h
    · exact h
  split
  · refine Co.each_keeps (fun _ _ h => ?_) h
    split
    · exact h
    · exact Co.each_keeps hown h
  · exact Co.each_keeps hown h

theorem Dev.beginDown_keeps (h : d.climate = k) : (d.beginDown n tag x p).Keeps k := by
  unfold Dev.beginDown
  split
  · exact h
  split
  · exact h
  split
  refine Co.Keeps.bind (k := k) ?_ fun _ _ h => Co.each_keeps (fun _ _ h => Dev.emit_keeps h) h
  split
  · exact Dev.takeDecision_keeps h
  · exact Dev.takeDone_keeps h

/-! ## Phases -/

theorem Dev.beginPhase_keeps (h : d.climate = k) : (d.beginPhase n tag x p).Keeps k := by
  fun_cases Dev.beginPhase
  · exact Dev.beginReduce_keeps h
  · exact Dev.beginGather_keeps h
  · exact Co.each_keeps (fun _ _ h => Dev.segment_keeps h) h
  · exact Dev.beginUp_keeps h
  · exact Dev.beginDown_keeps h

theorem Dev.takePkt_keeps {pkt : Packet} (h : d.climate = k) : (d.takePkt n tag x p pkt).Keeps k := by
  fun_cases Dev.takePkt
  · exact (Dev.formArrival_keeps h).co
  · exact Dev.takeReduce_keeps h
  · exact Dev.takeCopy_keeps h
  · exact Dev.placePerm_keeps h
  · exact Dev.takeFold_keeps h
  · exact Dev.takeFold_keeps h

theorem Dev.consumePkt_keeps {pkt : Packet} (h : d.climate = k) : (d.consumePkt n tag x p pkt).Keeps k :=
  Dev.takePkt_keeps (Dev.markLast_climate.trans (Dev.modSlot_climate.trans h))

theorem Dev.takeLater_keeps {fuel : Nat} (h : d.climate = k) : (Dev.takeLater n tag x p fuel d).Keeps k := by
  induction fuel generalizing d with
  | zero => exact h
  | succ fuel ih =>
    rw [Dev.takeLater]
    split
    · exact h
    split
    · exact h
    split
    · exact h
    · exact (Dev.consumePkt_keeps (Dev.modSlot_climate.trans h)).bind fun _ _ h => ih h

theorem Dev.enterPhase_keeps (h : d.climate = k) : (d.enterPhase n tag x s p).Keeps k :=
  (Dev.beginPhase_keeps (Dev.markLast_climate.trans (Dev.modSlot_climate.trans h))).bind fun _ _ h => Dev.takeLater_keeps h

@[simp] theorem Dev.colFinish_climate : (d.colFinish n tag x s).climate = d.climate := by
  unfold Dev.colFinish
  rw [Dev.finishWork_climate, Dev.modSlot_climate]
  split
  · exact Dev.smear_climate.trans Dev.smear_climate
  · rfl

theorem Dev.parkTurn_keeps {y : Unit} (h : d.climate = k) :
    (Co.ok (match d.work tag with | some w => d.parkWork tag w 4 none | none => d) y).Keeps k := by
  refine Co.keeps_ok.mpr ?_
  split
  · exact Dev.parkWork_climate.trans h
  · exact h

theorem Dev.advanceSlot_keeps {fuel : Nat} (h : d.climate = k) : (Dev.advanceSlot tag x n fuel d).Keeps k := by
  induction fuel generalizing d with
  | zero => exact h
  | succ fuel ih =>
    rw [Dev.advanceSlot]
    split
    · exact h
    next s _ =>
    extract_lets ps e sig
    have he : e.climate = k := by simp +zetaDelta [apply_ite, h]
    split
    · exact h
    split
    · split
      · exact h
      split
      · exact h
      · exact (Dev.takeLater_keeps h).bind fun _ _ h => ih h
    split
    · split
      · split
        · exact Dev.parkTurn_keeps he
        · exact Co.keeps_ok.mpr (Dev.colFinish_climate.trans ((Dev.colSignal_climate ‹_›).trans he))
      · exact he
    split
    · exact Dev.parkTurn_keeps h
    next g hg =>
    have hg : g.climate = k := by
      split at hg
      · exact (Dev.colSignal_climate hg).trans h
      · cases hg
        exact h
    split
    · exact ih (Dev.modSlot_climate.trans hg)
    · exact (Dev.enterPhase_keeps hg).bind fun _ _ h => ih h

/-! ## Aborts -/

@[simp] theorem Dev.abortSmear_climate : (d.abortSmear tag x s).climate = d.climate := by
  unfold Dev.abortSmear
  extract_lets ac op w e g
  have he : e.climate = d.climate := by
    unfold e
    split
    · exact Dev.smear_climate
    · rfl
  have hg : g.climate = d.climate := by
    unfold g
    split
    · split
      · exact he
      · exact Dev.smear_climate.trans he
    · exact he
  clear_value g e op
  split
  · exact Dev.smear_climate.trans hg
  · exact Dev.smear_climate.trans hg
  · exact Dev.smear_climate.trans hg
  · exact (foldl_climate fun _ _ => Dev.smear_climate).trans hg
  · exact hg

@[simp] theorem Dev.abortNow_climate {cause first detail : Nat} {send : Bool} : (d.abortNow tag cause first detail send).climate = d.climate := by
  unfold Dev.abortNow
  split
  · extract_lets x' d1 d2 d3 gone d4 fab d5 d6 d7 d8 d9
    have h2 : d2.climate = d.climate := by
      unfold d2
      rw [Dev.postCtx_climate]
      unfold d1
      split
      · exact Dev.sendAborts_climate
      · rfl
    have h3 : d3.climate = d.climate := by
      refine (foldl_climate fun e y => ?_).trans h2
      dsimp only
      split
      · rfl
      · exact Dev.modCore_climate.trans Dev.discardArrivals_climate
    have h4 : d4.climate = d.climate := by
      refine (foldl_climate fun e y => ?_).trans h3
      exact Dev.discardArrivals_climate
    have h5 : d5.climate = d.climate := by
      unfold d5
      split
      · exact Dev.climate_withUpd.trans h4
      · exact h2
    have h6 : d6.climate = d.climate := by
      unfold d6
      split
      · split
        · next hput =>
          have hstep := Dev.putStep_keeps (d := d5) (k := d.climate) (ac := d5.colAcc tag) (n := fieldB x' 16 8)
            (bs := natLe 64 (packB [(0, fieldB x' 16 8), (8, 3)])) h5
          rw [hput] at hstep
          exact hstep
        · exact h5
      · exact h5
    have h8 : d8.climate = d.climate := by
      have h7 : d7.climate = d.climate := Dev.abortSmear_climate.trans h6
      unfold d8
      split
      · exact Dev.modWork_climate.trans h7
      split
      · exact Dev.modWork_climate.trans h7
      · exact h7
    split
    · rfl
    · rw [Dev.finishWork_climate, Dev.modSlot_climate]
      exact Dev.lastInput_climate.trans h8
  · rfl

@[simp] theorem Dev.abortColl_climate {cause first detail : Nat} {send : Bool} : (d.abortColl tag cause first detail send).climate = d.climate := by
  fun_cases Dev.abortColl
  · exact Dev.warnAll_climate
  · rfl
  · exact Dev.abortNow_climate
  · rfl

theorem Dev.colResolve_climate {m : Co Unit} (hm : m.Keeps k) : ∀ e ∈ Dev.colResolve tag m, e.climate = k := by
  intro e he
  unfold Dev.colResolve at he
  split at he
  · split at he
    · cases he
      split
      · exact Dev.abortColl_climate.trans hm
      · exact hm
    · cases he
      exact hm
  · cases he
    exact Dev.abortColl_climate.trans hm
  · cases he

@[simp] theorem Dev.runSlot_climate : (d.runSlot n tag).climate = d.climate := by
  fun_cases Dev.runSlot
  · rfl
  next w _ =>
    have hres := Dev.colResolve_climate (tag := tag) (Dev.advanceSlot_keeps (tag := tag) (x := w.desc) (n := n) (fuel := 12) (d := d) rfl)
    cases hm : Dev.colResolve tag (Dev.advanceSlot tag w.desc n 12 d) with
    | none => rfl
    | some e => exact hres e hm

theorem Dev.runSlots_climate : d.runSlots.climate = d.climate := foldl_climate fun _ _ => Dev.runSlot_climate

/-! ## Lost ports and returned packets -/

@[simp] theorem Dev.portLost_climate {q : Nat} : (d.portLost q).climate = d.climate := by
  unfold Dev.portLost
  extract_lets detail jobs e
  have he : e.climate = d.climate := foldl_climate fun _ _ => Dev.abortColl_climate
  refine (foldl_climate fun g t => ?_).trans he
  split
  · split
    · split
      · exact Dev.finishWork_climate.trans Dev.modWork_climate
      · rfl
    · rfl
  · rfl

@[simp] theorem Dev.cameBack_climate {pkt : Packet} : (d.cameBack pkt).climate = d.climate := by
  fun_cases Dev.cameBack
  · exact Dev.endXact_climate
  · rfl
  · exact Dev.abortColl_climate
  · rfl
  · rfl

theorem Dev.settleFab_climate {fuel : Nat} : (Dev.settleFab fuel d).climate = d.climate := by
  induction fuel generalizing d with
  | zero => rfl
  | succ fuel ih =>
    rw [Dev.settleFab]
    split
    · rfl
    extract_lets sent r e l fab d0 d1 d2 d3
    have h1 : d1.climate = d.climate := (foldl_climate fun _ _ => Dev.portLost_climate).trans Dev.climate_withFab
    have h2 : d2.climate = d.climate := (foldl_climate fun _ _ => Dev.cameBack_climate).trans h1
    have h3 : d3.climate = d.climate := by
      refine (foldl_climate fun g y => ?_).trans h2
      split
      · exact Dev.jobGot_climate
      · rfl
    rw [ih]
    split
    · exact Dev.runSlots_climate.trans h3
    · exact h3

/-! ## The device reset (R454) -/

/-- The climate with a reset of the level and the origin taken (R454). -/
def Climate.taken (k : Climate) (level origin : Nat) : Climate := { k with rs := { k.rs with level := level, result := 0, origin := origin } }

/-- The climate with the power command in flight cancelled and the device reset at work. -/
def Climate.atReset (k : Climate) (origin : Nat) : Climate :=
  { k with
    pw := { k.pw with trans := none }
    rs := { k.rs with
      run := some ⟨origin, false, k.lt⟩
      wait := none
      test := if k.rs.test = 1 then 0 else k.rs.test } }

theorem Dev.acceptReset_climate {level origin : Nat} : (d.acceptReset level origin).climate = d.climate.taken level origin := Dev.bump_climate

theorem Dev.acceptDevice_climate {origin : Nat} : (d.acceptDevice origin).climate = (d.climate.taken 5 origin).atReset origin := by
  have hset (e : Dev) : ({ e with
      pw := { e.pw with trans := none }
      rs := { e.rs with
        run := some ⟨origin, false, e.lt⟩
        wait := none
        test := if e.rs.test = 1 then 0 else e.rs.test }
      hq := { e.hq with ctrlRun := false } } : Dev).climate = e.climate.atReset origin := rfl
  unfold Dev.acceptDevice
  rw [Dev.settleFab_climate, foldl_climate fun _ _ => Dev.abortColl_climate, Dev.blameAll_climate, hset, Dev.acceptReset_climate]

end
end Sys2Proof.Machine
end

section
/-!
PROOFS. The sensor round up to the trip (R421 to R424): samples, the effective values of the logic sensors, the neighbour model and SUSPECT of each layer-half.
-/
namespace Sys2Proof.Machine

/-- A fold over 0 to n − 1, by a property that each step passes on. -/
theorem foldl_range_induct {β : Type} (P : Nat → β → Prop) {f : β → Nat → β} {n : Nat} {b : β} (h0 : P 0 b)
    (hs : ∀ i x, i < n → P i x → P (i + 1) (f x i)) : P n ((List.range n).foldl f b) := by
  induction n with
  | zero => exact h0
  | succ n ih =>
    rw [List.range_succ, List.foldl_append]
    exact hs n _ n.lt_succ_self (ih fun i x hi => hs i x (Nat.lt_succ_of_lt hi))

theorem mem_insertNat {x y : Nat} {l : List Nat} : x ∈ insertNat y l ↔ x = y ∨ x ∈ l := by
  fun_induction insertNat y l
  case case1 => simp
  case case2 => simp
  case case3 => simp
  case case4 z t _ _ ih => simp only [List.mem_cons, ih]; tauto

/-! ## Maxima -/

theorem max?_eq_maxOf {ts : List Int} (h : ts ≠ []) : ts.max? = some (maxOf ts) := by
  cases ts with
  | nil => exact absurd rfl h
  | cons t ts => exact List.max?_cons'

theorem maxOf_mem {ts : List Int} (h : ts ≠ []) : maxOf ts ∈ ts := (List.max?_eq_some_iff.mp (max?_eq_maxOf h)).1

theorem le_maxOf {ts : List Int} {t : Int} (h : t ∈ ts) : t ≤ maxOf ts :=
  (List.max?_eq_some_iff.mp (max?_eq_maxOf (List.ne_nil_of_mem h))).2 t h

/-! ## What the round leaves besides temperatures -/

/-- Registers, domains, cores, fabric, collectives and updates: what a round that does not trip leaves alone. -/
structure Outside where
  regs : Tbl Word
  dom : Nat
  gr : Grid
  fab : Fab
  col : Col
  upd : Upd

/-- What lies outside the round. -/
def Dev.outside (d : Dev) : Outside := ⟨d.regs, d.dom, d.gr, d.fab, d.col, d.upd⟩

theorem Dev.EventOnly.outside_eq {d e : Dev} (h : Dev.EventOnly d e) : e.outside = d.outside := by
  unfold Dev.EventOnly at h
  rw [h]
  rfl

@[simp] theorem Dev.post_outside {d : Dev} {code p : Nat} : (d.post code p).outside = d.outside := (d.post_eventOnly code p).outside_eq

@[simp] theorem Dev.bump_outside {d : Dev} {cs : CtrSet} {i n : Nat} : (d.bump cs i n).outside = d.outside := (d.bump_eventOnly cs i n).outside_eq

theorem foldl_outside {α : Type} {f : Dev → α → Dev} (hf : ∀ d a, (f d a).outside = d.outside) {l : List α} {d : Dev} :
    (l.foldl f d).outside = d.outside := by
  induction l generalizing d with
  | nil => rfl
  | cons a l ih => exact ih.trans (hf d a)

/-- The climate with another thermal state. -/
def Climate.withTh (k : Climate) (t : Therm) : Climate := { k with pw := { k.pw with th := t } }

@[simp] theorem Dev.setTh_th {d : Dev} {t : Therm} : (d.setTh t).pw.th = t := (rfl)
@[simp] theorem Dev.setTh_climate {d : Dev} {t : Therm} : (d.setTh t).climate = d.climate.withTh t := (rfl)

/-- The part e is d but for the thermal state and what posting events changes. -/
structure Dev.ThermOnly (d e : Dev) : Prop where
  climate : e.climate = d.climate.withTh e.pw.th
  outside : e.outside = d.outside

section
variable {d e : Dev}

theorem Dev.ThermOnly.refl : Dev.ThermOnly d d := ⟨rfl, rfl⟩

theorem Dev.ThermOnly.trans {f : Dev} (h : Dev.ThermOnly d e) (g : Dev.ThermOnly e f) : Dev.ThermOnly d f :=
  ⟨by rw [g.climate, h.climate]; rfl, g.outside.trans h.outside⟩

theorem Dev.ThermOnly.setTh (h : Dev.ThermOnly d e) (t : Therm) : Dev.ThermOnly d (e.setTh t) := h.trans ⟨rfl, rfl⟩

theorem Dev.ThermOnly.post (h : Dev.ThermOnly d e) (code p : Nat) : Dev.ThermOnly d (e.post code p) := by
  refine h.trans ⟨?_, Dev.post_outside⟩
  rw [Dev.post_climate, Dev.post_pw]
  rfl

section
variable (h : Dev.ThermOnly d e)
include h

theorem Dev.ThermOnly.rs_eq : e.rs = d.rs := congrArg Climate.rs h.climate
theorem Dev.ThermOnly.pw_eq : e.pw = { d.pw with th := e.pw.th } := congrArg Climate.pw h.climate
theorem Dev.ThermOnly.on_eq (n : Nat) : e.on n = d.on n := by rw [Dev.on, Dev.on, h.rs_eq, show e.dom = d.dom from congrArg Outside.dom h.outside]
theorem Dev.ThermOnly.reg_eq (o : Nat) : e.reg o = d.reg o := by rw [Dev.reg, Dev.reg, show e.regs = d.regs from congrArg Outside.regs h.outside]
theorem Dev.ThermOnly.reads_eq (ch : Nat) : e.reads ch = d.reads ch := by rw [Dev.reads, Dev.reads, h.on_eq]

end

/-! ## Samples (R421) -/

/-- A reading taken, where the sample holds one. -/
def Dev.takeReading (d : Dev) (ch : Nat) (x : Option Int) : Dev :=
  match x with
  | some v => d.setTh { d.pw.th with read := Tbl.set d.pw.th.read ch v 0 }
  | none => d

theorem Dev.sample_eq {ch : Nat} {x : Option Int} : d.sample ch x =
    if d.reads ch = true then
      if goodSample ch x || (d.takeReading ch x).pw.th.failed.contains ch then d.takeReading ch x
      else ((d.takeReading ch x).setTh { (d.takeReading ch x).pw.th with failed := insertNat ch (d.takeReading ch x).pw.th.failed }).post 0xA003 ch
    else d := by
  unfold Dev.sample Dev.takeReading
  cases d.reads ch <;> cases x <;> rfl

/-- The readings with a sample entered. -/
def Therm.readWith (t : Therm) (ch : Nat) : Option Int → Tbl Int
  | some v => Tbl.set t.read ch v 0
  | none => t.read

theorem Dev.takeReading_th {ch : Nat} {x : Option Int} : (d.takeReading ch x).pw.th = { d.pw.th with read := d.pw.th.readWith ch x } := by
  cases x <;> rfl

theorem Dev.takeReading_thermOnly {ch : Nat} {x : Option Int} : Dev.ThermOnly d (d.takeReading ch x) := by
  cases x <;> exact ⟨rfl, rfl⟩

theorem Dev.sample_thermOnly {ch : Nat} {x : Option Int} : Dev.ThermOnly d (d.sample ch x) := by
  rw [Dev.sample_eq]
  split
  · split
    · exact Dev.takeReading_thermOnly
    · exact (Dev.takeReading_thermOnly.setTh _).post _ _
  · exact .refl

/-- The thermal state that a sample of a channel that is read leaves. -/
def Therm.sampled (t : Therm) (ch : Nat) (x : Option Int) : Therm :=
  { t with
    read := t.readWith ch x
    failed := if goodSample ch x || t.failed.contains ch then t.failed else insertNat ch t.failed }

theorem Dev.sample_th {ch : Nat} {x : Option Int} : (d.sample ch x).pw.th = if d.reads ch = true then d.pw.th.sampled ch x else d.pw.th := by
  rw [Dev.sample_eq]
  split
  · rw [Dev.takeReading_th]
    split
    · next hf => rw [Dev.takeReading_th, Therm.sampled, if_pos hf]
    · next hf => rw [Dev.post_pw, Dev.setTh_th, Therm.sampled, if_neg hf]
  · rfl

theorem Therm.read_sampled {t : Therm} {ch k : Nat} {x : Option Int} :
    Tbl.get (t.sampled ch x).read k 0 = if k = ch then x.getD (Tbl.get t.read ch 0) else Tbl.get t.read k 0 := by
  cases x with
  | none => by_cases hk : k = ch <;> simp [Therm.sampled, Therm.readWith, hk]
  | some v => exact Tbl.get_set t.read ch k v 0

theorem Therm.failed_sampled {t : Therm} {ch k : Nat} {x : Option Int} :
    k ∈ (t.sampled ch x).failed ↔ k ∈ t.failed ∨ (k = ch ∧ goodSample ch x = false) := by
  by_cases hf : (goodSample ch x || t.failed.contains ch) = true
  · have hor : goodSample ch x = true ∨ ch ∈ t.failed := by simpa using hf
    simp only [Therm.sampled, if_pos hf]
    refine ⟨.inl, fun h => h.elim id ?_⟩
    rintro ⟨rfl, hg⟩
    simpa [hg] using hor
  · have hg : goodSample ch x = false := by simp_all
    simp only [Therm.sampled, if_neg hf, mem_insertNat]
    rw [hg, and_iff_left rfl]
    exact or_comm

/-- What the samples of the channels below n leave. -/
structure Dev.Sampled (d : Dev) (x : Nat → Option Int) (n : Nat) (e : Dev) : Prop where
  still : Dev.ThermOnly d e
  read : ∀ ch, Tbl.get e.pw.th.read ch 0
    = if ch < n ∧ d.reads ch = true then (x ch).getD (Tbl.get d.pw.th.read ch 0) else Tbl.get d.pw.th.read ch 0
  failed : ∀ ch, ch ∈ e.pw.th.failed ↔ ch ∈ d.pw.th.failed ∨ (ch < n ∧ d.reads ch = true ∧ goodSample ch (x ch) = false)
  rest : e.pw.th = { d.pw.th with read := e.pw.th.read, failed := e.pw.th.failed }

theorem Dev.Sampled.start {x : Nat → Option Int} : d.Sampled x 0 d := ⟨.refl, by simp, by simp, rfl⟩

theorem Dev.Sampled.step {x : Nat → Option Int} {n : Nat} (h : d.Sampled x n e) : d.Sampled x (n + 1) (e.sample n (x n)) := by
  have hth := e.sample_th (ch := n) (x := x n)
  rw [h.still.reads_eq] at hth
  refine ⟨h.still.trans Dev.sample_thermOnly, fun ch => ?_, fun ch => ?_, ?_⟩
  · rw [hth]
    split
    · next hr =>
      rw [Therm.read_sampled]
      split
      · next hch => subst hch; simp [hr, h.read ch]
      · next hch => simp only [h.read ch, show (ch < n + 1 ↔ ch < n) by omega]
    · next hr =>
      rw [h.read ch]
      have : (ch < n ∧ d.reads ch = true) ↔ (ch < n + 1 ∧ d.reads ch = true) := by
        refine ⟨fun ⟨hn, hd⟩ => ⟨by omega, hd⟩, fun ⟨hn, hd⟩ => ⟨?_, hd⟩⟩
        have : ch ≠ n := fun hch => hr (hch ▸ hd)
        omega
      simp only [this]
  · rw [hth]
    have hsplit : ch < n + 1 ↔ ch < n ∨ ch = n := by omega
    split
    · next hr =>
      rw [Therm.failed_sampled, h.failed ch, hsplit]
      constructor
      · rintro ((hf | ⟨hn, hg⟩) | ⟨rfl, hg⟩)
        · exact .inl hf
        · exact .inr ⟨.inl hn, hg⟩
        · exact .inr ⟨.inr rfl, hr, hg⟩
      · rintro (hf | ⟨hn | rfl, hg⟩)
        · exact .inl (.inl hf)
        · exact .inl (.inr ⟨hn, hg⟩)
        · exact .inr ⟨rfl, hg.2⟩
    · next hr =>
      rw [h.failed ch, hsplit]
      constructor
      · rintro (hf | ⟨hn, hg⟩)
        · exact .inl hf
        · exact .inr ⟨.inl hn, hg⟩
      · rintro (hf | ⟨hn | rfl, hg⟩)
        · exact .inl hf
        · exact .inr ⟨hn, hg⟩
        · exact absurd hg.1 hr
  · rw [hth]
    split
    · rw [h.rest]
      rfl
    · exact h.rest

/-- The part with the samples of the channels below n taken. -/
def Dev.sampleTo (d : Dev) (x : Nat → Option Int) (n : Nat) : Dev := (List.range n).foldl (fun d ch => d.sample ch (x ch)) d

theorem Dev.sampled {x : Nat → Option Int} {n : Nat} : d.Sampled x n (d.sampleTo x n) :=
  foldl_range_induct (d.Sampled x) .start fun _ _ _ h => h.step

/-! ## The logic sensors (R424) -/

/-- The quadrant of a logic sensor whose readings stand in for it. -/
def Dev.goodQuad (d : Dev) (c : Nat) : List Int :=
  (((List.range 24).map (fun i => c / 24 * 24 + i)).filter (fun i => !d.pw.th.failed.contains i)).map d.reading

/-- The effective value of a logic sensor. -/
def Dev.logicEff (d : Dev) (c : Nat) : Int :=
  if c ∈ d.pw.th.failed then if d.goodQuad c = [] then d.temp c else maxOf (d.goodQuad c) else d.reading c

/-- The effective values of the logic sensors below n written. -/
structure Dev.LogicTo (d : Dev) (n : Nat) (e : Dev) : Prop where
  eq : ∃ t, e = d.setTh { d.pw.th with eff := t }
  temp : ∀ ch, e.temp ch = if ch < n then d.logicEff ch else d.temp ch

theorem Dev.temp_setEff {ch k : Nat} {v : Int} : (d.setEff ch v).temp k = if k = ch then v else d.temp k := Tbl.get_set d.pw.th.eff ch k v 0

theorem Dev.effLogic_to : d.LogicTo 96 d.effLogic := by
  unfold Dev.effLogic
  extract_lets bad quad
  refine foldl_range_induct d.LogicTo ⟨⟨_, rfl⟩, by simp⟩ fun n e hn h => ?_
  obtain ⟨t, ht⟩ := h.eq
  have hset {v : Int} (hv : d.logicEff n = v) : d.LogicTo (n + 1) (e.setEff n v) := by
    refine ⟨⟨Tbl.set t n v 0, by rw [ht]; rfl⟩, fun ch => ?_⟩
    rw [Dev.temp_setEff, h.temp ch]
    split
    · next hch => simp [hch, hv]
    · next hch => simp only [show (ch < n + 1 ↔ ch < n) by omega]
  have hbad : bad n = true ↔ n ∈ d.pw.th.failed := by simp [bad]
  split
  · next hb =>
    refine hset ?_
    exact if_neg fun hmem => by simp [hbad.mpr hmem] at hb
  · next hb =>
    have hb : n ∈ d.pw.th.failed := by simpa [bad] using hb
    have hquad : (List.map d.reading (List.filter (fun i => !bad i) (quad n))) = d.goodQuad n := rfl
    rw [hquad]
    dsimp only
    cases hts : d.goodQuad n with
    | nil =>
      refine ⟨⟨t, ht⟩, fun ch => (h.temp ch).trans ?_⟩
      split
      · rw [if_pos (by omega)]
      · split
        · next hch =>
          have : ch = n := by omega
          rw [this, Dev.logicEff, if_pos hb, if_pos hts]
        · rfl
    | cons v vs =>
      refine hset ?_
      rw [Dev.logicEff, if_pos hb, if_neg (by simp [hts]), hts]

theorem Dev.effLogic_thermOnly : Dev.ThermOnly d d.effLogic := by
  obtain ⟨t, ht⟩ := d.effLogic_to.eq
  rw [ht]
  exact Dev.ThermOnly.refl.setTh _

end
end Sys2Proof.Machine
end

section
/-!
PROOFS. The layer-halves of a sensor round (R422, R423): the neighbour model, SUSPECT and effective values, one layer-half after another from the base die up.
-/
namespace Sys2Proof.Machine

theorem bitOf_eq_testBit (x i : Nat) : bitOf x i = x.testBit i := Nat.testBit_eq_decide_div_mod_eq.symm

theorem bitOf_or_two_pow (x b k : Nat) : bitOf (x ||| 2 ^ b) k = (decide (k = b) || bitOf x k) := by
  simp only [bitOf_eq_testBit, Nat.testBit_or, Nat.testBit_two_pow, Bool.or_comm, eq_comm]

/-- A table with a run of entries written. -/
theorem Tbl.get_fill {α : Type} [DecidableEq α] {key : Nat → Nat} {base n k : Nat} {v : Nat → α} {dflt : α} {t : Tbl α}
    (hkey : ∀ j, key j = base + j) : Tbl.get ((List.range n).foldl (fun t j => Tbl.set t (key j) (v j) dflt) t) k dflt
      = if base ≤ k ∧ k < base + n then v (k - base) else Tbl.get t k dflt := by
  refine foldl_range_induct (fun n u => Tbl.get u k dflt = if base ≤ k ∧ k < base + n then v (k - base) else Tbl.get t k dflt) ?_ fun i u _ hu => ?_
  · rw [if_neg (by omega)]
  · rw [Tbl.get_set, hu, hkey]
    by_cases hk : k = base + i
    · rw [if_pos hk, if_pos (by omega), hk, Nat.add_sub_cancel_left]
    · simp only [if_neg hk, show (base ≤ k ∧ k < base + (i + 1)) ↔ (base ≤ k ∧ k < base + i) by omega]

section
variable {d e : Dev} {traffic : List (Nat × Nat)} {b : Nat}

/-! ## What a layer-half is judged by -/

/-- The power of a layer-half that the model takes. -/
def Dev.layerWatts (d : Dev) (traffic : List (Nat × Nat)) (b : Nat) : Nat :=
  if d.on (72 + b) = true then d.layerPower b (traffic.getD b (0, 0)) else 0

/-- The positions of a layer-half whose sensors are not FAILED. -/
def Dev.goodPos (d : Dev) (b : Nat) : List Nat := (List.range 12).filter (fun j => !d.pw.th.failed.contains (posChan b j))

/-- Δ of a layer-half, of the models and readings of its good positions. -/
def Dev.layerDelta (d : Dev) (model : Nat → Int) (b : Nat) : Int :=
  meanOf ((d.goodPos b).map model) - meanOf ((d.goodPos b).map fun j => d.reading (posChan b j))

/-- The rounds in a row with Δ > 6.0 °C, n before this one. -/
def layerRun (on : Bool) (good : List Nat) (delta : Int) (n : Nat) : Nat :=
  if on = true ∧ good ≠ [] ∧ 6000000 < delta then n + 1 else 0

/-- What the round d to e leaves of a layer-half. -/
structure Dev.LayerJudged (d : Dev) (traffic : List (Nat × Nat)) (e : Dev) (b : Nat) : Prop where
  model : ∀ j, j < 12 → Tbl.get e.pw.th.model (12 * b + j) 0
    = tModel (b / 2 + 1) (e.belowOf b j) (d.aboveOf d.pw.th.eff b j) (d.layerWatts traffic b)
  modelled : ∀ j, j < 12 → d.on (72 + b) = false ∨ posChan b j ∈ e.pw.th.failed → e.temp (posChan b j) = Tbl.get e.pw.th.model (12 * b + j) 0
  measured : ∀ j, j < 12 → d.on (72 + b) = true → posChan b j ∉ e.pw.th.failed → e.temp (posChan b j)
    = if e.isSuspect b = true then max (e.reading (posChan b j)) (Tbl.get e.pw.th.model (12 * b + j) 0) else e.reading (posChan b j)
  rounds : Tbl.get e.pw.th.rounds b 0
    = min (layerRun (d.on (72 + b)) (e.goodPos b) (e.layerDelta (fun j => Tbl.get e.pw.th.model (12 * b + j) 0) b) (Tbl.get d.pw.th.rounds b 0)) 3
  suspect : e.isSuspect b = true ↔ d.isSuspect b = true ∨ (d.on (72 + b) = true ∧
    3 ≤ layerRun (d.on (72 + b)) (e.goodPos b) (e.layerDelta (fun j => Tbl.get e.pw.th.model (12 * b + j) 0) b) (Tbl.get d.pw.th.rounds b 0))

theorem posChan_below (b j : Nat) (hj : j < 12) : posChan b j < 96 + 12 * (b + 1) := by unfold posChan; omega

/-- The channel below a position lies in the base die or two layer-halves down. -/
theorem below_lt {b j : Nat} (hj : j < 12) : (if b < 2 then underPos b j else posChan (b - 2) j) < 96 + 12 * b := by
  split
  · unfold underPos
    split <;> omega
  · unfold posChan
    omega

theorem Dev.goodPos_congr (hf : e.pw.th.failed = d.pw.th.failed) : e.goodPos b = d.goodPos b := by rw [Dev.goodPos, Dev.goodPos, hf]

theorem Dev.lt_of_mem_goodPos {j : Nat} (hj : j ∈ d.goodPos b) : j < 12 := List.mem_range.mp (List.mem_of_mem_filter hj)

theorem Dev.reading_congr (hr : e.pw.th.read = d.pw.th.read) (ch : Nat) : e.reading ch = d.reading ch := by rw [Dev.reading, Dev.reading, hr]

theorem Dev.layerDelta_congr {m m' : Nat → Int} (hr : e.pw.th.read = d.pw.th.read) (hf : e.pw.th.failed = d.pw.th.failed)
    (hm : ∀ j, j < 12 → m' j = m j) : e.layerDelta m' b = d.layerDelta m b := by
  unfold Dev.layerDelta
  rw [Dev.goodPos_congr hf, List.map_congr_left fun j hj => hm j (Dev.lt_of_mem_goodPos hj), List.map_congr_left fun j _ => Dev.reading_congr hr _]

/-- What is judged of a layer-half stays as long as nothing it reads changes. -/
theorem Dev.LayerJudged.congr {f : Dev} (h : d.LayerJudged traffic e b) (hr : f.pw.th.read = e.pw.th.read) (hf : f.pw.th.failed = e.pw.th.failed)
    (ht : ∀ ch, ch < 96 + 12 * (b + 1) → f.temp ch = e.temp ch)
    (hm : ∀ j, j < 12 → Tbl.get f.pw.th.model (12 * b + j) 0 = Tbl.get e.pw.th.model (12 * b + j) 0)
    (hn : Tbl.get f.pw.th.rounds b 0 = Tbl.get e.pw.th.rounds b 0) (hs : f.isSuspect b = e.isSuspect b) : d.LayerJudged traffic f b := by
  have hd := Dev.layerDelta_congr (b := b) hr hf hm
  have hg := Dev.goodPos_congr (b := b) hf
  refine ⟨fun j hj => ?_, fun j hj => ?_, fun j hj => ?_, ?_, ?_⟩
  · have hbelow : f.belowOf b j = e.belowOf b j := ht _ (Nat.lt_of_lt_of_le (below_lt hj) (by omega))
    rw [hm j hj, hbelow, h.model j hj]
  · rw [hf, ht _ (posChan_below b j hj), hm j hj]
    exact h.modelled j hj
  · rw [hf, ht _ (posChan_below b j hj), hm j hj, hs, Dev.reading_congr hr]
    exact h.measured j hj
  · rw [hn, hg, hd]
    exact h.rounds
  · rw [hs, hg, hd]
    exact h.suspect

/-! ## One layer-half evaluated -/

section
variable {prev : Tbl Int}

/-- The model of a position as the evaluation computes it. -/
def Dev.layerModel (d : Dev) (prev : Tbl Int) (traffic : List (Nat × Nat)) (b j : Nat) : Int :=
  tModel (b / 2 + 1) (d.belowOf b j) (d.aboveOf prev b j) (d.layerWatts traffic b)

/-- The rounds in a row as the evaluation counts them. -/
def Dev.layerRound (d : Dev) (prev : Tbl Int) (traffic : List (Nat × Nat)) (b : Nat) : Nat :=
  layerRun (d.on (72 + b)) (d.goodPos b) (d.layerDelta (d.layerModel prev traffic b) b) (Tbl.get d.pw.th.rounds b 0)

/-- The layer-half becomes SUSPECT in this evaluation. -/
def Dev.layerTurns (d : Dev) (prev : Tbl Int) (traffic : List (Nat × Nat)) (b : Nat) : Bool :=
  d.on (72 + b) && !d.isSuspect b && decide (3 ≤ d.layerRound prev traffic b)

/-- The effective value of a position as the evaluation computes it. -/
def Dev.layerEff (d : Dev) (prev : Tbl Int) (traffic : List (Nat × Nat)) (b j : Nat) : Int :=
  if !d.on (72 + b) || d.pw.th.failed.contains (posChan b j) then d.layerModel prev traffic b j
  else if d.isSuspect b || d.layerTurns prev traffic b then max (d.reading (posChan b j)) (d.layerModel prev traffic b j)
  else d.reading (posChan b j)

theorem Dev.effLayer_fst {new : List (Nat × Int)} : (Dev.effLayer prev traffic (d, new) b).1 = d.setTh { d.pw.th with
    rounds := Tbl.set d.pw.th.rounds b (min (d.layerRound prev traffic b) 3) 0
    suspect := if d.layerTurns prev traffic b then d.pw.th.suspect ||| 2 ^ b else d.pw.th.suspect
    model := (List.range 12).foldl (fun t j => Tbl.set t (12 * b + j) (d.layerModel prev traffic b j) 0) d.pw.th.model
    eff := (List.range 12).foldl (fun t j => Tbl.set t (posChan b j) (d.layerEff prev traffic b j) 0) d.pw.th.eff } := by
  have hrun : (if d.on (72 + b) && !(d.goodPos b).isEmpty && decide (6 * degC < d.layerDelta (d.layerModel prev traffic b) b)
      then Tbl.get d.pw.th.rounds b 0 + 1 else 0) = d.layerRound prev traffic b := by
    rw [show 6 * degC = 6000000 from rfl]
    simp [Dev.layerRound, layerRun, and_assoc]
  unfold Dev.layerEff Dev.layerTurns
  rw [← hrun]
  rfl

theorem Dev.temp_effLayer {new : List (Nat × Int)} (ch : Nat) : (Dev.effLayer prev traffic (d, new) b).1.temp ch
    = if 96 + 12 * b ≤ ch ∧ ch < 96 + 12 * b + 12 then d.layerEff prev traffic b (ch - (96 + 12 * b)) else d.temp ch := by
  rw [Dev.effLayer_fst]
  exact Tbl.get_fill fun _ => rfl

theorem Dev.temp_effLayer_posChan {new : List (Nat × Int)} {j : Nat} (hj : j < 12) :
    (Dev.effLayer prev traffic (d, new) b).1.temp (posChan b j) = d.layerEff prev traffic b j := by
  rw [Dev.temp_effLayer, if_pos (by unfold posChan; omega), posChan, Nat.add_sub_cancel_left]

theorem Dev.model_effLayer {new : List (Nat × Int)} (k : Nat) : Tbl.get (Dev.effLayer prev traffic (d, new) b).1.pw.th.model k 0
    = if 12 * b ≤ k ∧ k < 12 * b + 12 then d.layerModel prev traffic b (k - 12 * b) else Tbl.get d.pw.th.model k 0 := by
  rw [Dev.effLayer_fst]
  exact Tbl.get_fill fun _ => rfl

theorem Dev.model_effLayer_self {new : List (Nat × Int)} {j : Nat} (hj : j < 12) :
    Tbl.get (Dev.effLayer prev traffic (d, new) b).1.pw.th.model (12 * b + j) 0 = d.layerModel prev traffic b j := by
  rw [Dev.model_effLayer, if_pos (by omega), Nat.add_sub_cancel_left]

theorem Dev.rounds_effLayer {new : List (Nat × Int)} (k : Nat) : Tbl.get (Dev.effLayer prev traffic (d, new) b).1.pw.th.rounds k 0
    = if k = b then min (d.layerRound prev traffic b) 3 else Tbl.get d.pw.th.rounds k 0 := by
  rw [Dev.effLayer_fst]
  exact Tbl.get_set d.pw.th.rounds b k _ 0

theorem Dev.isSuspect_effLayer {new : List (Nat × Int)} (k : Nat) : (Dev.effLayer prev traffic (d, new) b).1.isSuspect k
    = (d.isSuspect k || (decide (k = b) && d.layerTurns prev traffic b)) := by
  rw [Dev.effLayer_fst, Dev.isSuspect, Dev.isSuspect, Dev.setTh_th]
  cases d.layerTurns prev traffic b
  · simp
  · simp [bitOf_or_two_pow, Bool.or_comm]

theorem Dev.read_effLayer {new : List (Nat × Int)} : (Dev.effLayer prev traffic (d, new) b).1.pw.th.read = d.pw.th.read := by
  rw [Dev.effLayer_fst]
  rfl

theorem Dev.failed_effLayer {new : List (Nat × Int)} : (Dev.effLayer prev traffic (d, new) b).1.pw.th.failed = d.pw.th.failed := by
  rw [Dev.effLayer_fst]
  rfl

theorem Dev.effLayer_thermOnly {new : List (Nat × Int)} : Dev.ThermOnly d (Dev.effLayer prev traffic (d, new) b).1 := by
  rw [Dev.effLayer_fst]
  exact Dev.ThermOnly.refl.setTh _

end

/-! ## One layer-half after another -/

/-- The layer-halves below n evaluated from the state c on, of a round that began in d. -/
structure Dev.LayersTo (d : Dev) (traffic : List (Nat × Nat)) (c : Dev) (n : Nat) (e : Dev) : Prop where
  still : Dev.ThermOnly d e
  rest : e.pw.th = { c.pw.th with eff := e.pw.th.eff, model := e.pw.th.model, rounds := e.pw.th.rounds, suspect := e.pw.th.suspect }
  logic : ∀ ch, ch < 96 → e.temp ch = c.temp ch
  above : ∀ ch, 96 + 12 * n ≤ ch → e.temp ch = d.temp ch
  rounds : ∀ b, n ≤ b → Tbl.get e.pw.th.rounds b 0 = Tbl.get d.pw.th.rounds b 0
  suspect : ∀ b, n ≤ b → e.isSuspect b = d.isSuspect b
  judged : ∀ b, b < n → d.LayerJudged traffic e b

section
variable {c : Dev} {n : Nat}

/-- The leakage of a layer-half is taken of temperatures that the round has not written yet. -/
theorem Dev.LayersTo.layerWatts_eq (h : d.LayersTo traffic c n e) (hn : n < 8) : e.layerWatts traffic n = d.layerWatts traffic n := by
  have hdom : e.domTemp (72 + n) = d.domTemp (72 + n) := by
    have hmap : (sensorsOf (72 + n)).map e.temp = (sensorsOf (72 + n)).map d.temp := by
      refine List.map_congr_left fun ch hch => h.above ch ?_
      rw [sensorsOf, if_neg (by omega), if_pos (by omega), Nat.add_sub_cancel_left] at hch
      obtain ⟨j, -, rfl⟩ := List.mem_map.mp hch
      omega
    rw [Dev.domTemp, Dev.domTemp, hmap]
  have hleak : e.leak (72 + n) = d.leak (72 + n) := by
    rw [Dev.leak, Dev.leak, h.still.rs_eq, hdom, h.still.pw_eq]
  rw [Dev.layerWatts, Dev.layerWatts, h.still.on_eq, Dev.layerPower, Dev.layerPower, hleak, h.still.pw_eq]

theorem Dev.LayersTo.aboveOf_eq (h : d.LayersTo traffic c n e) (prev : Tbl Int) (j : Nat) : e.aboveOf prev n j = d.aboveOf prev n j := by
  rw [Dev.aboveOf, Dev.aboveOf, h.still.reg_eq]

theorem Dev.LayersTo.judged_new (h : d.LayersTo traffic c n e) (hn : n < 8) {new : List (Nat × Int)} :
    d.LayerJudged traffic (Dev.effLayer d.pw.th.eff traffic (e, new) n).1 n := by
  have hround : layerRun (d.on (72 + n)) ((Dev.effLayer d.pw.th.eff traffic (e, new) n).1.goodPos n)
      ((Dev.effLayer d.pw.th.eff traffic (e, new) n).1.layerDelta
        (fun j => Tbl.get (Dev.effLayer d.pw.th.eff traffic (e, new) n).1.pw.th.model (12 * n + j) 0) n) (Tbl.get d.pw.th.rounds n 0)
      = e.layerRound d.pw.th.eff traffic n := by
    rw [Dev.layerRound, h.still.on_eq, h.rounds n (Nat.le_refl n), Dev.goodPos_congr Dev.failed_effLayer,
      Dev.layerDelta_congr Dev.read_effLayer Dev.failed_effLayer fun j hj => Dev.model_effLayer_self hj]
  have hsus : (Dev.effLayer d.pw.th.eff traffic (e, new) n).1.isSuspect n = (e.isSuspect n || e.layerTurns d.pw.th.eff traffic n) := by
    simp [Dev.isSuspect_effLayer]
  refine ⟨fun j hj => ?_, fun j hj hoff => ?_, fun j hj hon hgood => ?_, ?_, ?_⟩
  · have hbelow : (Dev.effLayer d.pw.th.eff traffic (e, new) n).1.belowOf n j = e.belowOf n j := by
      have := below_lt (b := n) hj
      rw [Dev.belowOf, Dev.temp_effLayer, if_neg (by omega)]
      rfl
    rw [Dev.model_effLayer_self hj, hbelow, Dev.layerModel, h.aboveOf_eq, h.layerWatts_eq hn]
  · rw [Dev.failed_effLayer] at hoff
    rw [Dev.temp_effLayer_posChan hj, Dev.model_effLayer_self hj, Dev.layerEff, h.still.on_eq, if_pos (by simpa using hoff)]
  · rw [Dev.failed_effLayer] at hgood
    rw [Dev.temp_effLayer_posChan hj, Dev.model_effLayer_self hj, Dev.layerEff, h.still.on_eq, if_neg (by simp [hon, hgood]), hsus,
      Dev.reading_congr Dev.read_effLayer]
  · rw [Dev.rounds_effLayer, if_pos rfl, hround]
  · rw [hround, hsus, h.suspect n (Nat.le_refl n), Dev.layerTurns, h.suspect n (Nat.le_refl n), h.still.on_eq]
    cases d.isSuspect n <;> simp

theorem Dev.LayersTo.step (h : d.LayersTo traffic c n e) (hn : n < 8) {new : List (Nat × Int)} :
    d.LayersTo traffic c (n + 1) (Dev.effLayer d.pw.th.eff traffic (e, new) n).1 where
  still := h.still.trans Dev.effLayer_thermOnly
  rest := by
    rw [Dev.effLayer_fst, Dev.setTh_th, h.rest]
  logic ch hch := by
    rw [Dev.temp_effLayer, if_neg (by omega)]
    exact h.logic ch hch
  above ch hch := by
    rw [Dev.temp_effLayer, if_neg (by omega)]
    exact h.above ch (by omega)
  rounds b hb := by
    rw [Dev.rounds_effLayer, if_neg (by omega)]
    exact h.rounds b (by omega)
  suspect b hb := by
    rw [Dev.isSuspect_effLayer, decide_eq_false (by omega), Bool.false_and, Bool.or_false]
    exact h.suspect b (by omega)
  judged b hb := by
    obtain hlt | rfl : b < n ∨ b = n := by omega
    · refine (h.judged b hlt).congr Dev.read_effLayer Dev.failed_effLayer (fun ch hch => ?_) (fun j hj => ?_) ?_ ?_
      · rw [Dev.temp_effLayer, if_neg (by omega)]
      · rw [Dev.model_effLayer, if_neg (by omega)]
      · rw [Dev.rounds_effLayer, if_neg (by omega)]
      · rw [Dev.isSuspect_effLayer, decide_eq_false (by omega), Bool.false_and, Bool.or_false]
    · exact h.judged_new hn

end

end
end Sys2Proof.Machine
end

section
/-!
PROOFS. The temperatures of a sensor round (R421 to R424), as samples, logic sensors and layer-halves together leave them.
-/
namespace Sys2Proof.Machine

section
variable {d e : Dev} {x : Nat → Option Int} {traffic : List (Nat × Nat)}

/-- What the round d to e leaves of readings, models and effective values. -/
structure Dev.Measured (d : Dev) (x : Nat → Option Int) (traffic : List (Nat × Nat)) (e : Dev) : Prop where
  lastRound : e.pw.th.lastRound = some d.lt
  read : ∀ ch, Tbl.get e.pw.th.read ch 0 = if d.reads ch = true then (x ch).getD (Tbl.get d.pw.th.read ch 0) else Tbl.get d.pw.th.read ch 0
  failed : ∀ ch, ch ∈ e.pw.th.failed ↔ ch ∈ d.pw.th.failed ∨ (d.reads ch = true ∧ goodSample ch (x ch) = false)
  logic : ∀ ch, ch < 96 → ch ∉ e.pw.th.failed → e.temp ch = e.reading ch
  standIn : ∀ ch, ch < 96 → ch ∈ e.pw.th.failed → (∃ i, i < 24 ∧ ch / 24 * 24 + i ∉ e.pw.th.failed) →
    (∃ i, i < 24 ∧ ch / 24 * 24 + i ∉ e.pw.th.failed ∧ e.temp ch = e.reading (ch / 24 * 24 + i))
    ∧ ∀ i, i < 24 → ch / 24 * 24 + i ∉ e.pw.th.failed → e.reading (ch / 24 * 24 + i) ≤ e.temp ch
  layers : ∀ b, b < 8 → d.LayerJudged traffic e b

/-- The temperatures of a round do not depend on fractions and the trip. -/
theorem Dev.Measured.congr {f : Dev} (h : d.Measured x traffic e)
    (hth : ∃ fr tr ch t, f.pw.th = { e.pw.th with frac := fr, tripped := tr, tripCh := ch, tripTemp := t }) : d.Measured x traffic f := by
  obtain ⟨fr, tr, ch, t, hth⟩ := hth
  have hr : f.pw.th.read = e.pw.th.read := by rw [hth]
  have hf : f.pw.th.failed = e.pw.th.failed := by rw [hth]
  have ht (k : Nat) : f.temp k = e.temp k := by rw [Dev.temp, hth]; rfl
  have hm : f.pw.th.model = e.pw.th.model := by rw [hth]
  have hn : f.pw.th.rounds = e.pw.th.rounds := by rw [hth]
  have hs (b : Nat) : f.isSuspect b = e.isSuspect b := by rw [Dev.isSuspect, hth]; rfl
  have hl : f.pw.th.lastRound = e.pw.th.lastRound := by rw [hth]
  constructor
  · exact hl.trans h.lastRound
  · rw [hr]
    exact h.read
  · rw [hf]
    exact h.failed
  · simp only [hf, ht, Dev.reading_congr hr]
    exact h.logic
  · simp only [hf, ht, Dev.reading_congr hr]
    exact h.standIn
  · exact fun b hb => (h.layers b hb).congr hr hf (fun _ _ => ht _) (fun _ _ => by rw [hm]) (by rw [hn]) (hs b)

/-- The sensor reads: every channel that a round reads is below 230. -/
theorem Dev.lt_of_reads {ch : Nat} (h : d.reads ch = true) : ch < 230 := by
  simp only [Dev.reads, Bool.and_eq_true, decide_eq_true_eq] at h
  exact h.1

theorem Dev.mem_goodQuad {ch : Nat} {t : Int} : t ∈ d.goodQuad ch
    ↔ ∃ i, i < 24 ∧ ch / 24 * 24 + i ∉ d.pw.th.failed ∧ d.reading (ch / 24 * 24 + i) = t := by
  simp only [Dev.goodQuad, List.mem_map, List.mem_filter, List.mem_range, Bool.not_eq_true', List.contains_eq_mem, decide_eq_false_iff_not]
  constructor
  · rintro ⟨_, ⟨⟨i, hi, rfl⟩, hbad⟩, rfl⟩
    exact ⟨i, hi, hbad, rfl⟩
  · rintro ⟨i, hi, hbad, rfl⟩
    exact ⟨_, ⟨⟨i, hi, rfl⟩, hbad⟩, rfl⟩

/-- A FAILED logic sensor takes the largest reading of the good ones of its quadrant. -/
theorem Dev.logicEff_standIn {ch : Nat} (hbad : ch ∈ d.pw.th.failed) (hgood : ∃ i, i < 24 ∧ ch / 24 * 24 + i ∉ d.pw.th.failed) :
    (∃ i, i < 24 ∧ ch / 24 * 24 + i ∉ d.pw.th.failed ∧ d.logicEff ch = d.reading (ch / 24 * 24 + i))
    ∧ ∀ i, i < 24 → ch / 24 * 24 + i ∉ d.pw.th.failed → d.reading (ch / 24 * 24 + i) ≤ d.logicEff ch := by
  obtain ⟨i, hi, hgi⟩ := hgood
  have hne : d.goodQuad ch ≠ [] := List.ne_nil_of_mem (Dev.mem_goodQuad.mpr ⟨i, hi, hgi, rfl⟩)
  have heff : d.logicEff ch = maxOf (d.goodQuad ch) := by rw [Dev.logicEff, if_pos hbad, if_neg hne]
  rw [heff]
  constructor
  · obtain ⟨j, hj, hgj, hmax⟩ := Dev.mem_goodQuad.mp (maxOf_mem hne)
    exact ⟨j, hj, hgj, hmax.symm⟩
  · exact fun j hj hgj => le_maxOf (Dev.mem_goodQuad.mpr ⟨j, hj, hgj, rfl⟩)

/-! ## The round's temperatures, from its samples on -/

/-- The part with a round's effective values, and the layer-halves that became SUSPECT. -/
def Dev.effAll (c : Dev) (traffic : List (Nat × Nat)) : Dev × List (Nat × Int) :=
  (List.range 8).foldl (Dev.effLayer c.pw.th.eff traffic) (c.effLogic, [])

/-- The part as the round judges it: the trip, write holds and gating follow. -/
def Dev.measure (c : Dev) (traffic : List (Nat × Nat)) : Dev :=
  (c.effAll traffic).1.setTh { (c.effAll traffic).1.pw.th with lastRound := some (c.effAll traffic).1.lt }

section
variable {c : Dev} {n : Nat} (hs : d.Sampled x n c)
include hs

theorem Dev.Sampled.layersTo_start : d.LayersTo traffic c.effLogic 0 c.effLogic := by
  have hl := c.effLogic_to
  obtain ⟨t, ht⟩ := hl.eq
  refine ⟨hs.still.trans Dev.effLogic_thermOnly, rfl, fun _ _ => rfl, fun ch hch => ?_, fun b _ => ?_, fun b _ => ?_, fun b hb => absurd hb b.not_lt_zero⟩
  · rw [hl.temp, if_neg (by omega), Dev.temp, hs.rest]
    rfl
  · rw [ht, Dev.setTh_th, hs.rest]
  · rw [ht, Dev.isSuspect, Dev.setTh_th, hs.rest]
    rfl

theorem Dev.Sampled.layersTo_all : d.LayersTo traffic c.effLogic 8 (c.effAll traffic).1 := by
  have heff : c.pw.th.eff = d.pw.th.eff := by rw [hs.rest]
  unfold Dev.effAll
  rw [heff]
  exact foldl_range_induct (fun n (r : Dev × List (Nat × Int)) => d.LayersTo traffic c.effLogic n r.1) hs.layersTo_start
    fun _ _ hi h => h.step hi

theorem Dev.Sampled.measure_thermOnly : Dev.ThermOnly d (c.measure traffic) := hs.layersTo_all.still.setTh _

/-- Readings and FAILED channels come from the samples; fractions and the trip are the round's before. -/
theorem Dev.Sampled.measure_rest : (c.measure traffic).pw.th.read = c.pw.th.read ∧ (c.measure traffic).pw.th.failed = c.pw.th.failed
    ∧ (c.measure traffic).pw.th.frac = d.pw.th.frac ∧ (c.measure traffic).pw.th.tripped = d.pw.th.tripped := by
  obtain ⟨t, ht⟩ := c.effLogic_to.eq
  have hl := (hs.layersTo_all (traffic := traffic)).rest
  rw [Dev.measure, Dev.setTh_th, hl, ht, Dev.setTh_th]
  refine ⟨rfl, rfl, ?_, ?_⟩
  · rw [hs.rest]
  · rw [hs.rest]

/-- The samples of all channels, 230 and some more, make a measured round. -/
theorem Dev.Sampled.measured (hn : 230 ≤ n) : d.Measured x traffic (c.measure traffic) := by
  have hl := hs.layersTo_all (traffic := traffic)
  obtain ⟨hr, hf, -, -⟩ := hs.measure_rest (traffic := traffic)
  unfold Dev.measure at hr hf ⊢
  generalize (c.effAll traffic).1 = r at hl hr hf ⊢
  have htemp (ch : Nat) (hch : ch < 96) : (r.setTh { r.pw.th with lastRound := some r.lt }).temp ch = c.logicEff ch := by
    refine (hl.logic ch hch).trans ?_
    rw [c.effLogic_to.temp, if_pos hch]
  have hbelow (ch : Nat) : d.reads ch = true → ch < n := fun h => Nat.lt_of_lt_of_le (Dev.lt_of_reads h) hn
  constructor
  · exact congrArg some (congrArg Climate.lt hl.still.climate)
  · intro ch
    rw [hr, hs.read]
    simp only [and_iff_right_of_imp (hbelow ch)]
  · intro ch
    rw [hf, hs.failed]
    exact or_congr_right ⟨fun h => h.2, fun h => ⟨hbelow ch h.1, h⟩⟩
  · intro ch hch hgood
    rw [htemp ch hch, Dev.logicEff, if_neg (hf ▸ hgood), Dev.reading_congr hr]
  · intro ch hch hbad hgood
    rw [hf] at hbad hgood ⊢
    simp only [Dev.reading_congr hr, htemp ch hch]
    exact Dev.logicEff_standIn hbad hgood
  · exact fun b hb => (hl.judged b hb).congr rfl rfl (fun _ _ => rfl) (fun _ _ => rfl) rfl rfl

end

end
end Sys2Proof.Machine
end

section
/-!
PROOFS. Write holds, thermal gating and the throttle indicator of a sensor round (R425, R426, R257, R272, R414), and the trip (R429).
-/
namespace Sys2Proof.Machine

/-- A set bit taken away leaves the others. -/
theorem bitOf_sub_two_pow {x b : Nat} (h : bitOf x b = true) (k : Nat) : bitOf (x - 2 ^ b) k = (decide (k ≠ b) && bitOf x k) := by
  have hodd : x / 2 ^ b % 2 = 1 := by simpa [bitOf] using h
  have hx : x = 2 ^ b * (x / 2 ^ b) + x % 2 ^ b := (Nat.div_add_mod x (2 ^ b)).symm
  have hsub : x - 2 ^ b = 2 ^ b * (x / 2 ^ b - 1) + x % 2 ^ b := by
    have hpos : 0 < x / 2 ^ b := Nat.pos_of_ne_zero fun h0 => by simp [h0] at hodd
    rw [Nat.mul_sub_one, ← Nat.sub_add_comm (Nat.le_mul_of_pos_right _ hpos), ← hx]
  have hlt : x % 2 ^ b < 2 ^ b := Nat.mod_lt _ (Nat.two_pow_pos b)
  generalize x / 2 ^ b = q at hodd hx hsub
  generalize x % 2 ^ b = r at hlt hx hsub
  rw [bitOf_eq_testBit, bitOf_eq_testBit, hsub, hx, Nat.testBit_two_pow_mul_add _ hlt, Nat.testBit_two_pow_mul_add _ hlt]
  split
  · next hk => simp [show k ≠ b by omega]
  · next hk =>
    cases hj : k - b with
    | zero =>
      rw [Nat.testBit_zero, show (q - 1) % 2 = 0 by omega, show k = b by omega]
      simp
    | succ j =>
      rw [Nat.testBit_succ, Nat.testBit_succ, show (q - 1) / 2 = q / 2 by omega]
      simp [show k ≠ b by omega]

section
variable {d e : Dev}

/-! ## What ends with a write hold -/

@[simp] theorem Dev.runDeferred_climate {n : Nat} {mine : Nat → Bool} : (d.runDeferred n mine).climate = d.climate := by
  unfold Dev.runDeferred
  refine (foldl_climate fun e a => ?_).trans Dev.modGlean_climate
  split
  · split
    · exact Dev.putLine_climate
    · rfl
  · exact Dev.granCorrect_climate

theorem Dev.granPut_outside {b : Nat} {x : Blk} : (d.granPut b x).outside = d.outside := (rfl)

theorem Dev.granCorrect_outside {b : Nat} {p : Par} : (d.granCorrect b p).outside = d.outside := by
  fun_cases Dev.granCorrect <;> rfl

theorem Dev.runDeferred_outside {n : Nat} {mine : Nat → Bool} : (d.runDeferred n mine).outside = d.outside := by
  unfold Dev.runDeferred
  refine (foldl_outside fun e a => ?_).trans rfl
  split
  · split <;> rfl
  · exact Dev.granCorrect_outside

@[simp] theorem Dev.flushQueue_climate {n : Nat} : (d.flushQueue n).climate = d.climate := by
  unfold Dev.flushQueue
  exact foldl_climate fun _ _ => Dev.granPut_climate

theorem Dev.flushQueue_outside {n : Nat} : (d.flushQueue n).outside = d.outside := by
  unfold Dev.flushQueue
  exact foldl_outside fun _ _ => Dev.granPut_outside

@[simp] theorem Dev.settleSr_climate {g : Nat} : (d.settleSr g).climate = d.climate := by
  fun_cases Dev.settleSr
  · exact Dev.modGroup_climate
  · rfl

theorem Dev.settleSr_outside {g : Nat} : (d.settleSr g).outside = d.outside := by
  fun_cases Dev.settleSr <;> rfl

/-! ## Write holds of layer-halves -/

/-- The climate with other layer-halves under write hold. -/
def Climate.withHold (k : Climate) (h : Nat) : Climate := { k with hold := h }

/-- The effective temperatures at which a layer-half's write hold ends. -/
def Dev.cool (d : Dev) (b : Nat) : Bool := maxOf (d.halfTemps b) ≤ 105000000 && 3000000 ≤ minOf (d.halfTemps b)

/-- The effective temperatures at which a layer-half's write hold begins. -/
def Dev.hot (d : Dev) (b : Nat) : Bool := 108000000 < maxOf (d.halfTemps b) || minOf (d.halfTemps b) < 0

/-- A layer-half is under write hold after the round. -/
def Dev.layerHold (d : Dev) (b : Nat) : Bool := if bitOf d.mm.hold b = true then !d.cool b else d.hot b

/-- The layer-halves under write hold, once that of b is judged. -/
def Dev.holdAfter (d : Dev) (b : Nat) : Nat :=
  if bitOf d.mm.hold b = true then if d.cool b = true then d.mm.hold - 2 ^ b else d.mm.hold
  else if d.hot b = true then d.mm.hold ||| 2 ^ b else d.mm.hold

theorem Dev.bitOf_holdAfter (b k : Nat) : bitOf (d.holdAfter b) k = if k = b then d.layerHold b else bitOf d.mm.hold k := by
  unfold Dev.holdAfter Dev.layerHold
  split
  · next hb =>
    split
    · next hc => by_cases hk : k = b <;> simp [bitOf_sub_two_pow hb, hk, hc]
    · next hc => by_cases hk : k = b <;> simp [hk, hb, hc]
  · next hb =>
    split
    · next hc => by_cases hk : k = b <;> simp [bitOf_or_two_pow, hk, hc]
    · next hc => by_cases hk : k = b <;> simp [hk, hb, hc]

theorem Dev.holdLayer_outside {b : Nat} : (d.holdLayer b).outside = d.outside := by
  unfold Dev.holdLayer
  extract_lets
  split
  · split
    · exact Dev.post_outside.trans (Dev.runDeferred_outside.trans rfl)
    · rfl
  · split
    · exact Dev.post_outside.trans rfl
    · rfl

theorem Dev.holdLayer_climate {b : Nat} : (d.holdLayer b).climate = d.climate.withHold (d.holdAfter b) := by
  unfold Dev.holdLayer Dev.holdAfter Dev.cool Dev.hot
  rw [show (105 * degC : Int) = 105000000 from rfl, show (108 * degC : Int) = 108000000 from rfl, show (3 * degC : Int) = 3000000 from rfl]
  extract_lets
  split
  · split
    · rw [Dev.post_climate, Dev.runDeferred_climate]
      rfl
    · rfl
  · split
    · rw [Dev.post_climate]
      rfl
    · rfl

/-- The write holds of the layer-halves below n judged. -/
structure Dev.LayersHeld (d : Dev) (n : Nat) (e : Dev) : Prop where
  climate : e.climate = d.climate.withHold e.mm.hold
  outside : e.outside = d.outside
  hold : ∀ b, bitOf e.mm.hold b = if b < n then d.layerHold b else bitOf d.mm.hold b

theorem Dev.LayersHeld.halfTemps_eq {n : Nat} (h : d.LayersHeld n e) (b : Nat) : e.halfTemps b = d.halfTemps b := by
  have : e.pw = d.pw := congrArg Climate.pw h.climate
  unfold Dev.halfTemps Dev.temp
  rw [this]

theorem Dev.LayersHeld.step {n : Nat} (h : d.LayersHeld n e) : d.LayersHeld (n + 1) (e.holdLayer n) := by
  have hjudge : e.layerHold n = d.layerHold n := by
    unfold Dev.layerHold Dev.cool Dev.hot
    rw [h.halfTemps_eq, h.hold n, if_neg (Nat.lt_irrefl n)]
  have hnew := e.holdLayer_climate (b := n)
  have hhold : (e.holdLayer n).mm.hold = e.holdAfter n := congrArg Climate.hold hnew
  refine ⟨?_, Dev.holdLayer_outside.trans h.outside, fun b => ?_⟩
  · rw [hnew, hhold, h.climate]
    rfl
  · rw [hhold, Dev.bitOf_holdAfter]
    split
    · next hb => rw [hb, hjudge, if_pos (Nat.lt_succ_self n)]
    · next hb => simp only [h.hold b, show b < n + 1 ↔ b < n by omega]

theorem Dev.layersHeld {n : Nat} : d.LayersHeld n ((List.range n).foldl Dev.holdLayer d) :=
  foldl_range_induct d.LayersHeld ⟨rfl, rfl, by simp⟩ fun _ _ _ h => h.step

end
end Sys2Proof.Machine
end

section
/-!
PROOFS. Package write holds, thermal gating and the throttle indicator of a sensor round (R272, R414, R426, R428), and the trip (R429).
-/
namespace Sys2Proof.Machine

section
variable {d e : Dev}

/-! ## Write holds of packages -/

/-- The climate with the write hold and the temperature of a channel. -/
def Climate.withChan (k : Climate) (n : Nat) (x : Bool × Nat) : Climate := { k with chans := fun m => if m = n then x else k.chans m }

theorem Dev.modChan_climate_eq {n : Nat} {f : Chan → Chan} :
    (d.modChan n f).climate = d.climate.withChan n ((f (d.chan n)).hold, (f (d.chan n)).temp) := by
  refine congrArg (Climate.mk d.lt d.pw d.rs d.mm.hold) (funext fun k => ?_)
  rw [Dev.chan_modChan]
  split <;> rfl

/-- A channel under write hold after a round in which its package reads t. -/
def chanHold (held : Bool) (t : Int) : Bool := if held = true then 102000000 < t else 105000000 < t

/-- A package's readout t in one of its channels, as a round leaves it. -/
def Dev.holdChan (d : Dev) (t : Int) (n : Nat) : Dev :=
  let d := d.modChan n (fun x => { x with temp := wrapInt 8 (t / degC) })
  let pay (v : Nat) : Nat := packB [(0, n), (4, v % 2 ^ 32)]
  if (d.chan n).hold then
    if t ≤ 102 * degC then
      let k := (d.chan n).held
      let here (a : Nat) : Bool := (d.chanOf a).1 = n
      let d := d.modChan n (fun x => { x with hold := false, held := 0 })
      let d := { d.flushQueue n with mm := { (d.flushQueue n).mm with
        missOut := []
        heldWr := d.mm.heldWr.filter (fun e => e.1 < 2 ^ 32 || !here e.2) } }
      ((d.runDeferred (2 + n / 6) here).settleSr (n / 6)).post 0x4004 (pay k)
    else d
  else if 105 * degC < t then
    (d.modChan n (fun x => { x with hold := true, held := 0 })).post 0x4003 (packB [(0, n), (1, wrapInt 8 (t / degC))])
  else d

theorem Dev.holdPackage_eq (p : Nat) : d.holdPackage p = if 192 + p ∈ d.pw.th.failed then d
    else (d.holdChan (d.reading (192 + p)) (2 * p)).holdChan (d.reading (192 + p)) (2 * p + 1) := by
  by_cases hf : 192 + p ∈ d.pw.th.failed
  · rw [if_pos hf, Dev.holdPackage, if_pos (by simpa using hf)]
  · rw [if_neg hf, Dev.holdPackage, if_neg (by simpa using hf)]
    rfl

theorem Dev.modChan_outside {n : Nat} {f : Chan → Chan} : (d.modChan n f).outside = d.outside := (rfl)

theorem Dev.holdChan_outside {t : Int} {n : Nat} : (d.holdChan t n).outside = d.outside := by
  unfold Dev.holdChan
  extract_lets d1 pay k here d2 d3 mm d4
  have h1 : d1.outside = d.outside := Dev.modChan_outside
  split
  · split
    · have h3 : d4.outside = (d2.flushQueue n).outside := rfl
      rw [Dev.post_outside, Dev.settleSr_outside, Dev.runDeferred_outside, h3, Dev.flushQueue_outside]
      exact Dev.modChan_outside.trans h1
    · exact h1
  · split
    · exact Dev.post_outside.trans (Dev.modChan_outside.trans h1)
    · exact h1

theorem Climate.withChan_twice {k : Climate} {n : Nat} {x y : Bool × Nat} : (k.withChan n x).withChan n y = k.withChan n y := by
  refine congrArg (Climate.mk k.lt k.pw k.rs k.hold) (funext fun m => ?_)
  by_cases hm : m = n <;> simp [Climate.withChan, hm]

theorem Dev.holdChan_climate {t : Int} {n : Nat} :
    (d.holdChan t n).climate = d.climate.withChan n (chanHold (d.chan n).hold t, wrapInt 8 (t / 1000000)) := by
  unfold Dev.holdChan chanHold
  rw [show degC = 1000000 from rfl, show (102 * 1000000 : Int) = 102000000 from rfl, show (105 * 1000000 : Int) = 105000000 from rfl]
  extract_lets d1 pay k here d2 d3 mm d4
  have h1 : d1.climate = d.climate.withChan n ((d.chan n).hold, wrapInt 8 (t / 1000000)) := Dev.modChan_climate_eq
  have hc : d1.chan n = { d.chan n with temp := wrapInt 8 (t / 1000000) } := (d.chan_modChan n _ n).trans (if_pos rfl)
  have hset (b : Bool) : (d1.modChan n (fun x => { x with hold := b, held := 0 })).climate = d.climate.withChan n (b, wrapInt 8 (t / 1000000)) := by
    rw [Dev.modChan_climate_eq, h1, hc, Climate.withChan_twice]
  have hhold : (d1.chan n).hold = (d.chan n).hold := by rw [hc]
  clear_value d1
  rw [hhold]
  split
  · next hb =>
    split
    · next ht =>
      have h4 : d4.climate = (d2.flushQueue n).climate := rfl
      rw [Dev.post_climate, Dev.settleSr_climate, Dev.runDeferred_climate, h4, Dev.flushQueue_climate, hset, decide_eq_false (by omega)]
    · next ht => rw [h1, hb, decide_eq_true (by omega)]
  · next hb =>
    split
    · next ht => rw [Dev.post_climate, hset, decide_eq_true ht]
    · next ht => rw [h1, decide_eq_false ht, eq_false_of_ne_true hb]

theorem Dev.holdChan_still {t : Int} {n : Nat} : (d.holdChan t n).climate = { d.climate with chans := (d.holdChan t n).climate.chans } := by
  rw [Dev.holdChan_climate]
  rfl

theorem Dev.holdChan_chan {t : Int} {n : Nat} (m : Nat) : (((d.holdChan t n).chan m).hold, ((d.holdChan t n).chan m).temp)
    = if m = n then (chanHold (d.chan n).hold t, wrapInt 8 (t / 1000000)) else ((d.chan m).hold, (d.chan m).temp) :=
  congrFun (congrArg Climate.chans Dev.holdChan_climate) m

/-- The write holds of the packages below n judged. -/
structure Dev.PackagesHeld (d : Dev) (n : Nat) (e : Dev) : Prop where
  climate : e.climate = { d.climate with chans := e.climate.chans }
  outside : e.outside = d.outside
  chans : ∀ m, ((e.chan m).hold, (e.chan m).temp) = if m < 2 * n ∧ 192 + m / 2 ∉ d.pw.th.failed
    then (chanHold (d.chan m).hold (d.reading (192 + m / 2)), wrapInt 8 (d.reading (192 + m / 2) / 1000000)) else ((d.chan m).hold, (d.chan m).temp)

theorem Dev.PackagesHeld.step {n : Nat} (h : d.PackagesHeld n e) : d.PackagesHeld (n + 1) (e.holdPackage n) := by
  have hpw : e.pw = d.pw := congrArg Climate.pw h.climate
  have hread : e.reading (192 + n) = d.reading (192 + n) := by rw [Dev.reading, Dev.reading, hpw]
  rw [Dev.holdPackage_eq, hpw, hread]
  split
  · next hf =>
    refine ⟨h.climate, h.outside, fun m => ?_⟩
    rw [h.chans m]
    by_cases hm : m / 2 = n
    · rw [hm]
      simp [hf]
    · simp only [show m < 2 * (n + 1) ↔ m < 2 * n by omega]
  · next hf =>
    refine ⟨?_, Dev.holdChan_outside.trans (Dev.holdChan_outside.trans h.outside), fun m => ?_⟩
    · rw [Dev.holdChan_still, Dev.holdChan_still, h.climate]
    have hm := h.chans m
    have hnew (hn : m / 2 = n) : ((e.chan m).hold, (e.chan m).temp) = ((d.chan m).hold, (d.chan m).temp) := by
      rw [hm, if_neg (by omega)]
    by_cases hn : m / 2 = n
    · have hh : (e.chan m).hold = (d.chan m).hold := congrArg Prod.fst (hnew hn)
      rw [if_pos (show m < 2 * (n + 1) ∧ 192 + m / 2 ∉ d.pw.th.failed from ⟨by omega, hn ▸ hf⟩), hn, ← hh, Dev.holdChan_chan]
      obtain rfl | rfl : m = 2 * n + 1 ∨ m = 2 * n := by omega
      · have hfirst := (e.holdChan_chan (t := d.reading (192 + n)) (n := 2 * n) (2 * n + 1)).trans (if_neg (by omega))
        rw [if_pos rfl, show ((e.holdChan (d.reading (192 + n)) (2 * n)).chan (2 * n + 1)).hold = (e.chan (2 * n + 1)).hold from
          congrArg Prod.fst hfirst]
      · rw [if_neg (by omega), Dev.holdChan_chan, if_pos rfl]
    rw [Dev.holdChan_chan, Dev.holdChan_chan]
    rw [if_neg (by omega), if_neg (by omega), hm]
    simp only [show m < 2 * (n + 1) ↔ m < 2 * n by omega]

theorem Dev.packagesHeld {n : Nat} : d.PackagesHeld n ((List.range n).foldl Dev.holdPackage d) :=
  foldl_range_induct d.PackagesHeld ⟨rfl, rfl, by simp⟩ fun _ _ _ h => h.step

/-! ## Thermal gating -/

theorem Dev.gateRound_eq : d.gateRound = d.setTh { d.pw.th with frac := d.gateRound.pw.th.frac } := (rfl)

theorem Dev.gateRound_logic {ch : Nat} (hch : ch < 96) : Tbl.get d.gateRound.pw.th.frac ch 0
    = nextFrac (Tbl.get d.pw.th.frac ch 0) (d.temp ch) 105000000 102000000 (decide (105000000 < d.temp ch)) := by
  unfold Dev.gateRound
  extract_lets fr logic all
  rw [Dev.setTh_th]
  refine (Tbl.get_fill (base := 96) fun _ => rfl).trans ?_
  rw [if_neg (by omega)]
  refine (Tbl.get_fill (base := 0) fun j => (Nat.zero_add j).symm).trans ?_
  rw [if_pos (by omega)]
  rfl

theorem Dev.gateRound_layer {b : Nat} (hb : b < 8) : Tbl.get d.gateRound.pw.th.frac (96 + b) 0
    = nextFrac (Tbl.get d.pw.th.frac (96 + b) 0) (maxOf (d.halfTemps b)) 108000000 105000000
        (bitOf d.mm.hold b && decide (108000000 < maxOf (d.halfTemps b))) := by
  unfold Dev.gateRound
  extract_lets fr logic all
  rw [Dev.setTh_th]
  refine (Tbl.get_fill (base := 96) fun _ => rfl).trans ?_
  rw [if_pos (by omega), Nat.add_sub_cancel_left]
  rfl

theorem Dev.gateEvents_climate {before : List Nat} {q : Nat} : (d.gateEvents before q).climate = d.climate := by
  fun_cases Dev.gateEvents
  · exact Dev.post_climate
  · exact Dev.post_climate
  · rfl

theorem Dev.gateEvents_outside {before : List Nat} {q : Nat} : (d.gateEvents before q).outside = d.outside := by
  fun_cases Dev.gateEvents
  · exact Dev.post_outside
  · exact Dev.post_outside
  · rfl

/-! ## The throttle indicator -/

/-- A throttle of the temperatures is in force. -/
def Climate.hot (k : Climate) : Bool := k.pw.th.frac.any (fun e => e.2 != 0) || k.hold != 0 || (List.range 24).any (fun n => (k.chans n).1)

theorem Dev.hotNow_eq : d.hotNow = d.climate.hot := (rfl)

theorem Dev.blameAll_outside {p : Work → Bool} {cause x : Nat} : (d.blameAll p cause x).outside = d.outside := (rfl)

/-- The climate with the throttle indicator set. -/
def Climate.throttled (k : Climate) : Climate := { k with pw := { k.pw with throttle := true, thrLt := k.lt } }

theorem Dev.throttleNow_climate {was : Bool} : (d.throttleNow was).climate
    = if (0 < d.pw.ctl.g || d.hotNow || was) = true then d.climate.throttled else d.climate := by
  unfold Dev.throttleNow
  extract_lets d1 d2 pw
  have h1 : d1.climate = d.climate := by
    unfold d1
    split
    · exact Dev.blameAll_climate
    · rfl
  have h2 : d2.climate = d.climate := by
    unfold d2
    split
    · exact Dev.blameAll_climate.trans h1
    · exact h1
  clear_value d2
  have hpw : d2.pw = d.pw := congrArg Climate.pw h2
  rw [hpw, Dev.hotNow_eq, h2, ← Dev.hotNow_eq]
  split
  · rw [← h2]
    rfl
  · exact h2

theorem Dev.throttleNow_outside {was : Bool} : (d.throttleNow was).outside = d.outside := by
  unfold Dev.throttleNow
  extract_lets d1 d2 pw
  have h1 : d1.outside = d.outside := by
    unfold d1
    split <;> rfl
  have h2 : d2.outside = d.outside := by
    unfold d2
    split
    · exact Dev.blameAll_outside.trans h1
    · exact h1
  clear_value d2
  split <;> exact h2

/-! ## The round after the trip -/

/-- What follows the trip in a round: SUSPECT updates, write holds, gating and the throttle indicator, in that order (R430). -/
def Dev.settleRound (d : Dev) (new : List (Nat × Int)) (was : Bool) : Dev :=
  let d := new.foldl (fun (d : Dev) (e : Nat × Int) =>
    (d.bump pwrSet 4 1).post 0xA002 (packB [(0, e.1 / 2 + 1), (1, e.1 % 2), (2, wrapInt 16 (eighths e.2))])) d
  let d := (List.range 8).foldl Dev.holdLayer d
  let d := (List.range 12).foldl Dev.holdPackage d
  let before := (List.range 4).map d.quadFrac
  let d := (List.range 4).foldl (fun (d : Dev) q => d.gateEvents before q) d.gateRound
  d.throttleNow was

/-- What a round leaves in e of the state d that its trip leaves. -/
structure Dev.Settled (d e : Dev) : Prop where
  th : ∃ fr, e.pw.th = { d.pw.th with frac := fr }
  pw : e.pw = { d.pw with th := e.pw.th, throttle := e.pw.throttle, thrLt := e.pw.thrLt }
  lt : e.lt = d.lt
  rs : e.rs = d.rs
  outside : e.outside = d.outside
  hold : ∀ b, b < 8 → bitOf e.mm.hold b = d.layerHold b
  chans : ∀ m, m < 24 → ((e.chan m).hold, (e.chan m).temp) = if 192 + m / 2 ∉ d.pw.th.failed
    then (chanHold (d.chan m).hold (d.reading (192 + m / 2)), wrapInt 8 (d.reading (192 + m / 2) / 1000000)) else ((d.chan m).hold, (d.chan m).temp)
  logic : ∀ ch, ch < 96 → Tbl.get e.pw.th.frac ch 0
    = nextFrac (Tbl.get d.pw.th.frac ch 0) (d.temp ch) 105000000 102000000 (decide (105000000 < d.temp ch))
  layer : ∀ b, b < 8 → Tbl.get e.pw.th.frac (96 + b) 0
    = nextFrac (Tbl.get d.pw.th.frac (96 + b) 0) (maxOf (d.halfTemps b)) 108000000 105000000
        (bitOf e.mm.hold b && decide (108000000 < maxOf (d.halfTemps b)))
  throttled : 0 < e.pw.ctl.g ∨ e.hotNow = true → e.pw.throttle = true ∧ e.pw.thrLt = d.lt

/-- The climate that a round's gating and throttle indicator leave, from the state in which write holds are judged on. -/
theorem Dev.throttleNow_gated {g : Dev} {was : Bool} (hg : g.climate = d.gateRound.climate) : ∃ thr lt,
    (g.throttleNow was).climate = { d.climate with
      pw := { d.pw with th := { d.pw.th with frac := d.gateRound.pw.th.frac }, throttle := thr, thrLt := lt } }
    ∧ (0 < (g.throttleNow was).pw.ctl.g ∨ (g.throttleNow was).hotNow = true → thr = true ∧ lt = d.lt) := by
  have hgate : g.climate = d.climate.withTh { d.pw.th with frac := d.gateRound.pw.th.frac } := by
    rw [hg, Dev.gateRound_eq, Dev.setTh_climate]
    rfl
  have hnew := g.throttleNow_climate (was := was)
  split at hnew
  · exact ⟨true, d.lt, by rw [hnew, hgate]; rfl, fun _ => ⟨rfl, rfl⟩⟩
  · next hcond =>
    refine ⟨d.pw.throttle, d.pw.thrLt, by rw [hnew, hgate]; rfl, fun hhot => absurd ?_ hcond⟩
    rw [Dev.hotNow_eq, hnew, ← Dev.hotNow_eq, show (g.throttleNow was).pw = g.pw from congrArg Climate.pw hnew] at hhot
    simp only [Bool.or_eq_true, decide_eq_true_eq]
    exact .inl hhot

theorem Dev.settleRound_settled {new : List (Nat × Int)} {was : Bool} : d.Settled (d.settleRound new was) := by
  unfold Dev.settleRound
  extract_lets d1 d2 d3 before d4
  have h1 : d1.climate = d.climate := foldl_climate fun _ _ => Dev.post_climate.trans Dev.bump_climate
  have o1 : d1.outside = d.outside := foldl_outside fun _ _ => Dev.post_outside.trans Dev.bump_outside
  have h2 : d1.LayersHeld 8 d2 := Dev.layersHeld
  have h3 : d2.PackagesHeld 12 d3 := Dev.packagesHeld
  have h4 : d4.climate = d3.gateRound.climate := foldl_climate fun _ _ => Dev.gateEvents_climate
  have o4 : d4.outside = d3.gateRound.outside := foldl_outside fun _ _ => Dev.gateEvents_outside
  obtain ⟨thr, lt, h5, hthr⟩ := Dev.throttleNow_gated (was := was) h4
  clear_value d1 d2 d3 d4
  have hp1 : d1.pw = d.pw := congrArg Climate.pw h1
  have hp2 : d2.pw = d.pw := (congrArg Climate.pw h2.climate).trans hp1
  have hp3 : d3.pw = d.pw := (congrArg Climate.pw h3.climate).trans hp2
  have hh3 : d3.mm.hold = d2.mm.hold := congrArg Climate.hold h3.climate
  have hh5 : (d4.throttleNow was).mm.hold = d2.mm.hold := (congrArg Climate.hold h5).trans hh3
  have ht1 (b : Nat) : d1.halfTemps b = d.halfTemps b := by
    unfold Dev.halfTemps Dev.temp
    rw [hp1]
  have ht3 (b : Nat) : d3.halfTemps b = d.halfTemps b := by
    unfold Dev.halfTemps Dev.temp
    rw [hp3]
  have hpw : (d4.throttleNow was).pw = { d.pw with th := { d.pw.th with frac := d3.gateRound.pw.th.frac }, throttle := thr, thrLt := lt } := by
    rw [← hp3]
    exact congrArg Climate.pw h5
  have hlt3 : d3.lt = d.lt := (congrArg Climate.lt h3.climate).trans ((congrArg Climate.lt h2.climate).trans (congrArg Climate.lt h1))
  have hchan2 (m : Nat) : ((d2.chan m).hold, (d2.chan m).temp) = ((d.chan m).hold, (d.chan m).temp) :=
    (congrFun (congrArg Climate.chans h2.climate) m).trans (congrFun (congrArg Climate.chans h1) m)
  have hchan5 (m : Nat) : (((d4.throttleNow was).chan m).hold, ((d4.throttleNow was).chan m).temp) = ((d3.chan m).hold, (d3.chan m).temp) :=
    congrFun (congrArg Climate.chans h5) m
  constructor
  case th => exact ⟨_, by rw [hpw]⟩
  case pw => rw [hpw]
  case lt => exact (congrArg Climate.lt h5).trans hlt3
  case rs =>
    exact (congrArg Climate.rs h5).trans ((congrArg Climate.rs h3.climate).trans ((congrArg Climate.rs h2.climate).trans (congrArg Climate.rs h1)))
  case outside => exact Dev.throttleNow_outside.trans (o4.trans (h3.outside.trans (h2.outside.trans o1)))
  case hold =>
    intro b hb
    rw [hh5, h2.hold b, if_pos hb, Dev.layerHold, Dev.layerHold, Dev.cool, Dev.cool, Dev.hot, Dev.hot, ht1,
      show d1.mm.hold = d.mm.hold from congrArg Climate.hold h1]
  case chans =>
    intro m hm
    obtain ⟨hh, -⟩ := Prod.mk.inj (hchan2 m)
    rw [hchan5, h3.chans m, hchan2 m, hh, Dev.reading, Dev.reading, hp2]
    simp only [show m < 2 * 12 from hm, true_and]
  case logic =>
    intro ch hch
    rw [hpw]
    refine (Dev.gateRound_logic hch).trans ?_
    rw [Dev.temp, Dev.temp, hp3]
  case layer =>
    intro b hb
    rw [hpw, hh5, ← hh3]
    refine (Dev.gateRound_layer hb).trans ?_
    rw [ht3, hp3]
  case throttled =>
    intro h
    rw [hpw, ← hlt3]
    exact hthr h

end
end Sys2Proof.Machine
end

section
/-!
PROOFS. The trip of a sensor round (R429, R430), and the round as a whole: O57.
-/
namespace Sys2Proof.Machine

section
variable {d e : Dev}

/-! ## The hottest channel -/

/-- The hottest channel of the first n is one of them, 0 for none. -/
theorem Dev.hottest_range {n : Nat} (hn : 0 < n) : d.hottest (List.range n) < n ∧ ∀ ch, ch < n → d.temp ch ≤ d.temp (d.hottest (List.range n)) := by
  have hfirst : (List.range n).getD 0 0 = 0 := by
    rw [List.getD_eq_getElem _ _ (by simpa using hn)]
    simp
  unfold Dev.hottest
  rw [hfirst]
  refine foldl_range_induct (fun i m => m < n ∧ ∀ ch, ch < i → d.temp ch ≤ d.temp m) ⟨hn, fun ch hch => absurd hch ch.not_lt_zero⟩
    fun i m hi ⟨hm, hmax⟩ => ?_
  split
  · next hlt =>
    refine ⟨hi, fun ch hch => ?_⟩
    obtain hlt' | rfl : ch < i ∨ ch = i := by omega
    · exact (hmax ch hlt').trans hlt.le
    · exact le_refl _
  · next hge =>
    refine ⟨hm, fun ch hch => ?_⟩
    obtain hlt' | rfl : ch < i ∨ ch = i := by omega
    · exact hmax ch hlt'
    · exact not_lt.mp hge

theorem Dev.tripAt_none : d.tripAt = none ↔ ∀ ch, ch < 192 → d.temp ch ≤ 115000000 := by
  obtain ⟨hlt, hmax⟩ := d.hottest_range (n := 192) (by decide)
  unfold Dev.tripAt tripChans
  rw [show (115 * degC : Int) = 115000000 from rfl]
  dsimp only
  split
  · next hhot => exact ⟨fun h => absurd h (by simp), fun h => absurd (h _ hlt) (by omega)⟩
  · next hcool => exact ⟨fun _ ch hch => (hmax ch hch).trans (by omega), fun _ => rfl⟩

theorem Dev.hottest_of_tripAt {ch : Nat} (h : d.tripAt = some ch) : ch < 192 ∧ ∀ k, k < 192 → d.temp k ≤ d.temp ch := by
  unfold Dev.tripAt at h
  dsimp only at h
  split at h
  · cases h
    exact d.hottest_range (by decide)
  · cases h

/-! ## The trip -/

/-- What a trip with channel ch at t leaves of what the round goes on with. -/
structure Dev.Tripped (d : Dev) (ch : Nat) (t : Int) (e : Dev) : Prop where
  th : e.pw.th = { d.pw.th with tripped := true, tripCh := ch, tripTemp := t }
  trans : e.pw.trans = none
  run : e.rs.run.isSome = true
  lt : e.lt = d.lt
  hold : e.mm.hold = d.mm.hold
  chans : ∀ n, ((e.chan n).hold, (e.chan n).temp) = ((d.chan n).hold, (d.chan n).temp)

theorem Dev.tellDone_climate {kind r i : Nat} : (d.tellDone kind r i).climate = d.climate := Dev.post_climate

/-- A power command that ends leaves of the climate all but its result. -/
theorem Dev.Tripped.pwrDone {ch kind r i : Nat} {t : Int} (h : d.Tripped ch t e) : d.Tripped ch t (e.pwrDone kind r i) := by
  have hclim : (e.pwrDone kind r i).climate = { e.climate with pw := { e.pw with result := r, failed := i } } := Dev.tellDone_climate
  have hpw : (e.pwrDone kind r i).pw = { e.pw with result := r, failed := i } := congrArg Climate.pw hclim
  exact ⟨by rw [hpw]; exact h.th, by rw [hpw]; exact h.trans, (congrArg (fun k : Climate => k.rs.run.isSome) hclim).trans h.run,
    (congrArg Climate.lt hclim).trans h.lt, (congrArg Climate.hold hclim).trans h.hold,
    fun n => (congrFun (congrArg Climate.chans hclim) n).trans (h.chans n)⟩

/-- A trip's latch, and no power command in flight. -/
def Climate.latched (k : Climate) (ch : Nat) (t : Int) : Climate :=
  { k with pw := { k.pw with th := { k.pw.th with tripped := true, tripCh := ch, tripTemp := t }, trans := none } }

theorem Dev.Tripped.of_latched {ch : Nat} {t : Int} (h : e.climate = d.climate.latched ch t) (hrun : e.rs.run.isSome = true) : d.Tripped ch t e :=
  ⟨congrArg (fun k : Climate => k.pw.th) h, congrArg (fun k : Climate => k.pw.trans) h, hrun, congrArg Climate.lt h, congrArg Climate.hold h,
    fun n => congrFun (congrArg Climate.chans h) n⟩

/-- The device reset of a trip leaves the latch. -/
theorem Dev.Tripped.of_reset {f : Dev} {ch origin : Nat} {t : Int} (h : f.climate = d.climate.latched ch t) : d.Tripped ch t (f.acceptDevice origin) := by
  have hreset := f.acceptDevice_climate (origin := origin)
  rw [h] at hreset
  exact ⟨congrArg (fun k : Climate => k.pw.th) hreset, congrArg (fun k : Climate => k.pw.trans) hreset,
    congrArg (fun k : Climate => k.rs.run.isSome) hreset, congrArg Climate.lt hreset, congrArg Climate.hold hreset,
    fun n => congrFun (congrArg Climate.chans hreset) n⟩

theorem Dev.trip_tripped {ch : Nat} {t : Int} : d.Tripped ch t (d.trip ch t) := by
  unfold Dev.trip
  extract_lets th d1 d2 x d3 d4
  have h3 : d3.climate = d.climate.latched ch t := by
    have h2 : d2.climate = d1.climate := Dev.blameAll_climate.trans Dev.post_climate
    exact congrArg (fun k : Climate => { k with pw := { k.pw with trans := none } }) h2
  have h4 : d.Tripped ch t d4 := by
    unfold d4
    split
    · next hrun => exact .of_latched h3 hrun
    · exact .of_reset h3
  clear_value d4 x
  cases x with
  | none => exact h4
  | some x => exact h4.pwrDone

/-! ## The round -/

/-- A round is due: the management processor runs, at an LT multiple of 100,000 that has had none (R421, R430). -/
def Dev.roundDue (d : Dev) : Prop := d.hq.mgmtRun = true ∧ d.lt % 100000 = 0 ∧ d.pw.th.lastRound ≠ some d.lt

theorem sensorRound_idle {samples : List (Option Int)} {traffic : List (Nat × Nat)} {c : Sec} (h : ¬ d.roundDue) :
    sensorRound samples traffic c d = (c, d) := by
  rw [sensorRound, if_pos]
  simp only [Dev.roundDue, not_and_or, not_not] at h
  simp only [Bool.or_eq_true, Bool.not_eq_true', bne_iff_ne, decide_eq_true_eq]
  rcases h with h | h | h
  · exact .inl (.inl (by simpa using h))
  · exact .inl (.inr h)
  · exact .inr h

/-- The licences and the part after a round's trip, where it trips. -/
def tripRound (c : Sec) (d : Dev) : Sec × Dev :=
  match d.tripAt with
  | some ch => if d.pw.th.tripped then (c, d) else (if d.rs.run.isSome then c else c.takeLicences, d.trip ch (d.temp ch))
  | none => (c, d)

theorem sensorRound_due {samples : List (Option Int)} {traffic : List (Nat × Nat)} {c : Sec} (h : d.roundDue) :
    ∃ new was, sensorRound samples traffic c d =
      ((tripRound c ((d.sampleTo (fun ch => samples.getD ch none) 256).measure traffic)).1,
        (tripRound c ((d.sampleTo (fun ch => samples.getD ch none) 256).measure traffic)).2.settleRound new was) := by
  obtain ⟨hrun, hlt, hnew⟩ := h
  refine ⟨((d.sampleTo (fun ch => samples.getD ch none) 256).effAll traffic).2, d.pw.throttle && d.hotNow, ?_⟩
  rw [sensorRound, if_neg (by simp [hrun, hlt, hnew])]
  extract_lets was d1 prev
  have hsample : d.sampleTo (fun ch => samples.getD ch none) 256 = d1 := by unfold d1 Dev.sampleTo; rfl
  have heff : (List.range 8).foldl (Dev.effLayer prev traffic) (d1.effLogic, []) = d1.effAll traffic := rfl
  rw [hsample, heff, Dev.measure]
  generalize d1.effAll traffic = r
  obtain ⟨f, new⟩ := r
  dsimp only
  generalize f.setTh { f.pw.th with lastRound := some f.lt } = g
  rfl

/-! ## What the trip leaves to the round -/

/-- What the trip of a round, or none, leaves of what the round goes on with. -/
structure Dev.TripLeaves (f g : Dev) : Prop where
  th : ∃ tr ch t, g.pw.th = { f.pw.th with tripped := tr, tripCh := ch, tripTemp := t }
  lt : g.lt = f.lt
  hold : g.mm.hold = f.mm.hold
  chans : ∀ n, ((g.chan n).hold, (g.chan n).temp) = ((f.chan n).hold, (f.chan n).temp)

theorem Dev.Tripped.leaves {ch : Nat} {t : Int} (h : d.Tripped ch t e) : d.TripLeaves e := ⟨⟨true, ch, t, h.th⟩, h.lt, h.hold, h.chans⟩

theorem tripRound_still {c : Sec} (h : d.pw.th.tripped = true ∨ ∀ ch, ch < 192 → d.temp ch ≤ 115000000) : tripRound c d = (c, d) := by
  unfold tripRound
  split
  · next ch hat =>
    have htrip : d.pw.th.tripped = true := h.resolve_right fun hcool => by simp [Dev.tripAt_none.mpr hcool] at hat
    rw [if_pos htrip]
  · rfl

theorem tripRound_trips {c : Sec} (ht : d.pw.th.tripped = false) (h : ∃ ch, ch < 192 ∧ 115000000 < d.temp ch) :
    ∃ ch, ch < 192 ∧ (∀ k, k < 192 → d.temp k ≤ d.temp ch) ∧ d.Tripped ch (d.temp ch) (tripRound c d).2 := by
  obtain ⟨k, hk, hhot⟩ := h
  cases hat : d.tripAt with
  | none => exact absurd (Dev.tripAt_none.mp hat k hk) (by omega)
  | some ch =>
    obtain ⟨hch, hmax⟩ := Dev.hottest_of_tripAt hat
    refine ⟨ch, hch, hmax, ?_⟩
    rw [tripRound, hat]
    simp only [ht, Bool.false_eq_true, if_false]
    exact Dev.trip_tripped

theorem tripRound_leaves {c : Sec} : d.TripLeaves (tripRound c d).2 := by
  by_cases h : d.pw.th.tripped = true ∨ ∀ ch, ch < 192 → d.temp ch ≤ 115000000
  · rw [tripRound_still h]
    exact ⟨⟨_, _, _, rfl⟩, rfl, rfl, fun _ => rfl⟩
  · simp only [not_or, not_forall, not_le] at h
    obtain ⟨ht, k, hk, hhot⟩ := h
    obtain ⟨ch, -, -, htrip⟩ := tripRound_trips (c := c) (eq_false_of_ne_true ht) ⟨k, hk, hhot⟩
    exact htrip.leaves

/-! ## Holds, gating and the throttle indicator of the round -/

/-- The write holds, fractions and throttle indicator that the round d to e leaves. -/
structure Dev.Held (d e : Dev) : Prop where
  layer : ∀ b, b < 8 → (bitOf e.mm.hold b = true ↔
    if bitOf d.mm.hold b = true then ¬ (maxOf (e.halfTemps b) ≤ 105000000 ∧ 3000000 ≤ minOf (e.halfTemps b))
    else 108000000 < maxOf (e.halfTemps b) ∨ minOf (e.halfTemps b) < 0)
  failed : ∀ n, n < 24 → 192 + n / 2 ∈ e.pw.th.failed → (e.chan n).hold = (d.chan n).hold
  package : ∀ n, n < 24 → 192 + n / 2 ∉ e.pw.th.failed → (e.chan n).temp = wrapInt 8 (e.reading (192 + n / 2) / 1000000)
    ∧ ((e.chan n).hold = true ↔ if (d.chan n).hold = true then 102000000 < e.reading (192 + n / 2) else 105000000 < e.reading (192 + n / 2))
  logicFrac : ∀ ch, ch < 96 → Tbl.get e.pw.th.frac ch 0
    = nextFrac (Tbl.get d.pw.th.frac ch 0) (e.temp ch) 105000000 102000000 (decide (105000000 < e.temp ch))
  layerFrac : ∀ b, b < 8 → Tbl.get e.pw.th.frac (96 + b) 0
    = nextFrac (Tbl.get d.pw.th.frac (96 + b) 0) (maxOf (e.halfTemps b)) 108000000 105000000
        (bitOf e.mm.hold b && decide (108000000 < maxOf (e.halfTemps b)))
  throttled : 0 < e.pw.ctl.g ∨ e.hotNow = true → e.pw.throttle = true ∧ e.pw.thrLt = d.lt

theorem Dev.layerHold_iff (b : Nat) : d.layerHold b = true ↔
    if bitOf d.mm.hold b = true then ¬ (maxOf (d.halfTemps b) ≤ 105000000 ∧ 3000000 ≤ minOf (d.halfTemps b))
    else 108000000 < maxOf (d.halfTemps b) ∨ minOf (d.halfTemps b) < 0 := by
  unfold Dev.layerHold Dev.cool Dev.hot
  split
  · rw [Bool.not_eq_true', ← Bool.not_eq_true, Bool.and_eq_true, decide_eq_true_eq, decide_eq_true_eq]
  · rw [Bool.or_eq_true, decide_eq_true_eq, decide_eq_true_eq]

theorem chanHold_iff {held : Bool} {t : Int} : chanHold held t = true ↔ if held = true then 102000000 < t else 105000000 < t := by
  unfold chanHold
  split <;> exact decide_eq_true_iff

section
variable {f g : Dev}

/-- Temperatures and readings after the measurements. -/
theorem Dev.Settled.th_of_leaves (hs : g.Settled e) (hl : f.TripLeaves g) :
    ∃ fr tr ch t, e.pw.th = { f.pw.th with frac := fr, tripped := tr, tripCh := ch, tripTemp := t } := by
  obtain ⟨fr, hfr⟩ := hs.th
  obtain ⟨tr, ch, t, htr⟩ := hl.th
  exact ⟨fr, tr, ch, t, by rw [hfr, htr]⟩

theorem Dev.Settled.held (hm : Dev.ThermOnly d f) (hfrac : f.pw.th.frac = d.pw.th.frac) (hl : f.TripLeaves g) (hs : g.Settled e) : d.Held e := by
  obtain ⟨fr, hfr⟩ := hs.th
  obtain ⟨tr, ch, t, htr⟩ := hl.th
  have htemp (k : Nat) : g.temp k = e.temp k := by rw [Dev.temp, Dev.temp, hfr]
  have hhalf (b : Nat) : g.halfTemps b = e.halfTemps b := List.map_congr_left fun j _ => htemp _
  have hread (k : Nat) : g.reading k = e.reading k := by rw [Dev.reading, Dev.reading, hfr]
  have hfail : g.pw.th.failed = e.pw.th.failed := by rw [hfr]
  have hgfrac : g.pw.th.frac = d.pw.th.frac := by rw [htr, hfrac]
  have hhold : g.mm.hold = d.mm.hold := hl.hold.trans (congrArg Climate.hold hm.climate)
  have hchan (n : Nat) : ((g.chan n).hold, (g.chan n).temp) = ((d.chan n).hold, (d.chan n).temp) :=
    (hl.chans n).trans (congrFun (congrArg Climate.chans hm.climate) n)
  have hlt : g.lt = d.lt := hl.lt.trans (congrArg Climate.lt hm.climate)
  constructor
  · intro b hb
    rw [hs.hold b hb, Dev.layerHold_iff, hhold, hhalf]
  · intro n hn hbad
    have hkeep := hs.chans n hn
    rw [hfail, if_neg (not_not.mpr hbad), hchan n] at hkeep
    exact congrArg Prod.fst hkeep
  · intro n hn hgood
    have hnew := hs.chans n hn
    rw [hfail, if_pos hgood, hread] at hnew
    obtain ⟨hh, ht⟩ := Prod.mk.inj hnew
    refine ⟨ht, ?_⟩
    rw [hh, chanHold_iff, show (g.chan n).hold = (d.chan n).hold from congrArg Prod.fst (hchan n)]
  · intro k hk
    rw [hs.logic k hk, hgfrac, htemp]
  · intro b hb
    rw [hs.layer b hb, hgfrac, hhalf]
  · intro hhot
    rw [← hlt]
    exact hs.throttled hhot

end

end
end Sys2Proof.Machine
end

section
/-!
PROOFS. O57: the sensor round meets its statement.
-/
namespace Sys2Proof.Machine

section
variable {d e f g : Dev} {x : Nat → Option Int} {traffic : List (Nat × Nat)}

theorem exec_sensorRound (samples : List (Option Int)) (traffic : List (Nat × Nat)) (s : State) : exec (.sensorRound samples traffic) s
    = .next { s with sec := (sensorRound samples traffic s.sec s.dev).1, dev := (sensorRound samples traffic s.sec s.dev).2 } := by
  rw [show exec (.sensorRound samples traffic) s = s.onBoth (sensorRound samples traffic) from rfl, State.onBoth_eq]

theorem Dev.aboveOf_eq (b j : Nat) : d.aboveOf d.pw.th.eff b j
    = if b < 6 then d.temp (posChan (b + 2) j) else (((d.reg 0x4006C).toNat % 1024 : Nat) : Int) * 250000 := by
  rw [Dev.aboveOf, bits_zero]
  rfl

theorem meanOf_map (f : Nat → Int) (js : List Nat) : meanOf (js.map f) = (js.map f).sum / (js.length : Int) := by rw [meanOf, List.length_map]

theorem Dev.layerDelta_eq (m : Nat → Int) (b : Nat) : d.layerDelta m b = ((d.goodPos b).map m).sum / ((d.goodPos b).length : Int)
    - ((d.goodPos b).map fun j => d.reading (posChan b j)).sum / ((d.goodPos b).length : Int) := by
  rw [Dev.layerDelta, meanOf_map, meanOf_map]

/-- A round that does not trip leaves all but the round's own state. -/
structure Dev.Quietly (d e : Dev) : Prop where
  outside : e.outside = d.outside
  rs : e.rs = d.rs
  lt : e.lt = d.lt
  ctl : e.pw.ctl = d.pw.ctl
  trans : e.pw.trans = d.pw.trans
  pstate : e.pw.pstate = d.pw.pstate
  tripped : e.pw.th.tripped = d.pw.th.tripped

theorem Dev.Settled.quietly (hm : Dev.ThermOnly d f) (htr : f.pw.th.tripped = d.pw.th.tripped) (hs : f.Settled e) : d.Quietly e := by
  obtain ⟨fr, hfr⟩ := hs.th
  exact ⟨hs.outside.trans hm.outside, hs.rs.trans hm.rs_eq, hs.lt.trans (congrArg Climate.lt hm.climate),
    by rw [hs.pw, hm.pw_eq], by rw [hs.pw, hm.pw_eq], by rw [hs.pw, hm.pw_eq], by rw [hfr, htr]⟩

end

end Sys2Proof.Machine

namespace Sys2Proof.Thermal
open Sys2Proof.Machine

/-- Settles O57: a round measures (`Dev.Sampled.measured`), trips or not (`tripRound_leaves`), and settles holds and gating on the temperatures
measured (`Dev.Settled.held`). The device reset of a trip leaves the climate those are judged by (`Dev.acceptDevice_climate`). -/
theorem sensorRound : Obligations.SensorRound := by
  unfold Obligations.SensorRound
  intro samples traffic s d o due
  refine ⟨fun hidle => ?_, fun hdue => ?_⟩
  · unfold o
    rw [exec_sensorRound, sensorRound_idle hidle]
  obtain ⟨new, was, hround⟩ := sensorRound_due (samples := samples) (traffic := traffic) (c := s.sec) hdue
  have hsample := d.sampled (x := fun ch => samples.getD ch none) (n := 256)
  have hm := hsample.measure_thermOnly (traffic := traffic)
  obtain ⟨-, -, hfrac, htrip⟩ := hsample.measure_rest (traffic := traffic)
  have hf := hsample.measured (traffic := traffic) (by decide)
  generalize (d.sampleTo (fun ch => samples.getD ch none) 256).measure traffic = f at hround hm hfrac htrip hf
  have hleaves := tripRound_leaves (d := f) (c := s.sec)
  have hs := (tripRound s.sec f).2.settleRound_settled (new := new) (was := was)
  generalize he : (tripRound s.sec f).2.settleRound new was = e at hround hs
  have hth := hs.th_of_leaves hleaves
  have htemp (ch : Nat) : e.temp ch = f.temp ch := by
    obtain ⟨fr, tr, c, t, hth⟩ := hth
    rw [Dev.temp, Dev.temp, hth]
  have hM := hf.congr hth
  have hH := hs.held hm hfrac hleaves
  refine ⟨{ s with sec := (tripRound s.sec f).1, dev := e }, ?_, hM.lastRound, hM.read, hM.failed, hM.logic, hM.standIn, ?_, ?_, ?_, hH.package,
    hH.logicFrac, hH.layerFrac, hH.throttled, ?_, ?_⟩
  · unfold o
    rw [exec_sensorRound, hround]
  · intro b j hb hj on model below above
    have hlayer := hM.layers b hb
    exact ⟨(hlayer.model j hj).trans (by rw [Dev.aboveOf_eq]; rfl), hlayer.modelled j hj, hlayer.measured j hj⟩
  · intro b hb js mean delta n run
    have hlayer := hM.layers b hb
    have hrun : layerRun (d.on (72 + b)) (e.goodPos b) (e.layerDelta (fun j => Tbl.get e.pw.th.model (12 * b + j) 0) b)
        (Tbl.get d.pw.th.rounds b 0) = run := by
      rw [Dev.layerDelta_eq]
      rfl
    exact ⟨hrun ▸ hlayer.rounds, hrun ▸ hlayer.suspect, hH.layer b hb⟩
  · intro p hp hbad
    exact ⟨hH.failed (2 * p) (by omega) (by rwa [show 2 * p / 2 = p by omega]),
      hH.failed (2 * p + 1) (by omega) (by rwa [show (2 * p + 1) / 2 = p by omega])⟩
  · intro hcool
    have hstill := tripRound_still (c := s.sec) (d := f) (by rw [htrip]; simpa only [htemp] using hcool)
    rw [hstill] at hs
    obtain ⟨hout, hrs, hlt, hctl, htrans, hpstate, htr⟩ := hs.quietly hm htrip
    exact ⟨congrArg Prod.fst hstill, rfl, congrArg Outside.gr hout, congrArg Outside.fab hout, congrArg Outside.col hout, congrArg Outside.upd hout, hrs,
      congrArg Outside.dom hout, congrArg Outside.regs hout, hlt, hctl, htrans, hpstate, htr⟩
  · intro hnot hhot
    obtain ⟨ch, hch, hmax, htripped⟩ := tripRound_trips (c := s.sec) (htrip.trans hnot) (by simpa only [htemp] using hhot)
    obtain ⟨fr, hfr⟩ := hs.th
    have hlatch : e.pw.th = { f.pw.th with frac := fr, tripped := true, tripCh := ch, tripTemp := f.temp ch } := by rw [hfr, htripped.th]
    have hpw : e.pw.trans = (tripRound s.sec f).2.pw.trans := by rw [hs.pw]
    rw [hlatch]
    refine ⟨rfl, hch, (htemp ch).symm, fun k hk => ?_, hpw.trans htripped.trans, ?_⟩
    · rw [htemp, htemp]
      exact hmax k hk
    · rw [hs.rs]
      exact htripped.run

end Sys2Proof.Thermal
end
